-- ==== Sys2Proof/Word.lean ====
section
/-! DEFINITION. The word types of the part (R5: eight-bit bytes, little-endian words) and their plainest arithmetic. -/

namespace Sys2Proof

/-- One byte. -/
abbrev Byte := BitVec 8
/-- A 16-bit word: a switch word, a virtual-channel entry. -/
abbrev Half := BitVec 16
/-- A 32-bit word: a C-word, an E-word, a header word. -/
abbrev Word := BitVec 32
/-- A 64-bit word: a general register of a sequencer. -/
abbrev DWord := BitVec 64
/-- The 256-bit payload of a token, a vector register. -/
abbrev Vec := BitVec 256

/-- One bit from a truth value. -/
def bit (b : Bool) : BitVec 1 := if b then 1#1 else 0#1

/-- `b` as a 64-bit number, 1 or 0. -/
def flag64 (b : Bool) : DWord := if b then 1#64 else 0#64

/-- The bits `hi` down to `lo` of `x`, as a number. -/
def bitsNat {w : Nat} (x : BitVec w) (hi lo : Nat) : Nat := (x.toNat >>> lo) % 2 ^ (hi + 1 - lo)

/-- Bit `i` of `x`. -/
def bitAt {w : Nat} (x : BitVec w) (i : Nat) : Bool := x.getLsbD i

end Sys2Proof
end

