-- ==== Sys2Proof/Machine/Bits.lean ====
section
/-! DEFINITION. Helpers over bit vectors, bytes, lists and fixed-length vectors. Everything here is structural, so the kernel evaluates it. -/

namespace Sys2Proof.Machine

/-- The bits `hi` down to `lo` of `x` as a bit vector of the width asked for. -/
def field {w : Nat} (x : BitVec w) (lo n : Nat) : BitVec n := BitVec.ofNat n (x.toNat >>> lo)

/-- `x` with its bits `lo + n - 1` down to `lo` replaced by `v`. -/
def putField {w n : Nat} (x : BitVec w) (lo : Nat) (v : BitVec n) : BitVec w :=
  let mask := ((1#w <<< n) - 1#w) <<< lo
  (x &&& ~~~mask) ||| ((BitVec.setWidth w v) <<< lo)

/-- `x` with bit `i` made `b`. -/
def putBit {w : Nat} (x : BitVec w) (i : Nat) (b : Bool) : BitVec w :=
  if b then x ||| (1#w <<< i) else x &&& ~~~(1#w <<< i)

/-- SignExt (R192): the low `n` bits of `x` as a signed 64-bit number. -/
def signExt (n : Nat) (x : DWord) : DWord := (BitVec.setWidth n x).signExtend 64

/-- ZeroExt (R192): the low `n` bits of `x` as an unsigned 64-bit number. -/
def zeroExt (n : Nat) (x : DWord) : DWord := BitVec.setWidth 64 (BitVec.setWidth n x)

/-- The signed number that the low `n` bits of `x` hold. -/
def signedNat (n x : Nat) : Int :=
  let y := x % 2 ^ n
  if 2 * y < 2 ^ n then (y : Int) else (y : Int) - (2 ^ n : Nat)

/-- Number of one bits among the low `n` bits of `x`. -/
def popNat : Nat → Nat → Nat
  | 0, _ => 0
  | n + 1, x => x % 2 + popNat n (x / 2)

/-- Number of leading zero bits of an `n`-bit number. -/
def clzNat : Nat → Nat → Nat
  | 0, _ => 0
  | n + 1, x => if x / 2 ^ n % 2 = 1 then 0 else 1 + clzNat n x

/-- Number of trailing zero bits of an `n`-bit number. -/
def ctzNat : Nat → Nat → Nat
  | 0, _ => 0
  | n + 1, x => if x % 2 = 1 then 0 else 1 + ctzNat n (x / 2)

/-- The bytes of a number, low byte first (R5). -/
def leBytes : Nat → Nat → List Byte
  | 0, _ => []
  | n + 1, x => BitVec.ofNat 8 x :: leBytes n (x / 256)

/-- The number that bytes spell, low byte first (R5). -/
def leNat : List Byte → Nat
  | [] => 0
  | b :: bs => b.toNat + 256 * leNat bs

/-- A byte list cut into pieces of `k` bytes, `n` of them; a piece past the end is short. -/
def chunks (k : Nat) : Nat → List Byte → List (List Byte)
  | 0, _ => []
  | n + 1, bs => bs.take k :: chunks k n (bs.drop k)

/-- The counting list `a, a + 1, …`, `n` numbers long. -/
def countFrom (a : Nat) : Nat → List Nat
  | 0 => []
  | n + 1 => a :: countFrom (a + 1) n

/-- The numbers below `n`. -/
def upTo (n : Nat) : List Nat := countFrom 0 n

/-- Element `i` of a list, or `d` past its end. -/
def nth {α : Type} (d : α) : List α → Nat → α
  | [], _ => d
  | x :: _, 0 => x
  | _ :: xs, i + 1 => nth d xs i

/-- The list with element `i` replaced through `f`; unchanged past the end. -/
def modNth {α : Type} (f : α → α) : Nat → List α → List α
  | _, [] => []
  | 0, x :: xs => f x :: xs
  | i + 1, x :: xs => x :: modNth f i xs

/-- The list without its element `i`. -/
def dropNth {α : Type} : Nat → List α → List α
  | _, [] => []
  | 0, _ :: xs => xs
  | i + 1, x :: xs => x :: dropNth i xs

/-- Position of the first element that meets `p`. -/
def indexOf? {α : Type} (p : α → Bool) : List α → Option Nat
  | [] => none
  | x :: xs => if p x then some 0 else (indexOf? p xs).map (· + 1)

/-- The list with each element's position given to `f`, counting from `k`. -/
def mapFrom {α β : Type} (f : Nat → α → β) : Nat → List α → List β
  | _, [] => []
  | k, x :: xs => f k x :: mapFrom f (k + 1) xs

theorem mapFrom_length {α β : Type} (f : Nat → α → β) (k : Nat) (l : List α) :
    (mapFrom f k l).length = l.length := by
  induction l generalizing k with
  | nil => rfl
  | cons x xs ih => simp [mapFrom, ih]

/-- A vector with every element sent through `f`. -/
def vmap {α β : Type} {n : Nat} (f : α → β) (v : Vector α n) : Vector β n :=
  ⟨(v.toList.map f).toArray, by simp⟩

/-- A vector with every element sent through `f`, which also gets the position. -/
def vmapIdx {α β : Type} {n : Nat} (f : Nat → α → β) (v : Vector α n) : Vector β n :=
  ⟨(mapFrom f 0 v.toList).toArray, by simp [mapFrom_length]⟩

/-- A vector with element `i` replaced. -/
def vset {α : Type} {n : Nat} (v : Vector α n) (i : Fin n) (x : α) : Vector α n := v.set i.val x i.isLt

/-- A vector with element `i` sent through `f`. -/
def vmod {α : Type} {n : Nat} (v : Vector α n) (i : Fin n) (f : α → α) : Vector α n := vset v i (f (v.get i))

/-- A vector filled with one value. -/
def vfill {α : Type} (n : Nat) (x : α) : Vector α n := Vector.replicate n x

/-- The number `i` as an index below `n + 1`, wrapping. -/
def fin (n i : Nat) : Fin (n + 1) := Fin.ofNat (n + 1) i

/-- A counter of `w` bits that stays at its greatest value (a saturating counter). -/
def satInc {w : Nat} (x : BitVec w) (k : Nat) : BitVec w :=
  if x.toNat + k < 2 ^ w then x + BitVec.ofNat w k else BitVec.allOnes w

/-- ceil(a / b). -/
def ceilDiv (a b : Nat) : Nat := (a + b - 1) / b

/-- Repeats `f` `n` times. -/
def iter {α : Type} (f : α → α) : Nat → α → α
  | 0, x => x
  | n + 1, x => iter f n (f x)

/-- The least number among `d` and the list. -/
def minList (d : Nat) : List Nat → Nat
  | [] => d
  | x :: xs => Nat.min x (minList d xs)

/-- The greatest number in the list, 0 for none. -/
def maxList : List Nat → Nat
  | [] => 0
  | x :: xs => Nat.max x (maxList xs)

/-- Sum of a list. -/
def sumList : List Nat → Nat
  | [] => 0
  | x :: xs => x + sumList xs

/-- The value kept under a key in an association list. -/
def lookupD {α : Type} (d : α) (k : Nat) : List (Nat × α) → α
  | [] => d
  | (a, x) :: r => if a = k then x else lookupD d k r

/-- An association list in rising order of its keys, with the value under `k` replaced or put in. -/
def insertKey {α : Type} (k : Nat) (x : α) : List (Nat × α) → List (Nat × α)
  | [] => [(k, x)]
  | (a, y) :: r => if k < a then (k, x) :: (a, y) :: r else if k = a then (k, x) :: r else (a, y) :: insertKey k x r

/-- An association list without the key `k`. -/
def eraseKey {α : Type} (k : Nat) : List (Nat × α) → List (Nat × α)
  | [] => []
  | (a, y) :: r => if a = k then r else (a, y) :: eraseKey k r

/-- A rising list of numbers with `k` put in once. -/
def insertNat (k : Nat) : List Nat → List Nat
  | [] => [k]
  | a :: r => if k < a then k :: a :: r else if k = a then a :: r else a :: insertNat k r

/-- A rising list of numbers without `k`. -/
def eraseNat (k : Nat) : List Nat → List Nat
  | [] => []
  | a :: r => if a = k then r else a :: eraseNat k r

end Sys2Proof.Machine
end

