-- ==== Sys2Proof/Machine/Types.lean ====
section
/-! DEFINITION. Names of the part's units and the plain data that travels between them: tokens, messages, memory locations. -/

namespace Sys2Proof.Machine

/-- Global column id (R7): four stacks of 64 columns. -/
abbrev ColId := Fin 256
/-- Element of a column. -/
abbrev ElemId := Fin 32
/-- Context of an element. -/
abbrev CtxId := Fin 4
/-- Input port i0 to i3 or output port o0 to o3. -/
abbrev PortId := Fin 4
/-- Stack of the package. -/
abbrev StackId := Fin 4
/-- Transfer engine of a stack. -/
abbrev TeId := Fin 8
/-- Engine hart, in the order of their sender identifiers 0x00 to 0x27 and 0x29 to 0x2B (R21, R233). -/
abbrev HartId := Fin 43
/-- Partition 0 to 7 (R347). -/
abbrev PartId := Fin 8

/-- A place that executes C-words and receives messages: a column's sequencer or an engine hart (R175). -/
inductive Node where
  | col (c : ColId)
  | hart (h : HartId)
  deriving DecidableEq, Repr

/-- The stack that a column lies in (R7). -/
def stackOf (c : ColId) : StackId := fin 3 (c.val / 64)

/-- The stack of an engine hart: eight transfer engines, one layer-swap engine and one graph walker a stack; the hub's engines count on stack 0. -/
def stackOfHart (h : HartId) : StackId :=
  if h.val < 32 then fin 3 (h.val / 8) else if h.val < 36 then fin 3 (h.val - 32)
  else if h.val < 40 then fin 3 (h.val - 36) else 0

/-- The stack of a node. -/
def Node.stack : Node → StackId
  | .col c => stackOf c
  | .hart h => stackOfHart h

/-- The sender identifier of an engine hart (R21). -/
def hartSender (h : HartId) : Nat := if h.val < 40 then h.val else h.val + 1

/-- A sender as g4<13> and g4<7:0> name it (R21). -/
structure Sender where
  /-- 1: the sender is not a column -/
  snc : Bool
  id : BitVec 8
  deriving DecidableEq, Repr

/-- The identifier of a node as a sender (R21). -/
def Node.sender : Node → Sender
  | .col c => ⟨false, BitVec.ofNat 8 c.val⟩
  | .hart h => ⟨true, BitVec.ofNat 8 (hartSender h)⟩

/-- An element context of the package. -/
structure CtxRef where
  col : ColId
  elem : ElemId
  ctx : CtxId
  deriving DecidableEq, Repr

/-- An input or output port of an element context. -/
structure PortRef where
  at_ : CtxRef
  port : PortId
  deriving DecidableEq, Repr

/-- A data or marker token (R37). The destination fields DCOL, DELM, DPORT and CTX are those of the flight or queue that holds it; `Token.header` writes them in. -/
structure Token where
  /-- KIND: true for 01 marker, false for 00 data -/
  marker : Bool
  vch : BitVec 5
  /-- the VCH was set before routing (R304) -/
  vchSet : Bool
  sub : BitVec 4
  taint : Bool
  /-- the sonde that this token carries, if SONDE = 1 (R415) -/
  sonde : Option (BitVec 16)
  bfirst : Bool
  scale : BitVec 8
  valid : BitVec 5
  ord : BitVec 20
  payload : Vec
  /-- the context that `tagctx` chose for it, while it waits in a corner turn or a gather point (R286) -/
  tag : Option CtxId := none
  deriving DecidableEq, Repr

/-- The 64-bit header of a data or marker token at its destination (R37). -/
def Token.header (t : Token) (d : PortRef) : DWord :=
  BitVec.ofNat 64
    (d.at_.col.val * 2 ^ 56 + d.at_.elem.val * 2 ^ 51 + d.port.val * 2 ^ 49 + t.vch.toNat * 2 ^ 44 +
     d.at_.ctx.val * 2 ^ 42 + (if t.marker then 1 else 0) * 2 ^ 40 +
     (if t.marker then t.sub.toNat else 0) * 2 ^ 36 + (if t.taint then 1 else 0) * 2 ^ 35 +
     (if t.sonde.isSome then 1 else 0) * 2 ^ 34 + (if t.bfirst then 1 else 0) * 2 ^ 33 +
     t.scale.toNat * 2 ^ 25 + t.valid.toNat * 2 ^ 20 + t.ord.toNat)

/-- A data token with the fields that most senders leave zero. -/
def dataToken (payload : Vec) (valid : BitVec 5) (taint : Bool) : Token :=
  { marker := false, vch := 0, vchSet := false, sub := 0, taint := taint, sonde := none, bfirst := false,
    scale := 0, valid := valid, ord := 0, payload := payload }

/-- A marker token (R51). -/
def markerToken (sub : BitVec 4) (payload : Vec) : Token :=
  { marker := true, vch := 0, vchSet := false, sub := sub, taint := false, sonde := none, bfirst := false,
    scale := 0, valid := 0, ord := 0, payload := payload }

/-- Equality of markers: SUB and payload bytes 0 to 7 (R51). -/
def Token.sameMarker (a b : Token) : Bool :=
  a.sub == b.sub && a.payload.toNat % 2 ^ 64 == b.payload.toNat % 2 ^ 64

/-- Where a free-space counter is kept, so where the credit of a consumed token goes (R50). -/
inductive Feeder where
  /-- the counter of the one local feeder of an input port of a context -/
  | port (p : PortRef)
  /-- the counter of an entry of a column's exit table -/
  | exit (c : ColId) (i : Fin 128)
  /-- the counter of one slot of a gather point -/
  | gather (c : ColId) (point slot : Nat)
  /-- the counter of a corner-turn buffer -/
  | turn (c : ColId) (k : Fin 4)
  /-- the counter of the frost input -/
  | frost (c : ColId)
  /-- the eight slots of the injection port of a column's stage (R246) -/
  | inj (c : ColId) (stage : Nat)
  /-- no counter was taken -/
  | free
  deriving DecidableEq, Repr

/-- A token waiting in a queue, with the counter it holds a slot of and the cycle in which it counted there (R48, R415). -/
structure QTok where
  tok : Token
  cred : Feeder
  arr : Nat
  deriving DecidableEq, Repr

/-- Where a token in flight goes. -/
inductive Dest where
  | port (p : PortRef)
  | frost (c : ColId)
  | gather (c : ColId) (point slot : Nat)
  | turn (c : ColId) (k : Fin 4)
  /-- the edge port of a transfer engine (R128) -/
  | engine (s : StackId) (t : TeId)
  deriving DecidableEq, Repr

/-- The column of a destination. -/
def Dest.col? : Dest → Option ColId
  | .port p => some p.at_.col
  | .frost c | .gather c _ _ | .turn c _ => some c
  | .engine _ _ => none

/-- A token in flight: it counts at its destination from cycle `due` on (R48). -/
structure Flight where
  tok : Token
  dest : Dest
  cred : Feeder
  due : Nat
  deriving DecidableEq, Repr

/-- A credit return in flight (R50). -/
structure Credit where
  feeder : Feeder
  due : Nat
  deriving DecidableEq, Repr

/-- An occupancy decrement on its way from an exit steer to a merge (R55, R287). -/
structure Decrement where
  merge : CtxRef
  /-- the element whose DROPTOK counts it if no merge is there -/
  from_ : CtxRef
  due : Nat
  deriving DecidableEq, Repr

/-- A control token (R41): the raw header, so that its `res0` fields can be checked where it arrives. -/
structure CtlTok where
  hdr : DWord
  payload : Vec
  /-- a byte of the payload is uncorrectable (R396) -/
  bad : Bool
  deriving DecidableEq, Repr

/-- A control token on its way to the column that its DCOL names. -/
structure CtlFlight where
  tok : CtlTok
  due : Nat
  /-- the last token of a part that a configuration load sent whole: the loading column, the load's job and the part's number (R242) -/
  report : Option (ColId × Nat × Nat) := none
  deriving DecidableEq, Repr

/-- The control-token header of R41. -/
def ctlHeader (dcol delm pidx plen ctx : Nat) : DWord :=
  BitVec.ofNat 64 (dcol % 256 * 2 ^ 56 + delm % 32 * 2 ^ 51 + pidx % 4 * 2 ^ 49 + plen % 4 * 2 ^ 47 +
    ctx % 4 * 2 ^ 42 + 3 * 2 ^ 40)

/-- A message (R40): the tokens of one message, held together. `words` is the whole payload in 8-byte words, four to a token. -/
structure Msg where
  /-- the sender, and the sender identifier its SRC and SNC fields carry -/
  src : Sender
  cls : BitVec 5
  /-- transform identifier -/
  sub : BitVec 4
  seq : BitVec 12
  /-- length in tokens minus one -/
  len : BitVec 3
  comp : Bool
  dslot : BitVec 4
  words : List DWord
  /-- TAINT of its tokens (R237) -/
  taint : Bool
  /-- the Lamport stamp of the sideband -/
  stamp : BitVec 48
  /-- a transfer's completion (R127): the handler address in words and the transfer id -/
  handler : Option (BitVec 15 × BitVec 16)
  /-- the task that sent it, for the drop rules; 0 for none -/
  task : BitVec 16
  deriving DecidableEq, Repr

/-- Message token `i` of a message as R40 lays its header out. -/
def Msg.header (m : Msg) (dcol i : Nat) : DWord :=
  BitVec.ofNat 64
    (dcol % 256 * 2 ^ 56 + (if m.src.snc then 1 else 0) * 2 ^ 50 + m.cls.toNat * 2 ^ 44 + 2 * 2 ^ 40 +
     m.sub.toNat * 2 ^ 36 + (if m.taint then 1 else 0) * 2 ^ 35 + (if i < m.len.toNat then 1 else 0) * 2 ^ 33 + m.dslot.toNat * 2 ^ 29 +
     (if m.comp then 1 else 0) * 2 ^ 28 + m.len.toNat * 2 ^ 25 + m.src.id.toNat * 2 ^ 12 + m.seq.toNat)

/-- The memory an access reaches. -/
inductive Space where
  /-- a node's near store, at a physical byte of its banks -/
  | near
  /-- a column's vertical store, at a byte of its layers laid end to end -/
  | vert
  /-- device physical memory -/
  | dev
  deriving DecidableEq, Repr

/-- One byte's location. `col` is the column of a near or vertical location and 0 for device memory. -/
structure Loc where
  space : Space
  col : ColId
  addr : Nat
  deriving DecidableEq, Repr

/-- The memory scopes of R137, in the order of R141. -/
inductive Scope where
  | elem | col | stack | pkg | sys
  deriving DecidableEq, Repr

/-- Page discipline (R116). -/
inductive Disc where
  | ro | pl | sa
  deriving DecidableEq, Repr

end Sys2Proof.Machine
end

