-- ==== Sys2Proof/Machine/Num.lean ====
section
/-! DEFINITION. Number formats, exact values and rounding (R86 to R99), and the exact arithmetic that the scalar and element operations round once (R90, R91, R97, R101, R105). -/

namespace Sys2Proof.Machine

/-- A floating format (R88): exponent bits, fraction bits, bias; `e4` marks E4M3, which has no infinity and keeps only the all-ones code for NaN. -/
structure FFmt where
  eb : Nat
  fb : Nat
  bias : Nat
  e4 : Bool
  deriving DecidableEq, Repr

/-- binary32 -/
def FFmt.f32 : FFmt := ⟨8, 23, 127, false⟩
/-- bfloat16 -/
def FFmt.bf : FFmt := ⟨8, 7, 127, false⟩
/-- binary16 -/
def FFmt.hf : FFmt := ⟨5, 10, 15, false⟩
/-- E4M3 -/
def FFmt.e4m3 : FFmt := ⟨4, 3, 7, true⟩
/-- E5M2 -/
def FFmt.e5m2 : FFmt := ⟨5, 2, 15, false⟩

/-- The floating format of a format code 6 to 10 (R86). -/
def ffmt? : Nat → Option FFmt
  | 6 => some .f32
  | 7 => some .bf
  | 8 => some .hf
  | 9 => some .e4m3
  | 10 => some .e5m2
  | _ => none

/-- Width in bits of a lane of a format code (R86); i4 decodes as i8 (R87). -/
def laneW (fmt : Nat) : Nat :=
  match fmt with
  | 0 => 8 | 1 => 8 | 2 => 16 | 3 => 16 | 4 => 32 | 5 => 32 | 6 => 32 | 7 => 16 | 8 => 16 | _ => 8

/-- Lanes per token of a format code (R86, R192). -/
def lanesOf (fmt : Nat) : Nat := 256 / laneW fmt

/-- Width in bits of an element in memory: 4 for i4 and 6 for l6 (R87, R96), the lane width otherwise. -/
def memW (fmt : Nat) : Nat := if fmt = 12 then 4 else if fmt = 11 then 6 else laneW fmt

/-- A code that names a format (R86). -/
def fmtOk (fmt : Nat) : Bool := fmt ≤ 12

/-- Integer formats i8 to n32, and i4 (R86). -/
def isIntFmt (fmt : Nat) : Bool := fmt ≤ 5 || fmt == 12

/-- Signed integer formats (R267). -/
def isSigned (fmt : Nat) : Bool := fmt == 0 || fmt == 2 || fmt == 4 || fmt == 12

/-- Floating formats 6 to 10. -/
def isFloatFmt (fmt : Nat) : Bool := 6 ≤ fmt && fmt ≤ 10

/-- An exact value: not a number, an infinity, or (-1)^neg · m · 2^e. A zero keeps its sign. -/
inductive Fv where
  | nan
  | inf (neg : Bool)
  | num (neg : Bool) (m : Nat) (e : Int)
  deriving DecidableEq, Repr

/-- The positive zero. -/
def Fv.zero : Fv := .num false 0 0

/-- The value of an integer. -/
def Fv.ofInt (i : Int) : Fv := .num (decide (i < 0)) i.natAbs 0

/-- Sign bit of a code. -/
def FFmt.sign (f : FFmt) (x : Nat) : Bool := x / 2 ^ (f.eb + f.fb) % 2 == 1

/-- The code without its sign bit. -/
def FFmt.mag (f : FFmt) (x : Nat) : Nat := x % 2 ^ (f.eb + f.fb)

/-- Greatest finite code (R88). -/
def FFmt.maxCode (f : FFmt) : Nat := if f.e4 then 2 ^ (f.eb + f.fb) - 2 else (2 ^ f.eb - 1) * 2 ^ f.fb - 1

/-- The code of infinity; a format without one never writes it. -/
def FFmt.infCode (f : FFmt) : Nat := (2 ^ f.eb - 1) * 2 ^ f.fb

/-- The canonical NaN (R90). -/
def FFmt.nanCode (f : FFmt) : Nat :=
  if f.e4 then 2 ^ (f.eb + f.fb) - 1 else (2 ^ f.eb - 1) * 2 ^ f.fb + 2 ^ (f.fb - 1)

/-- The sign bit in its place. -/
def FFmt.signBit (f : FFmt) (neg : Bool) : Nat := if neg then 2 ^ (f.eb + f.fb) else 0

/-- The code is a subnormal (R88). -/
def FFmt.isSub (f : FFmt) (x : Nat) : Bool := f.mag x != 0 && f.mag x < 2 ^ f.fb

/-- Val (R192): the value of a code in arithmetic, where a subnormal reads as a zero of its sign (R89). -/
def FFmt.val (f : FFmt) (x : Nat) : Fv :=
  let s := f.sign x
  let m := f.mag x
  let ex := m / 2 ^ f.fb
  let fr := m % 2 ^ f.fb
  if ex = 0 then .num s 0 0
  else if f.e4 then
    if m = 2 ^ (f.eb + f.fb) - 1 then .nan
    else .num s (2 ^ f.fb + fr) ((ex : Int) - f.bias - f.fb)
  else if ex = 2 ^ f.eb - 1 then (if fr = 0 then .inf s else .nan)
  else .num s (2 ^ f.fb + fr) ((ex : Int) - f.bias - f.fb)

/-- A rounding mode (R92); stochastic rounding carries the 16-bit draw L. -/
inductive Rm where
  | rne | rtz | rto
  | rsr (l : Nat)
  deriving DecidableEq, Repr

/-- The statistics events of one converted lane (R106), but for the flushed input and the taint. -/
structure Ev where
  nan : Bool
  inf : Bool
  sat : Bool
  unf : Bool
  sub : Bool
  deriving DecidableEq, Repr

/-- No event. -/
def Ev.none : Ev := ⟨false, false, false, false, false⟩

/-- The choice of R92 between lo and hi = lo + 1, where `rem / den` is the fraction above lo. -/
def pickUp (rm : Rm) (lo rem den : Nat) : Nat :=
  if rem = 0 then lo
  else match rm with
    | .rne => if 2 * rem < den then lo else if den < 2 * rem then lo + 1 else lo + lo % 2
    | .rtz => lo
    | .rto => if lo % 2 = 1 then lo else lo + 1
    | .rsr l => if (rem * 65536 / den) + l ≥ 65536 then lo + 1 else lo

/-- m · 2^e rounded to a whole multiple of 2^q (R92): the multiple. -/
def roundTo (rm : Rm) (m : Nat) (e q : Int) : Nat :=
  if q ≤ e then m * 2 ^ (e - q).toNat
  else let k := (q - e).toNat
       pickUp rm (m / 2 ^ k) (m % 2 ^ k) (2 ^ k)

/-- The exponent of the grid on which a value of magnitude m · 2^e lies in format `f` with `sig` significant bits; below, the subnormal grid (R88, R103). -/
def FFmt.quantum (f : FFmt) (sig : Nat) (m : Nat) (e : Int) : Int :=
  max ((Nat.log2 m : Int) + e - (sig - 1 : Nat)) (1 - (f.bias : Int) - f.fb)

/-- The code, exponent unbounded, of n · 2^q, which lies on the grid of `f`. -/
def FFmt.codeOf (f : FFmt) (n : Nat) (q : Int) : Nat :=
  if n = 0 then 0
  else
    let top : Int := (Nat.log2 n : Int) + q
    let lowest : Int := 1 - (f.bias : Int)
    let qq : Int := max (top - f.fb) (lowest - f.fb)
    let k := if qq ≤ q then n * 2 ^ (q - qq).toNat else n / 2 ^ (qq - q).toNat
    if k < 2 ^ f.fb then k else (qq + f.fb + f.bias).toNat * 2 ^ f.fb + (k - 2 ^ f.fb)

/-- Rounds an exact value into `f` with `sig` significant bits (R91, R92, R94): the code and the events. -/
def FFmt.roundSig (f : FFmt) (sig : Nat) (rm : Rm) (sat : Bool) (v : Fv) : Nat × Ev :=
  match v with
  | .nan => (f.nanCode, { Ev.none with nan := true })
  | .inf s =>
    if sat then (f.signBit s + f.maxCode, { Ev.none with sat := true })
    else if f.e4 then (f.signBit s + f.nanCode, { Ev.none with nan := true })
    else (f.signBit s + f.infCode, { Ev.none with inf := true })
  | .num s m e =>
    if m = 0 then (f.signBit s, Ev.none)
    else
      let q := f.quantum sig m e
      let n := roundTo rm m e q
      let c := f.codeOf n q
      if f.maxCode < c then
        let clamp := sat || (match rm with | .rtz => !f.e4 | .rto => !f.e4 | _ => false)
        if clamp then (f.signBit s + f.maxCode, { Ev.none with sat := true })
        else if f.e4 then (f.signBit s + f.nanCode, { Ev.none with nan := true })
        else (f.signBit s + f.infCode, { Ev.none with inf := true })
      else (f.signBit s + c, { Ev.none with unf := c == 0, sub := c != 0 && c < 2 ^ f.fb })

/-- Conversion and arithmetic rounding at the format's own precision. -/
def FFmt.round (f : FFmt) (rm : Rm) (sat : Bool) (v : Fv) : Nat × Ev := f.roundSig (f.fb + 1) rm sat v

/-- RoundA (R91, R192). -/
def FFmt.roundA (f : FFmt) (v : Fv) : Nat := (f.round .rne false v).1

/-- Integer narrowing of R95: the low w bits, or the clamp with saturation; the flag says that a clamp was made. -/
def narrowInt (w : Nat) (signed sat : Bool) (i : Int) : Nat × Bool :=
  let lo : Int := if signed then -(2 ^ (w - 1) : Nat) else 0
  let hi : Int := if signed then (2 ^ (w - 1) : Nat) - 1 else (2 ^ w : Nat) - 1
  if sat && decide (i < lo) then ((lo % (2 ^ w : Nat)).toNat, true)
  else if sat && decide (hi < i) then ((hi % (2 ^ w : Nat)).toNat, true)
  else ((i % (2 ^ w : Nat)).toNat, false)

/-- Conversion into an integer format (R95). -/
def cvtInt (w : Nat) (signed sat : Bool) (rm : Rm) (v : Fv) : Nat × Ev :=
  match v with
  | .nan => (0, Ev.none)
  | .inf s =>
    let lo : Int := if signed then -(2 ^ (w - 1) : Nat) else 0
    let hi : Int := if signed then (2 ^ (w - 1) : Nat) - 1 else (2 ^ w : Nat) - 1
    ((((if s then lo else hi) : Int) % (2 ^ w : Nat)).toNat, { Ev.none with sat := true })
  | .num s m e =>
    let n := roundTo rm m e 0
    let i : Int := if s then -(n : Int) else n
    let (c, cl) := narrowInt w signed sat i
    (c, { Ev.none with sat := cl, unf := n == 0 && m != 0 })

/-- T of R96: the four magnitudes of an l6 octave, in units of 2^-10. -/
def l6T (k : Nat) : Nat := nth 0 [1024, 1218, 1448, 1722] (k % 4)

/-- Table value of an l6 code (R96). -/
def l6Val (c : Nat) : Fv :=
  let s := c / 32 % 2 == 1
  let ee := c % 32
  if ee = 0 then .num s 0 0
  else .num s (l6T (ee % 4)) ((((ee : Int) - 16) / 4) - 10)

/-- Product of two l6 codes in units of 2^-18 (R97), signed. -/
def l6Prod (a b : Nat) : Int :=
  let ea := a % 32
  let eb := b % 32
  if ea = 0 || eb = 0 then 0
  else
    let sm : Int := (ea : Int) + eb - 32
    let p : Nat := l6T (sm % 4).toNat * 2 ^ (sm / 4 + 8).toNat
    if (a / 32 + b / 32) % 2 = 1 then -(p : Int) else p

/-- Magnitude of l6 field E as a number of units of 2^-14 (every table value is one). -/
def l6Mag (ee : Nat) : Nat :=
  if ee = 0 then 0 else l6T (ee % 4) * 2 ^ (ee / 4)

/-- The greatest field E, up to `k`, whose magnitude does not exceed m · 2^e. -/
def l6Floor (m : Nat) (e : Int) : Nat → Nat
  | 0 => 0
  | k + 1 =>
    let lhs := l6Mag (k + 1)
    -- l6Mag counts units of 2^-14
    let le := if (-14 : Int) ≤ e then decide (lhs ≤ m * 2 ^ (e + 14).toNat)
              else decide (lhs * 2 ^ (-14 - e).toNat ≤ m)
    if le then k + 1 else l6Floor m e k

/-- Conversion into l6 (R98): the code and the events. -/
def cvtL6 (rm : Rm) (v : Fv) : Nat × Ev :=
  match v with
  | .nan => (0, { Ev.none with sat := true })
  | .inf s => ((if s then 32 else 0) + 31, { Ev.none with sat := true })
  | .num s m e =>
    let sg := if s then 32 else 0
    if m = 0 then (sg, Ev.none)
    else
      let lo := l6Floor m e 31
      -- everything in units of 2^u with u at most -14 and at most e
      let u : Int := min e (-14)
      let mag := m * 2 ^ (e - u).toNat
      let l := l6Mag lo * 2 ^ (-14 - u).toNat
      if lo = 31 then (sg + 31, { Ev.none with sat := decide (l < mag) })
      else
        let h := l6Mag (lo + 1) * 2 ^ (-14 - u).toNat
        let pick := pickUp rm lo (mag - l) (h - l)
        (sg + pick, { Ev.none with unf := pick == 0 })

/-- E8 block scale (R99): none for 255, else the exponent. -/
def e8Exp (E : BitVec 8) : Option Int := if E = 255#8 then none else some ((E.toNat : Int) - 127)

/-- A value times a block scale (R99). -/
def Fv.scale (v : Fv) (E : BitVec 8) : Fv :=
  match e8Exp E with
  | none => .nan
  | some k => match v with
    | .num s m e => .num s m (e + k)
    | x => x

/-- Negation of a value. -/
def Fv.neg : Fv → Fv
  | .nan => .nan
  | .inf s => .inf (!s)
  | .num s m e => .num (!s) m e

/-- The signed mantissa of a number. -/
def signedM (s : Bool) (m : Nat) : Int := if s then -(m : Int) else m

/-- Exact sum (R90, R91): ∞ − ∞ is NaN. An exact zero from two numbers is −0 only when both are −0 (assumption log 6). -/
def Fv.add (a b : Fv) : Fv :=
  match a, b with
  | .nan, _ => .nan
  | _, .nan => .nan
  | .inf s, .inf t => if s == t then .inf s else .nan
  | .inf s, _ => .inf s
  | _, .inf t => .inf t
  | .num s m e, .num t n f =>
    let g := min e f
    let x := signedM s (m * 2 ^ (e - g).toNat) + signedM t (n * 2 ^ (f - g).toNat)
    if x = 0 then .num (s && t && m == 0 && n == 0) 0 0 else .num (decide (x < 0)) x.natAbs g

/-- Exact product (R90): 0 × ∞ is NaN. -/
def Fv.mul (a b : Fv) : Fv :=
  match a, b with
  | .nan, _ => .nan
  | _, .nan => .nan
  | .inf s, .inf t => .inf (s != t)
  | .inf s, .num t n _ => if n = 0 then .nan else .inf (s != t)
  | .num s m _, .inf t => if m = 0 then .nan else .inf (s != t)
  | .num s m e, .num t n f => .num (s != t) (m * n) (e + f)

/-- Quotient for one rounding: the first 160 bits and a sticky bit stand for the exact value (R211). 0/0 and ∞/∞ are NaN. -/
def Fv.div (a b : Fv) : Fv :=
  match a, b with
  | .nan, _ => .nan
  | _, .nan => .nan
  | .inf _, .inf _ => .nan
  | .inf s, .num t _ _ => .inf (s != t)
  | .num s _ _, .inf t => .num (s != t) 0 0
  | .num s m e, .num t n f =>
    if n = 0 then (if m = 0 then .nan else .inf (s != t))
    else if m = 0 then .num (s != t) 0 0
    else
      let q := m * 2 ^ 160 / n
      let st := if m * 2 ^ 160 % n = 0 then 0 else 1
      .num (s != t) (2 * q + st) (e - f - 161)

/-- Sum of a list, from zero, exact (R101). -/
def Fv.sum : List Fv → Fv
  | [] => .zero
  | x :: xs => Fv.add x (Fv.sum xs)

/-- A value is NaN. -/
def Fv.isNan : Fv → Bool
  | .nan => true
  | _ => false

/-- Strictly less, for values that are not NaN; −0 equals +0. -/
def Fv.lt (a b : Fv) : Bool :=
  match a, b with
  | .nan, _ => false
  | _, .nan => false
  | .inf s, .inf t => s && !t
  | .inf s, .num _ _ _ => s
  | .num _ _ _, .inf t => !t
  | .num s m e, .num t n f =>
    let g := min e f
    decide (signedM s (m * 2 ^ (e - g).toNat) < signedM t (n * 2 ^ (f - g).toNat))

/-- Equal as numbers; false for NaN. -/
def Fv.eq (a b : Fv) : Bool :=
  !a.isNan && !b.isNan && !Fv.lt a b && !Fv.lt b a

/-- A zero. -/
def Fv.isZero : Fv → Bool
  | .num _ m _ => m == 0
  | _ => false

/-- Sign of a value. -/
def Fv.sgn : Fv → Bool
  | .nan => false
  | .inf s => s
  | .num s _ _ => s

/-- The lesser of two values, −0 below +0; a single NaN gives the other (R90). -/
def Fv.minv (a b : Fv) : Fv :=
  if a.isNan then b else if b.isNan then a
  else if a.isZero && b.isZero then (if a.sgn then a else b)
  else if Fv.lt b a then b else a

/-- The greater of two values, −0 below +0; a single NaN gives the other (R90). -/
def Fv.maxv (a b : Fv) : Fv :=
  if a.isNan then b else if b.isNan then a
  else if a.isZero && b.isZero then (if a.sgn then b else a)
  else if Fv.lt a b then b else a

/-- The LFSR of stochastic rounding (R93): the new state. -/
def lfsrNext (s : Word) : Word := if s.getLsbD 0 then (s >>> 1) ^^^ 0x80200003#32 else s >>> 1

/-- The value drawn: the low 16 bits of the new state (R93). -/
def lfsrDraw (s : Word) : Nat := (lfsrNext s).toNat % 65536

/-- A seed as loaded: 0 loads as all ones (R93). -/
def seedLoad (s : Word) : Word := if s = 0#32 then 0xFFFFFFFF#32 else s

/-- The value that a code of a format denotes (R192, Val); an integer format gives the integer, l6 the table value. -/
def valOf (fmt : Nat) (x : Nat) : Fv :=
  match ffmt? fmt with
  | some f => f.val x
  | none => if fmt = 11 then l6Val x
            else Fv.ofInt (if isSigned fmt then signedNat (laneW fmt) x else (x % 2 ^ laneW fmt : Nat))

/-- The code of a format for a value (R192, Cvt), with its events. -/
def cvtTo (fmt : Nat) (rm : Rm) (sat : Bool) (v : Fv) : Nat × Ev :=
  match ffmt? fmt with
  | some f => f.round rm sat v
  | none => if fmt = 11 then cvtL6 rm v
            else cvtInt (if fmt = 12 then 4 else laneW fmt) (isSigned fmt) sat rm v

/-- The code is a subnormal of a floating format (R89). -/
def isSubCode (fmt x : Nat) : Bool :=
  match ffmt? fmt with
  | some f => f.isSub x
  | none => false

/-- The rounding mode of a 2-bit code (R92), with the draw for the stochastic one. -/
def rmOf (code draw : Nat) : Rm :=
  match code % 4 with
  | 0 => .rne
  | 1 => .rtz
  | 2 => .rto
  | _ => .rsr draw

end Sys2Proof.Machine
end

