-- ==== Sys2Proof/Machine/Units.lean ====
section
/-! DEFINITION. The state of the datapath units of a column: element contexts, elements, address-generator streams, gather points, corner turns and the frost fabric. -/

namespace Sys2Proof.Machine

/-- Where a context is in its life (R27, R187). -/
inductive CtxState where
  | empty | loading | live | parked
  deriving DecidableEq, Repr

/-- One 8-byte granule piece of a request: the accesses of a request perform piece by piece (R136). -/
inductive PieceState where
  /-- issued, not performed -/
  | waiting
  /-- deferred at an empty SA word (R117) -/
  | deferred
  /-- at an empty SA word whose bank or channel defers 16 reads already: it performs only once an entry is free (R117) -/
  | stalled
  /-- held in the replay table: its page is in transit, compressed or on flash (R378) -/
  | held
  /-- performed: the granule's data for a read, and its taint -/
  | done (data : DWord) (taint : Bool)
  deriving DecidableEq, Repr

/-- A granule piece: its granule number in the stream's own space (a virtual address / 8 for a virtual stream), its location (a multiple of 8), whether it lies in an SA page or block (R110, R116), the bits touched, the data of a write and its taint (for a read, the page's TAINT). -/
structure Piece where
  lg : Nat
  loc : Loc
  sa : Bool
  mask : DWord
  data : DWord
  taint : Bool
  st : PieceState
  deriving DecidableEq, Repr

/-- One element of a read request: its bytes as piece and byte within it, low byte first, and the bit of the first byte at which it starts. No byte: a padding zero (R121). -/
structure ElemRef where
  bytes : List (Nat × Nat)
  sh : Nat
  deriving DecidableEq, Repr

/-- One element that a request still has to issue: its address as a base and an offset from it (none: no access), the data of a write, whether a write lane is skipped, and the dimension from which the iterators advance after it (0: from i0, 1: from i1, 2: not at all). -/
structure ElemTodo where
  addr : Option (Int × Int)
  data : Nat
  skip : Bool
  adv : Nat
  deriving DecidableEq, Repr

/-- One request of a stream: what one firing of an issuing word reads or writes (R135). -/
structure AgReq where
  /-- index counted from 0 at strm (R140) -/
  idx : Nat
  write : Bool
  pieces : List Piece
  elems : List ElemRef
  /-- what a stop at a page left to issue -/
  rest : List ElemTodo
  /-- the iterators at its first element -/
  start : Vector Word 4
  /-- the request ends a run of dimension 0 (the squeeze terminator follows) -/
  runEnd : Bool
  /-- the token written carried TAINT, and its ORD -/
  wtaint : Bool
  tord : BitVec 20
  /-- the cycle of its issue, and the earliest cycle of its reply (R113) -/
  born : Nat
  due : Nat
  /-- granules of the vertical store, as address / 128, that have been given their slots (R112) -/
  slots : List Nat
  /-- the reply has been formed -/
  replied : Bool
  deriving DecidableEq, Repr

/-- A piece has performed. -/
def Piece.isDone (p : Piece) : Bool := match p.st with | .done _ _ => true | _ => false
/-- A piece still needs a slot of its vertical port (R112). -/
def AgReq.lacksSlot (q : AgReq) (p : Piece) : Bool := p.loc.space == .vert && !p.isDone && !q.slots.contains (p.lg / 16)
/-- A request waits for a slot (R294). -/
def AgReq.wantsSlot (q : AgReq) : Bool := q.pieces.any q.lacksSlot

/-- A faulted or stopped stream (R124, R296). -/
inductive StreamHalt where
  /-- running -/
  | run
  /-- stopped by a fault other than a page fault -/
  | fault
  /-- stopped at a page fault until the supervisor resumes it -/
  | page
  /-- paused while an invalidation of its extents is in progress (R377) -/
  | inval
  /-- stopped by stop (R245) -/
  | stopped
  /-- waiting for an entry of a full replay table at a page fault (R378) -/
  | full
  deriving DecidableEq, Repr

/-- An active stream of an AG context (R119 to R124). -/
structure Stream where
  /-- the descriptor as copied from the near store -/
  d0 : DWord
  d1 : DWord
  d2 : DWord
  d3 : DWord
  /-- the descriptor's near-store address, the EOS tag (R120) -/
  daddr : Word
  halt : StreamHalt
  /-- the virtual address at which it stopped -/
  stopVa : Nat
  /-- requests issued so far -/
  issuedReqs : Nat
  /-- every element has been issued -/
  allIssued : Bool
  /-- elements transferred, tainted tokens, ORD of the first tainted token, dropped pairs (R124) -/
  nElems : Nat
  nTaint : Nat
  firstTaint : Option (BitVec 20)
  dropped : Nat
  /-- requests in order of issue, replies not yet taken -/
  reqs : List AgReq
  /-- reply tokens formed and not yet emitted -/
  out : List Token
  /-- the first cycle in which the reply queue may send again: one token a cycle (R292) -/
  next : Nat
  /-- squeeze buffer of value-and-coordinate pairs (R294), with the taint of what it holds -/
  sqz : List Word
  sqzTaint : Bool
  /-- expand run buffer of (coordinate, value) pairs in order of coordinate (R122), with the taint of what it holds -/
  xpd : List (Nat × Nat)
  xpdTaint : Bool
  /-- data tokens emitted since the last block start (R120) -/
  blk : Nat
  /-- EOS marker emitted, stream completion token emitted -/
  eosDone : Bool
  compDone : Bool
  /-- requests covered by completion tokens so far (R140) -/
  covered : Nat
  /-- `lclk` at issue (R411) -/
  stamp : BitVec 48
  deriving DecidableEq, Repr

/-- The part that is arriving for a loading context (R191). -/
structure Load where
  /-- PLEN of the first token and the PIDX expected next -/
  plen : Nat
  next : Nat
  words : List Word
  deriving DecidableEq, Repr

/-- Input port queue of a context: tokens oldest first, and the free-space counter of its one local feeder (R49, R50). -/
structure PortQ where
  toks : List QTok
  free : Nat
  /-- the last wave-start marker consumed here has not been followed by its wave-end (R83) -/
  wave : Bool
  deriving DecidableEq, Repr

/-- An element context (R24 ff., R47, R54, R59). -/
structure Ctx where
  st : CtxState
  /-- the first cycle in which it is live (R27, R73) -/
  liveAt : Nat
  /-- the first cycle after the forwarding of a marker (R52) -/
  fwd : Nat
  /-- a marker has swapped it: it changes with its shadow as the next cycle begins (R54) -/
  swap : Bool
  /-- stopped by a squall, a breakpoint or the debugger (R407 to R409) -/
  stopped : Bool
  load : Option Load
  hdr : Word
  prog : Vector Word 8
  seed : Word
  lfsr : Word
  v : Vector Vec 8
  acc : Vector (Vector DWord 8) 2
  accTaint : Vector (BitVec 8) 2
  m : Vector Word 4
  c : Vector Word 8
  routes : Vector (List Half) 4
  q : Vector PortQ 4
  /-- ORD of the next token of each output (R39) -/
  ord : Vector (BitVec 20) 4
  statOrd : BitVec 20
  /-- data tokens emitted on each output since the last block start (R43) -/
  blk : Vector Nat 4
  /-- data tokens dealt on each output (R306) -/
  deal : Vector Nat 4
  sect : Word
  it : Vector Word 4
  b : Vector DWord 4
  strm : Option Stream
  /-- weight count that wpre set, and weights loaded since (R300) -/
  wcnt : Nat
  wk : Nat
  /-- the format that `mode` gave an SY context (R244) -/
  syFmt : BitVec 4
  /-- ALIGN, INEMPTY, OFULL, VSLOT, LOSTARB, and BLAME (R47) -/
  stall : Vector Word 5
  blame : BitVec 2
  /-- NaN, infinity, saturated, underflowed, subnormal, flushed, tainted (R59) -/
  stat : Vector Word 7
  /-- a store of it has converted a token since it went live (R59, R123) -/
  conv : Bool
  /-- unequal markers have been reported (R53) -/
  mismatch : Bool
  /-- the cycle since which a firing has been permitted without starting (R29) -/
  since : Option Nat
  /-- a wave marker, and the train's last wave-end, have aligned here since the last scroll (R75) -/
  wave : Bool
  lastw : Bool
  /-- the slot's open scroll has still to pass here; `dscrl` has already sent this source's scroll marker (R75, R256) -/
  scroll : Bool
  early : Bool
  /-- `dscrl` asks this source for the scroll marker that ends its train (R256) -/
  cue : Bool
  /-- written since the stage was last restored (R70) -/
  dirty : Bool
  deriving DecidableEq, Repr

/-- An empty port queue; a local edge has the four slots of the queue bank (R49). -/
def PortQ.empty : PortQ := ⟨[], 4, false⟩

/-- A context that holds nothing. Masks are all ones as at go-live (R190). -/
def Ctx.empty : Ctx :=
  { st := .empty, liveAt := 0, fwd := 0, swap := false, stopped := false, load := none, hdr := 0, prog := vfill 8 0, seed := 0, lfsr := 0xFFFFFFFF#32,
    v := vfill 8 0, acc := vfill 2 (vfill 8 0), accTaint := vfill 2 0, m := vfill 4 0xFFFFFFFF#32, c := vfill 8 0,
    routes := vfill 4 [], q := vfill 4 .empty, ord := vfill 4 0, statOrd := 0, blk := vfill 4 0, deal := vfill 4 0,
    sect := 0, it := vfill 4 0, b := vfill 4 0, strm := none, wcnt := 0, wk := 0, syFmt := 0,
    stall := vfill 5 0, blame := 0, stat := vfill 7 0, conv := false, mismatch := false, since := none, wave := false, lastw := false, scroll := false,
    early := false, cue := false, dirty := false }

/-- The context is live in cycle `now` (R27, R73). -/
def Ctx.isLive (x : Ctx) (now : Nat) : Bool := x.st == .live && decide (x.liveAt ≤ now)

/-- A weight of the systolic store: its payload, how many low bits of it are valid, and its taint (R263, R300). -/
structure Weight where
  payload : Vec
  bits : Nat
  taint : Bool
  deriving DecidableEq, Repr

/-- An element (R24 ff.): four contexts, and what they share. -/
structure Elem where
  ctxs : Vector Ctx 4
  vct : Vector Half 32
  sc : Vector (BitVec 8) 16
  weights : Vector Weight 8
  /-- the scale register that the last weight token named (R300) -/
  wscr : BitVec 4
  /-- dropped-token and alignment-discard counters (R46, R53) -/
  droptok : Word
  aldisc : Word
  /-- arbiter weights, credits and skip counts (R29) -/
  w : Vector Nat 4
  k : Vector Int 4
  skip : Vector Nat 4
  /-- the first cycle in which a firing may start (R27), and the context that fired last -/
  busy : Nat
  last : CtxId
  /-- VCT and scale registers written since the stage was last restored (R70) -/
  vctDirty : Bool
  deriving DecidableEq, Repr

/-- An element as a task placement finds it: every scale register at 127 (R43). -/
def Elem.empty : Elem :=
  { ctxs := vfill 4 .empty, vct := vfill 32 0, sc := vfill 16 127#8, weights := vfill 8 ⟨0, 0, false⟩, wscr := 0,
    droptok := 0, aldisc := 0, w := vfill 4 1, k := vfill 4 0, skip := vfill 4 0, busy := 0, last := 0,
    vctDirty := false }

/-- A gather point (R307): its destination port, the element of replica 0, one slot for each replica, and the turn. -/
structure Gather where
  dest : PortRef
  base : Int
  vch : BitVec 5
  slots : List (Option (QTok × Nat))
  turn : Nat
  /-- the first cycle in which it may move again -/
  next : Nat
  /-- the senders' counters, one a slot -/
  free : List Nat
  /-- unequal markers stopped the point -/
  stuck : Bool
  deriving DecidableEq, Repr

/-- A corner-turn buffer (R309): the output port that owns it, its block shape, and what it holds. -/
structure Turn where
  owner : Option PortRef
  /-- lane width 8, 16 or 32 and k -/
  w : Nat
  k : Nat
  free : Nat
  /-- data tokens sent to the open block, and the credits that a marker which cut a block took with it -/
  sent : Nat
  cut : Nat
  /-- tokens and markers in order of arrival -/
  inq : List QTok
  /-- input tokens of the block that is being emitted -/
  blk : Nat
  /-- the marker at the head of `inq` ended the block before it -/
  ends : Bool
  /-- tokens of the block that are still to be emitted, and the cycle from which on -/
  out : List Token
  due : Nat
  deriving DecidableEq, Repr

/-- An unused corner-turn buffer. -/
def Turn.empty : Turn := ⟨none, 8, 1, 0, 0, 0, [], 0, false, [], 0⟩

/-- State of a frost plane but for which one is active (R163). -/
inductive PlaneState where
  | empty | loading | ready
  deriving DecidableEq, Repr

/-- A frost plane: the page as read (R159), and the vertical address of its last load (R173). -/
structure Plane where
  st : PlaneState
  h0 : DWord
  h1 : DWord
  nodes : List Word
  rowMap : List Half
  wres : Nat
  taint : Bool
  addr : Option (BitVec 28)
  deriving DecidableEq, Repr

/-- An empty plane. -/
def Plane.empty : Plane := ⟨.empty, 0, 0, [], [], 0, false, none⟩

/-- What travels through the fabric: a vector with its position and row values, or a marker (R169, R170). -/
inductive FrostOp where
  | vec (due pos : Nat) (rows : List Word) (taint : Bool)
  | mark (due : Nat) (t : Token)
  deriving DecidableEq, Repr

/-- A page load in progress (R164): the plane, the image's address, the cycle of its issue, and granules already read. -/
structure FrostLoad where
  plane : Fin 2
  addr : BitVec 28
  due : Nat
  got : List (Nat × List Byte)
  /-- a word read was uncorrectable -/
  taint : Bool
  job : Nat
  /-- `lclk` at issue (R411) -/
  stamp : BitVec 48
  deriving DecidableEq, Repr

/-- An femit in progress (R171). -/
structure FrostEmit where
  row0 : Nat
  rows : Nat
  pos : Nat
  last : Nat
  tok : Nat
  clear : Bool
  /-- the first cycle in which the next token may leave -/
  next : Nat
  deriving DecidableEq, Repr

/-- An fgclr in progress (R252): the next position, the last, and the first cycle in which it goes on. -/
structure FrostClr where
  pos : Nat
  last : Nat
  next : Nat
  deriving DecidableEq, Repr

/-- The frost fabric of a column (R154 to R174). -/
structure Fabric where
  planes : Vector Plane 2
  act : Fin 2
  /-- the marker subtype a swap is armed on (R166) -/
  armed : Option (BitVec 4)
  load : Option FrostLoad
  /-- the input queue FI and the counter of its feeder (R168) -/
  q : List QTok
  free : Nat
  /-- the first token of a two-token vector, already consumed, with the plane it entered under and its position (R165, R169) -/
  half : Option (Token × Plane × BitVec 6)
  /-- in order of admission -/
  pipe : List FrostOp
  /-- accumulator words that are not zero, at row · 64 + position -/
  acc : List (Nat × Word)
  accTaint : BitVec 64
  pos : BitVec 6
  emit : Option FrostEmit
  clr : Option FrostClr
  /-- the port whose route holds `pass fo` (R311), and FO's ordinal -/
  fo : Option PortRef
  foOrd : BitVec 20
  /-- the first cycle in which FI takes its next vector or marker -/
  next : Nat
  /-- VECTORS, NOPAGE, POSWRAP, SWAPS, SWHOLD, EMHOLD (R174) -/
  cnt : Vector Word 6
  /-- the missing page has been reported since stage configuration (R168) -/
  nopage : Bool
  /-- rows written since the stage was last restored (R76) -/
  dirtyRows : BitVec 256
  deriving DecidableEq, Repr

/-- The fabric at stage configuration (R163, R169). -/
def Fabric.empty : Fabric :=
  { planes := vfill 2 .empty, act := 0, armed := none, load := none, q := [], free := 4, half := none, pipe := [],
    acc := [], accTaint := 0, pos := 0, emit := none, clr := none, fo := none, foOrd := 0, next := 0,
    cnt := vfill 6 0, nopage := false, dirtyRows := 0 }

end Sys2Proof.Machine
end

