-- ==== Sys2Proof/Machine/Column.lean ====
section
/-! DEFINITION. The state of a column and of an engine hart: byte stores, the sequencer, the network interface, the drift controller, and what the supervisor registers hold. -/

namespace Sys2Proof.Machine

/-- Presence of an SA word that is not empty (R117). -/
inductive Presence where
  | full | tainted
  deriving DecidableEq, Repr

/-- A memory: listed bytes in canonical form (addresses rising, no zero byte: an unlisted byte reads as zero), the 8-byte words that are uncorrectable (for device memory the 64-byte bursts, address / 64, R389), the correctable errors as bit numbers (8-byte word number · 64 + bit), and the presence of SA words (an unlisted word is empty). Word lists hold word numbers, address / 8. -/
structure Store where
  bytes : List Host.Cell
  bad : List Nat
  soft : List Nat
  sa : List (Nat × Presence)
  deriving DecidableEq, Repr

/-- A memory that lists nothing. -/
def Store.empty : Store := ⟨[], [], [], []⟩

/-- A message that has landed, with what its dispatch loads (R20 to R22, R127, R132). -/
structure PendMsg where
  cls : BitVec 5
  src : Sender
  /-- length in tokens minus one -/
  len : BitVec 3
  seq : BitVec 12
  g1 : DWord
  g2 : DWord
  g3 : DWord
  /-- the bytes that dispatch writes into the class's message area -/
  area : List Byte
  /-- a transfer's completion: HADDR and XID (R127) -/
  handler : Option (BitVec 15 × BitVec 16)
  /-- its Lamport stamp; none for what a column's own hardware raises (R419) -/
  stamp : Option (BitVec 48)
  /-- its dispatch sets `stat`.TAINT (R392) -/
  taint : Bool := false
  deriving DecidableEq, Repr

/-- Where a message goes: a slot of the sender's band, resolved to a column, or an engine hart. -/
inductive Target where
  | col (c : ColId)
  | hart (h : HartId)
  deriving DecidableEq, Repr

/-- The column of a target. -/
def Target.col? : Target → Option ColId
  | .col c => some c
  | .hart _ => none

/-- An entry of an outbound queue (R237): receivers still to be served, the message, whether it may be compressed, and the serial number of the last store before it. -/
structure OutMsg where
  dests : List Target
  msg : Msg
  comp : Bool
  after : Nat
  deriving DecidableEq, Repr

/-- A store that is issued and not yet performed (R204). -/
structure QStore where
  serial : Nat
  loc : Loc
  mask : BitVec 8
  data : DWord
  /-- the first cycle in which it may perform (R204) -/
  due : Nat
  deriving DecidableEq, Repr

/-- A dictionary of 32 words with its replacement pointer (R133). -/
structure Dict where
  /-- the peer that holds the slot: none if unassigned -/
  peer : Option Nat
  words : Vector DWord 32
  ptr : Fin 32
  /-- receiver: a gap was seen and compressed messages are dropped until a plain one; sender: the next message goes plain -/
  plain : Bool
  deriving DecidableEq, Repr

/-- An unassigned dictionary slot. -/
def Dict.empty : Dict := ⟨none, vfill 32 0, 0, false⟩

/-- A sequencer with its network interface: a column's, or an engine hart's (R18 to R24, R203, R227 to R230). -/
structure Cpu where
  g : Vector DWord 32
  pc : DWord
  /-- a handler is in progress; false: idle (R20) -/
  busy : Bool
  lclk : BitVec 48
  /-- g4<13:0> of the last dispatch (R227) -/
  task : BitVec 14
  xid : BitVec 16
  taint : Bool
  ewsel : DWord
  dropmsg : Word
  hte : Vector Word 20
  starve : Nat
  sup : Bool
  psup : Bool
  halt : Bool
  /-- supervisor mode was entered while no handler was in progress -/
  supIdle : Bool
  epc : DWord
  ecause : DWord
  evec : DWord
  ebad : DWord
  /-- words already cleared by an interrupted clrsa (R205) -/
  clr : Option Nat
  /-- the first cycle in which the next instruction may issue (R204, R21) -/
  ready : Nat
  /-- the instruction at this pc waits to issue, or for its data, until this cycle (R204, R205) -/
  await : Option (DWord × Nat)
  /-- the device load or atomic last issued: its address, and `lclk` at issue (R411) -/
  access : Option (DWord × BitVec 48)
  near : Store
  /-- pending messages, oldest first (R19) -/
  pend : List PendMsg
  /-- entries granted to messages in flight (R19) -/
  grants : Nat
  /-- messages that the node raises for itself and that wait for an entry (R19) -/
  selfq : List PendMsg
  outq : List OutMsg
  /-- outbound messages that have left, as a count, and the serial number of the newest store -/
  serial : Nat
  storeQ : List QStore
  /-- device words whose value a load took from the stack's ordering point (R138, R141) -/
  seen : List Nat
  /-- next SEQ to each receiver, and SEQ expected from each sender, by 9-bit key (R40) -/
  seqTx : List (Nat × BitVec 12)
  seqRx : List (Nat × BitVec 12)
  /-- dictionary slots held here for senders, and this sender's copies by receiver and slot (R133) -/
  dictRx : Vector Dict 16
  dictTx : List (Nat × Dict)
  /-- granule 0 written since the stage was last restored (R70) -/
  dirty : Bool
  deriving DecidableEq, Repr

/-- Handler table at load (R18). -/
def hteReset : Vector Word 20 :=
  let e (p : Nat) : Word := BitVec.ofNat 32 (p * 2 ^ 24)
  ⟨(List.replicate 12 (e 0) ++ [e 10, e 9, e 8, e 8, e 9, e 11, e 14, e 15]).toArray, by simp⟩

/-- A sequencer at power-on: every register zero, idle, in supervisor mode's complement (user mode), no message (assumption log 1). -/
def Cpu.reset : Cpu :=
  { g := vfill 32 0, pc := 0, busy := false, lclk := 0, task := 0, xid := 0, taint := false, ewsel := 0, dropmsg := 0,
    hte := hteReset, starve := 0, sup := false, psup := false, halt := false, supIdle := false, epc := 0, ecause := 0, evec := 0, ebad := 0,
    clr := none, ready := 0, await := none, access := none, near := .empty, pend := [], grants := 0, selfq := [], outq := [], serial := 0, storeQ := [], seen := [],
    seqTx := [], seqRx := [], dictRx := vfill 16 .empty, dictTx := [], dirty := false }

/-- A registered watch (R222): the word's address as the program gave it, its location, and the tag. -/
structure Watch where
  addr : DWord
  loc : Loc
  tag : BitVec 11
  /-- `lclk` at issue (R411) -/
  stamp : BitVec 48
  deriving DecidableEq, Repr

/-- A pending barrier (R248). -/
structure Barr where
  tag : BitVec 8
  band : Bool
  /-- serial number of the last store before it, and the Lamport stamp of the last message before it -/
  after : Nat
  stamp : BitVec 48
  /-- words that loads before it took from the ordering point (R138) -/
  seen : List Nat
  /-- AG requests to drain: element · 4 + context, and the request's index -/
  reqs : List (Nat × Nat)
  /-- transfers, swaps, page loads and configuration loads to drain: identifiers of started work -/
  jobs : List Nat
  /-- this slot has drained -/
  drained : Bool
  tainted : Nat
  deriving DecidableEq, Repr

/-- A part that a configuration load has sent (R242): whether its last token has been sent, and whether it went live or parked, and from which cycle on. -/
structure CfglPart where
  at_ : CtxRef
  whole : Bool
  res : Option (Bool × Nat)
  deriving DecidableEq, Repr

/-- A configuration load in progress (R242). -/
structure Cfgl where
  addr : Nat
  n : Nat
  next : Nat
  /-- the first cycle in which the next entry may be read -/
  due : Nat
  cls : BitVec 5
  /-- the index of a bad descriptor that ended the load -/
  badIdx : Option Nat
  /-- the parts sent, in order -/
  parts : List CfglPart
  job : Nat
  /-- `lclk` at issue (R411) -/
  stamp : BitVec 48
  deriving DecidableEq, Repr

/-- A weight preload in progress (R244). -/
structure Wpre where
  ctxs : List (ElemId × CtxId)
  n : Nat
  loaded : Nat
  deriving DecidableEq, Repr

/-- Shelf state (R79), with the stage whose weights a filling or ready shelf holds. -/
inductive Shelf where
  | free
  | filling (stage : Nat)
  | ready (stage : Nat)
  | hosted
  | berth
  deriving DecidableEq, Repr

/-- What the drift controller is doing (R73, R76, R83, R255). -/
inductive DriftPhase where
  | idle
  /-- the commit window: its last cycle, the outgoing and the incoming stage -/
  | window (last out inn : Nat)
  /-- saving a stage since a cycle -/
  | saving (stage start : Nat)
  /-- restoring a stage since a cycle: into the shadows, or over the hosted stage -/
  | restoring (stage start : Nat)
  deriving DecidableEq, Repr

/-- A dsave or drest that is pending or in progress (R255): rollback, whether it has begun and when, the registers as they stood at issue. -/
structure DriftOp where
  rollback : Bool
  begun : Option Nat
  regs : Vector DWord 32
  deriving DecidableEq, Repr

/-- What a stage's context has beside the content of its berth record: its seed, its routes and its extents (assumption log 12). -/
structure Wiring where
  elem : ElemId
  ctx : CtxId
  seed : Word
  routes : Vector (List Half) 4
  b : Vector DWord 4
  deriving DecidableEq, Repr

/-- Dirty granules of an outgoing stage between its commit and its save (R70): granule 0, near-store granules, elements, frost rows; whether it has ended final; and the contexts that no scroll marker reaches, which keep it and never swap (R54, R57). -/
structure OutDirty where
  g0 : Bool
  near : List Nat
  vct : List Nat
  rows : BitVec 256
  final : Bool
  stay : List (ElemId × CtxId)
  deriving DecidableEq, Repr

/-- A run of granules that a refill writes (R79, R199, R258): the vertical byte at which its first granule of 128 bytes begins, the device virtual address of that granule's first byte, the distance between granules there, their number, and the part of the device range that holds data. -/
structure WeightRun where
  dst : Nat
  src : Nat
  stride : Nat
  count : Nat
  lo : Nat
  hi : Nat
  deriving DecidableEq, Repr

/-- What the placement says of one stage that a slot hosts (R62 to R70, R79, R200): its number, weight shelves, frost rows, contexts used, reserved vertical slots, the images of its shelves, and how its berth stands. -/
structure StageRes where
  stage : Nat
  shelves : BitVec 16
  frows : Nat
  ctxs : List (ElemId × CtxId)
  q : Nat
  /-- shelf images in the object: a shelf and a run of it -/
  images : List (Nat × WeightRun)
  /-- its berth image is in the berth shelf -/
  resident : Bool
  /-- the berth or save area holds an image of it -/
  saved : Bool
  /-- a save of it has completed since it was loaded (R254) -/
  stored : Bool
  /-- an uncorrectable error touched what was restored of it (R67) -/
  taint : Bool
  final : Bool
  wiring : List Wiring
  deriving DecidableEq, Repr

/-- A forced scroll at a slot (R83): what it discarded and what still has to happen. -/
structure Forced where
  first : Option (BitVec 48)
  last : BitVec 48
  waves : Nat
  tokens : Nat
  /-- the waves open at the slot when it started: their tokens in flight are judged as they land -/
  openW : List (BitVec 48)
  noticed : Bool
  deriving DecidableEq, Repr

/-- The drift controller of a column (R61 to R85). -/
structure Drift where
  /-- DRIFT of the task's band -/
  on : Bool
  /-- the hosted stage -/
  hosted : Nat
  lap : BitVec 16
  /-- stages of the slot's hosting sequence, in ascending order -/
  seq : List StageRes
  berth : Option (Fin 16)
  mask : BitVec 4
  /-- SCROLLS, HOLDW, HOLDR, HOLDS, FLWAVES, FLTOKENS, NOTEDROP (R81) -/
  cnt : Vector Word 7
  phase : DriftPhase
  /-- the first cycle in which the save or restore in progress needs no vertical slot any more (R72) -/
  moveTill : Nat
  /-- frames of the image being restored that are in place (R73) -/
  put : Nat
  /-- the next stage's restore is complete and its contexts are live -/
  restored : Bool
  /-- staging buffer of the next stage: registers, handler table, frost rows (R76) -/
  stgG : Vector DWord 32
  stgHte : Vector Word 20
  stgRows : List (Nat × Word)
  stgBytes : Nat
  /-- a hold in progress: its first cycle and its cause -/
  hold : Option (Nat × Nat)
  /-- the window flip: the private window lies in banks 6 to 11 -/
  odd : Bool
  /-- private-window granules written since the stage was last restored, as granule numbers 1 to 72 (R70) -/
  dirtyNear : List Nat
  op : Option DriftOp
  forced : Option Forced
  /-- markers of the column that wait for an injection slot, with their destination (R256, R409) -/
  scrollq : List (PortRef × Token)
  /-- waves open at the slot (R83), each with the contexts that have passed its wave-end on, as element · 4 + context -/
  waves : List (BitVec 48 × List Nat)
  shelves : Vector Shelf 16
  /-- shelves whose refill has been asked for -/
  asked : List Nat
  /-- the outgoing stage's dirty granules -/
  outD : OutDirty
  /-- places in the task's save area of the berths that lie there: stage and offset (R66) -/
  area : List (Nat × Nat)
  deriving DecidableEq, Repr

/-- A drift controller of a column without a task: every shelf free, the notice mask as at load (R253). -/
def Drift.reset : Drift :=
  { on := false, hosted := 0, lap := 0, seq := [], berth := none, mask := 0xF#4, cnt := vfill 7 0, phase := .idle, moveTill := 0, put := 0,
    restored := false, stgG := vfill 32 0, stgHte := hteReset, stgRows := [], stgBytes := 0, hold := none, odd := false,
    dirtyNear := [], op := none, forced := none, scrollq := [], waves := [], shelves := vfill 16 .free, asked := [],
    outD := ⟨false, [], [], 0, false, []⟩, area := [] }

/-- The injection port of a stage (R246): its free slots, and the ordinal of the next token to each port. -/
structure InjPort where
  stage : Nat
  free : Nat
  ord : List (PortRef × BitVec 20)
  deriving DecidableEq, Repr

/-- The place of a column in its band (R14, R15, R227). -/
structure BandPos where
  task : BitVec 16
  slot : Nat
  size : Nat
  drift : Bool
  /-- the stage has executed `end` marked final (R240) -/
  finished : Bool
  dbg : Bool
  deriving DecidableEq, Repr

/-- A cached translation (R373): virtual base, page size as a power of two, physical base, discipline, presence. -/
structure TlbEntry where
  asid : BitVec 16
  va : Nat
  size : Nat
  pa : Nat
  disc : Disc
  /-- TAINT and D of the entry it was filled from -/
  taint : Bool
  d : Bool
  deriving DecidableEq, Repr

end Sys2Proof.Machine
end

