-- ==== Sys2Proof/Machine/Inputs.lean ====
section
/-! DEFINITION. What the outside world chooses in an event: the placement mapper's answer, accesses of the Keano cores and of the PCIe port, which access performs, and the outcome of bring-up. -/

namespace Sys2Proof.Machine

/-- One control token of a stage's configuration as the loader sends it (R41, R189). -/
structure CfgToken where
  elem : ElemId
  ctx : CtxId
  pidx : Nat
  plen : Nat
  payload : Vec
  deriving DecidableEq, Repr

/-- An exit that leads to a transfer engine's edge port (R128, assumption log 10): the stage, the element and the output port that the program routes there, the index of its entry, the engine, the reservation S, and the latency of its route. -/
structure TeLink where
  stage : Nat
  elem : Nat
  port : PortId
  index : Nat
  stack : StackId
  te : TeId
  slots : Nat
  lat : Nat
  deriving DecidableEq, Repr

/-- What the mapper chooses for one slot beside its column (R112, R133, R296, R306, R307, R364). -/
structure SlotChoice where
  /-- exits for replicas of a deal or gather that continues in the next slot: element, context and output port of the route, replica, index of the entry, reservation S -/
  spill : List (Nat × Nat × Nat × Nat × Nat × Nat)
  /-- reserved vertical slots: port · 4 + slot number, element, context -/
  resv : List (Nat × Nat × Nat)
  /-- the stream binding that each AG context's extents cover: stage, element, context, index of the binding -/
  binds : List (Nat × Nat × Nat × Nat)
  /-- dictionary slots: slot, the sender's column -/
  dicts : List (Nat × Nat)
  deriving DecidableEq, Repr

/-- What the mapper chooses for a task (R364): the band's columns in slot order, each slot's choices, the page-table base, and the task's device base (R199). -/
structure MapperPlan where
  cols : List ColId
  choices : List SlotChoice
  /-- the exit entry of each edge record of the graph, by number: the edge, the index -/
  links : List (Nat × Nat)
  te : List TeLink
  /-- the route that the mapper fixed between two slots: from, to, mesh hops h, stack crossings x (R48) -/
  hops : List (Nat × Nat × Nat × Nat)
  /-- where the pages of a pinned binding go: its index, a physical address (R364) -/
  pins : List (Nat × Nat)
  ptb : DWord
  devBase : Nat
  deriving DecidableEq, Repr

/-- The key of a placed image (R201): graph hash, B, DRIFT, DCTX, and the usable stacks. -/
structure PlaceKey where
  hash : List Byte
  b : Nat
  drift : Bool
  dctx : Nat
  usable : BitVec 4
  deriving DecidableEq, Repr

/-- What one slot's column is loaded with (R28, R49, R56, R107, R110, R112, R133, R296, R308, R364). -/
structure SlotPlan where
  nsmap : BitVec 16
  nssa : BitVec 16
  /-- handler bindings of the object: class, priority, address in words -/
  handlers : List (Nat × Nat × Nat)
  /-- configuration of the first stage -/
  cfg : List CfgToken
  /-- exit table entries -/
  exits : List (Nat × DWord)
  /-- exit entries that lead to a transfer engine's edge port -/
  exitTe : List (Nat × StackId × TeId)
  /-- an exit reserved for replica r of a deal or gather in the next slot: element, context, output port, replica, exit index -/
  spill : List (Nat × Nat × Nat × Nat × Nat)
  /-- reserved vertical slots: port · 4 + slot number, element, context -/
  resv : List (Nat × Nat × Nat)
  /-- extents b0 to b3 of the first stage's AG contexts: element, context, index, value -/
  extents : List (Nat × Nat × Nat × DWord)
  /-- dictionary slots: slot, the sender's column -/
  dicts : List (Nat × Nat)
  /-- primed tokens: port, VCH and payloads -/
  primes : List (PortRef × BitVec 5 × List Vec)
  /-- stages of the hosting sequence -/
  stages : List StageRes
  deriving DecidableEq, Repr

/-- A placement (R364): the mapper's choices, and what each slot is loaded with. -/
structure Placement extends MapperPlan where
  slots : List SlotPlan
  deriving DecidableEq, Repr

/-- The mapper's answer to a candidate (R364, R357): none yet, a refusal with its STATUS, a wait for columns, or a placement. -/
inductive MapperReply where
  | asked
  | refused (status : Nat)
  | later
  | placed (p : MapperPlan)
  deriving DecidableEq, Repr

/-- One access that an event lets perform (R138). -/
inductive AccessRef where
  /-- the i-th unperformed store of a sequencer reaches its bank, or the ordering point of its stack -/
  | store (n : Node) (i : Nat)
  /-- the i-th store at a stack's ordering point reaches the memory channel -/
  | ordered (s : StackId) (i : Nat)
  /-- piece p of request r of a stream -/
  | stream (c : ColId) (e : ElemId) (x : CtxId) (r p : Nat)
  /-- the next element of the transfer an engine is moving -/
  | transfer (s : StackId) (t : TeId)
  /-- the next granule of a layer-swap refill -/
  | refill (s : StackId)
  /-- granule g of a frost page load -/
  | frost (c : ColId) (g : Nat)
  /-- the next piece of a bulk move of an engine hart -/
  | bulk (h : HartId) (i : Nat)
  deriving DecidableEq, Repr

/-- An access of a Keano core to device memory (R150). -/
inductive KeanoOp where
  | load
  | store (v : DWord)
  /-- an atomic: 0 add, 1 swap, 2 and, 3 or, 4 xor, 5 max, 6 min, 7 unsigned max, 8 unsigned min -/
  | amo (k : Nat) (v : DWord)
  /-- load-reserved, and store-conditional -/
  | lr
  | sc (v : DWord)
  /-- a cache-block management instruction, or the cache's own write-back: 0 clean, 1 flush, 2 invalidate -/
  | cbo (k : Nat)
  deriving DecidableEq, Repr

/-- The core, the physical address, the width in bytes, whether the page is SA, whether it is mapped cached, and what is done. -/
structure KeanoAccess where
  core : Fin 16
  pa : Nat
  bytes : Nat
  sa : Bool
  cached : Bool
  op : KeanoOp
  deriving DecidableEq, Repr

/-- What an inbound PCIe access goes through: a BAR of the endpoint, or nothing, as the DMA of a downstream device. -/
inductive PcieWindow where
  | bar0 | bar2 | dma
  deriving DecidableEq, Repr

/-- An inbound PCIe access: an offset of its BAR, or a downstream device's physical address (R349). -/
structure PcieAccess where
  window : PcieWindow
  addr : Nat
  /-- bytes to write, or how many to read -/
  data : List Byte
  read : Nat
  deriving DecidableEq, Repr

/-- A link of the package: UCIe link 0 to 7, or PCIe. -/
inductive LinkRef where
  | ucie (k : Fin 8)
  | pcie
  deriving DecidableEq, Repr

/-- A flit that a hop drops because its header is bad (R390). -/
inductive FlitRef where
  | token (i : Nat)
  | control (i : Nat)
  | message (i : Nat)
  deriving DecidableEq, Repr

/-- What bring-up meets (R428): the PCIEMODE strap, the memory fitted (R3), the boot images by kind and copy, and the units that fail. -/
structure PowerOn where
  mode : BitVec 2
  /-- 3 GiB on each GDDR7 channel, not 4 -/
  small : Bool
  /-- LPDDR6 fitted, in GiB less one: at most 128 -/
  lpddr : Fin 128
  images : List (Nat × Nat × List Byte)
  lpddrOk : Bool
  badChannels : List Nat
  badStacks : List Nat
  badCols : List Nat
  badLinks : List Nat
  badBuses : List (Nat × Nat)
  serial : DWord
  step : BitVec 16
  deriving DecidableEq, Repr

end Sys2Proof.Machine
end

