-- ==== Sys2Proof/Machine/Hub.lean ====
section
/-! DEFINITION. The state of a whole column, of the engines of a stack, and of the hub: dispatcher, paging, links, debug and power. -/

namespace Sys2Proof.Machine

/-- A trace record waiting in a sink, in 32-byte units (R416, R417). -/
structure TraceRec where
  part : PartId
  bytes : List Byte
  deriving DecidableEq, Repr

/-- One hop of a sonde (R415, R417). -/
structure Hop where
  col : ColId
  elem : ElemId
  ctx : CtxId
  xstk : Bool
  arrive : BitVec 48
  depart : BitVec 48
  deriving DecidableEq, Repr

/-- A sonde in flight (R415): its birth and its hops. -/
structure Sonde where
  id : BitVec 16
  birth : PortRef
  cyc : DWord
  lclk : BitVec 48
  ord : BitVec 20
  vch : BitVec 5
  stage : BitVec 16
  hops : List Hop
  lost : Bool
  deriving DecidableEq, Repr

/-- Sonde sampling of one output port (R207): k and the data tokens counted since the instruction. -/
structure Sampling where
  port : PortRef
  k : Nat
  n : Nat
  deriving DecidableEq, Repr

/-- A breakpoint unit (R408): the register as written, and COUNT. -/
structure Bpt where
  ctl : DWord
  count : Word
  deriving DecidableEq, Repr

/-- The debug page of a column (R404 to R413), but for what the sequencer and the contexts hold themselves. -/
structure Debug where
  dhalt : Bool
  sqstop : Bool
  inexact : Bool
  result : BitVec 3
  busy : Bool
  gated : Bool
  taint : Bool
  unpowered : Bool
  woken : Bool
  dbaddr : DWord
  dbdata : DWord
  bpts : Vector Bpt 4
  brkcnt : BitVec 16
  brken : Bool
  /-- the command whose shelf is waking: write, and the cycle from which it may complete -/
  pending : Option (Bool × Nat)
  /-- the shelf state to return to after the access -/
  back : Option (Fin 16 × BitVec 2)
  /-- a squall in progress or that has stopped the band: its id -/
  squall : Option DWord
  squallAt : Nat
  /-- the squall has reached this column (R409) -/
  arrived : Bool
  /-- a step of one instruction is in progress -/
  stepping : Bool
  deriving DecidableEq, Repr

/-- Debug state at power-on. -/
def Debug.reset : Debug :=
  { dhalt := false, sqstop := false, inexact := false, result := 0, busy := false, gated := false, taint := false,
    unpowered := false, woken := false, dbaddr := 0, dbdata := 0, bpts := vfill 4 ⟨0, 0⟩, brkcnt := 0, brken := false,
    pending := none, back := none, squall := none, squallAt := 0, arrived := false, stepping := false }

/-- A vertical bus's error accounting (R394). -/
structure Bus where
  unc : Nat
  /-- the lane corrected in the run of corrected reads, and the length of the run -/
  lane : Nat
  run : Nat
  deriving DecidableEq, Repr

/-- Where a column stands in a pre-emption (R366). -/
inductive PreStep where
  | none
  /-- injection, requests and firings stopped -/
  | stopped
  /-- the sequencer has halted -/
  | halted
  | drained
  | saved
  deriving DecidableEq, Repr

/-- A column: its sequencer and network interface, its stores, its datapath and its controllers. -/
structure Column where
  cpu : Cpu
  vert : Store
  elems : Vector Elem 32
  gathers : List Gather
  turns : Vector Turn 4
  fab : Fabric
  drift : Drift
  dbg : Debug
  band : Option BandPos
  part : Option PartId
  ptb : DWord
  nsmap : BitVec 16
  nssa : BitVec 16
  /-- allowances LNK and VPT per class (R353) -/
  budL : Vector (BitVec 13) 8
  budV : Vector (BitVec 13) 8
  /-- use this period: output link, and each vertical port, per class -/
  useL : Vector Nat 8
  useV : Vector (Vector Nat 4) 8
  ecorr : Word
  euncor : Word
  /-- shelf power: 0 on, 1 retention, 2 off, 3 waking (R344), and what a waking shelf wakes from -/
  shpw : Vector (BitVec 2) 16
  wasOff : BitVec 16
  vret : BitVec 4
  buses : Vector Bus 4
  errinj : DWord
  /-- owner tags and closed targets (R350, R351) -/
  bankTag : Vector (Option PartId) 16
  shelfTag : Vector (Option PartId) 16
  bankShut : BitVec 16
  shelfShut : BitVec 16
  watches : List Watch
  /-- watches whose word has been filled, with its value and state, waiting to be queued -/
  fired : List (Watch × DWord × Bool)
  barr : Option Barr
  cfgl : Option Cfgl
  wpre : Option Wpre
  exits : Vector DWord 128
  exitFree : Vector Nat 128
  /-- exit entries that the placement leads to a transfer engine's edge port: index, stack, engine (R128, assumption log 10) -/
  exitTe : List (Nat × StackId × TeId)
  spill : List (Nat × Nat × Nat × Nat × Nat)
  resv : List (Nat × Nat × Nat)
  /-- injection ports of the stages that have injected; another stage's is as new (R246) -/
  inj : List InjPort
  /-- cycles of late whose slot of each vertical port has been taken (R112) -/
  vslot : Vector (List Nat) 4
  /-- the vertical port that the sequencer's instruction last waited for, and the cycle in which it did (R71) -/
  vseq : Option (Nat × Nat)
  sampling : List Sampling
  tlb : List TlbEntry
  pre : PreStep
  /-- clock-gated; droop in progress, stretched cycles (R421, R422) -/
  gated : Bool
  droop : Bool
  dstr : Word
  /-- idle cycles in a row -/
  idleFor : Nat
  /-- the column is in service (R428) -/
  inService : Bool
  /-- jobs in progress that a barrier counts, newest first, and the next job number -/
  jobs : List Nat
  nextJob : Nat
  /-- contexts parked at a dispatcher load, reported once (R397) -/
  parkSeen : Bool
  /-- the task that was loaded here last, whose weights the shelves hold -/
  lastTask : Option (BitVec 16)
  /-- granules of 512 bytes of the near store written since the task was loaded (R368) -/
  nearDirty : List Nat
  deriving DecidableEq, Repr

/-- A column at power-on: every register zero and every shelf on (assumption log 1). -/
def Column.reset : Column :=
  { cpu := Cpu.reset, vert := .empty, elems := vfill 32 .empty, gathers := [], turns := vfill 4 .empty, fab := .empty,
    drift := .reset, dbg := .reset, band := none, part := none, ptb := 0, nsmap := 0, nssa := 0, budL := vfill 8 0,
    budV := vfill 8 0, useL := vfill 8 0, useV := vfill 8 (vfill 4 0), ecorr := 0, euncor := 0, shpw := vfill 16 0,
    wasOff := 0, vret := 0, buses := vfill 4 ⟨0, 0, 0⟩, errinj := 0, bankTag := vfill 16 none, shelfTag := vfill 16 none,
    bankShut := 0, shelfShut := 0, watches := [], fired := [], barr := none, cfgl := none, wpre := none,
    exits := vfill 128 0, exitFree := vfill 128 0, exitTe := [], spill := [], resv := [], inj := [], vslot := vfill 4 [], vseq := none, sampling := [],
    tlb := [], pre := .none, gated := false, droop := false, dstr := 0, idleFor := 0, inService := true,
    jobs := [], nextJob := 0, parkSeen := false, lastTask := none, nearDirty := [] }

/-- The injection port of a stage of the column (R246). -/
def Column.injPort (x : Column) (stage : Nat) : InjPort := (x.inj.find? fun q => q.stage == stage).getD ⟨stage, 8, []⟩
/-- Free slots of the hosted stage's injection port. -/
def Column.injFree (x : Column) : Nat := (x.injPort x.drift.hosted).free
/-- Channels of the hosted stage's injection port, with the next ordinal of each. -/
def Column.injOrd (x : Column) : List (PortRef × BitVec 20) := (x.injPort x.drift.hosted).ord
/-- The injection port of a stage changed. -/
def Column.modInj (x : Column) (stage : Nat) (f : InjPort → InjPort) : Column :=
  { x with inj := (x.inj.filter fun q => q.stage != stage) ++ [f (x.injPort stage)] }

/-- A transfer parameter block or request packet at an engine (R125, R128). -/
structure Xfer where
  /-- the eight words of the block -/
  b : List DWord
  /-- the issuing column, none for a command-graph node or a packet -/
  from_ : Option ColId
  task : BitVec 16
  /-- the copy node it serves: column and number of the graph, node -/
  node : Option (ColId × Nat × Nat)
  job : Nat
  stamp : BitVec 48
  /-- request packet: where its reply tokens go (R128) -/
  reply : Option (PortRef × BitVec 5)
  deriving DecidableEq, Repr

/-- A byte to be written on the destination side of a transfer: its address, the bits written, their data and taint. -/
structure Put where
  a : Int
  mask : Nat
  data : Nat
  taint : Bool
  deriving DecidableEq, Repr

/-- A transfer that is moving: its next element, its LFSR, what it has done. -/
structure Moving where
  x : Xfer
  /-- next element in transfer order, and the number of elements -/
  next : Nat
  total : Nat
  lfsr : Word
  clipped : Nat
  /-- first and last in-bounds i0 and i1 -/
  box : Option (Nat × Nat × Nat × Nat)
  written : Nat
  taint : Bool
  fault : Bool
  /-- paused at a page fault or by a pre-emption (R370, R378) -/
  paused : Option Nat
  /-- the empty SA word at which a read of it is deferred, or waits for one of the 16 entries there (R117) -/
  deferred : Option Loc
  stalled : Bool
  /-- bytes that have been read and are not yet written -/
  part : List Put
  /-- reply tokens of a packet: lanes of the token being built, ORD and tag -/
  lanes : List (Nat × Bool)
  ord : BitVec 20
  clipSent : Bool
  /-- the bursts or slots last used for reading and for writing (R352) -/
  lastR : Option Nat
  lastW : Option Nat
  deriving DecidableEq, Repr

/-- A transfer engine (R125 to R128): up to 16 blocks, the one it moves, packets by arrival, malformed packets counted. -/
structure Te where
  q : List Xfer
  cur : Option Moving
  packets : List QTok
  badPackets : Word
  deriving DecidableEq, Repr

/-- A layer-swap request (R79, R258): the shelf and its column, the source, the stage, the completion, and whether the drift controller made it. -/
structure Refill where
  col : ColId
  shelf : Nat
  src : Nat
  len : Nat
  /-- what it writes (R79) -/
  runs : List WeightRun
  stage : Nat
  xid : BitVec 16
  ccls : Nat
  haddr : BitVec 15
  auto : Bool
  bad : Bool
  job : Nat
  stamp : BitVec 48
  task : BitVec 16
  deriving DecidableEq, Repr

/-- Pieces of a run: one for each granule, or two where the granules of the device lie across those of the shelf. -/
def WeightRun.pieces (w : WeightRun) : Nat := if w.src % 128 = 0 then w.count else 2 * w.count

/-- A piece of a run: the vertical byte, the device virtual address, and the number of bytes, which lie in one granule of 128 bytes on either side. -/
def WeightRun.piece (w : WeightRun) (i : Nat) : Nat × Nat × Nat :=
  let (g, second) := if w.src % 128 = 0 then (i, false) else (i / 2, i % 2 == 1)
  let s := w.src + w.stride * g
  let cut := s + (128 - s % 128)
  let a := Nat.max w.lo (if second then cut else s)
  let b := Nat.min w.hi (if second then s + 128 else cut)
  (w.dst + 128 * g + (a - s), a, b - a)

/-- The `i`-th piece of some runs. -/
def pieceOf : List WeightRun → Nat → Option (Nat × Nat × Nat)
  | [], _ => none
  | w :: r, i => if i < w.pieces then some (w.piece i) else pieceOf r (i - w.pieces)

/-- Pieces of a refill. -/
def Refill.pieces (r : Refill) : Nat := sumList (r.runs.map WeightRun.pieces)

/-- A running refill: pieces done, and what it met. -/
structure Refilling where
  r : Refill
  next : Nat
  taint : Bool
  fault : Bool
  paused : Option Nat
  /-- the empty SA word at which its read is deferred, or waits for an entry (R117) -/
  deferred : Option Loc
  stalled : Bool
  lastR : Option Nat
  lastW : Option Nat
  deriving DecidableEq, Repr

/-- A node of a running command graph (R129): its words as read at cgrun, its count, launched and finished. -/
structure CgNode where
  kind : Nat
  succ : List Nat
  arg : DWord
  count : Nat
  launched : Bool
  finished : Bool
  bad : Bool
  deriving DecidableEq, Repr

/-- A command graph of one column (R130, R260). -/
structure Graph where
  col : ColId
  cls : Nat
  nodes : List CgNode
  task : BitVec 16
  /-- the graph has ended: its status, the offending node, and `cyc` at its end -/
  ended : Option (Nat × Nat × DWord)
  /-- `lclk` at issue (R411) -/
  stamp : BitVec 48
  /-- the number of the graph, by which its copies know it -/
  id : Nat
  /-- the empty SA word at which the walker's read is deferred (R117) -/
  deferred : Option Loc
  /-- the address of the node array while the walker still reads it, and decrements that came meanwhile -/
  base : Option DWord
  early : List Nat
  deriving DecidableEq, Repr

/-- A store waiting at a stack's ordering point (R138). -/
structure OrdStore where
  node : Node
  serial : Nat
  pa : Nat
  mask : BitVec 8
  data : DWord
  /-- the stream request it belongs to: element, descriptor address, request index -/
  ag : Option (ElemId × Word × Nat)
  deriving DecidableEq, Repr

/-- An access deferred on a page: the stream piece or the engine that waits, and the page (R378). -/
inductive Waiter where
  | stream (r : CtxRef)
  | te (t : TeId)
  | lse
  | column (c : ColId)
  deriving DecidableEq, Repr

/-- An entry of a replay table (R378). -/
structure Replay where
  who : Waiter
  asid : BitVec 16
  va : Nat
  deriving DecidableEq, Repr

/-- A stack: its counter, ordering point, engines, translation and sinks. -/
structure Stack where
  cyc : DWord
  ord : List OrdStore
  te : Vector Te 8
  lseQ : List Refill
  lse : Option Refilling
  graphs : List Graph
  tlb : List TlbEntry
  replay : List Replay
  sinkQ : List TraceRec
  sondes : List Sonde
  sndrop : Word
  inService : Bool
  /-- the budget period and the error window that are open (R352, R394) -/
  period : Nat
  window : Nat
  deriving DecidableEq, Repr

/-- A stack at power-on. -/
def Stack.reset : Stack :=
  { cyc := 0, ord := [], te := vfill 8 ⟨[], none, [], 0⟩, lseQ := [], lse := none, graphs := [], tlb := [],
    replay := [], sinkQ := [], sondes := [], sndrop := 0, inService := true, period := 0, window := 0 }

/-- Where a task stands (R33, R357). -/
inductive TaskSt where
  | queued | placing | loading | running | preempting | preempted | suspended | restoring | ended
  deriving DecidableEq, Repr

/-- A message or completion held for a task that is not running (R35, R386). -/
structure Spilled where
  slot : Nat
  msg : Msg
  written : Bool
  deriving DecidableEq, Repr

/-- A task known to the dispatcher (R9, R33, R356 to R370). -/
structure Task where
  id : BitVec 16
  /-- the launch record as read, and its address -/
  record : List Byte
  addr : Nat
  part : PartId
  /-- the level it is queued at, and the level its record asked for -/
  level : Nat
  home : Nat
  promoted : Bool
  st : TaskSt
  cols : List ColId
  place : Option Placement
  /-- the stream binding table as read at placement: BASE, SIZE, DISC (R365) -/
  sbt : List (Nat × Nat × Nat)
  /-- tick at which it began to wait; cycle at which it started or resumed -/
  since : Nat
  started : Nat
  expired : Bool
  faults : Nat
  /-- cycle of the last firing in its band (R32) -/
  fired : Nat
  /-- cycles that count toward no quantum since it started (R406) -/
  offQ : Nat
  /-- cycles in a row in which no element of its band has fired while a token is queued there (R32) -/
  waited : Nat
  /-- the cycle in which its pre-emption was asked for (R366) -/
  preAt : Nat
  /-- checkpoint images: slot and the column as saved -/
  images : List (Nat × Column)
  /-- tokens held in checkpoint buffers travel with the columns; spilled messages -/
  spill : List Spilled
  spillFull : Bool
  /-- a pending end: STATUS once the columns are drained -/
  ending : Option Nat
  /-- an address whose absence stops the spill engine for this task -/
  spillStop : Option Nat
  /-- spilled messages delivered so far (R386) -/
  delivered : Nat
  /-- the pre-emption in progress leaves it suspended (R356) -/
  susp : Bool
  /-- images in its save area: slot, offset, length (R368) -/
  areas : List (Nat × Nat × Nat)
  deriving DecidableEq, Repr

/-- A page move in progress (R381, R382, R385). -/
structure Move where
  /-- 0 move, 1 compress, 2 decompress, 4 page-out -/
  op : Nat
  asid : BitVec 16
  root : DWord
  va : Nat
  left : Nat
  dst : Nat
  tag : BitVec 16
  /-- where its outcome is written; a move that no descriptor asked for has no mailbox -/
  mbox : Option Nat
  force : Bool
  part : PartId
  /-- pages and groups moved, bytes written, groups skipped -/
  moved : Nat
  bytes : Nat
  skipped : Nat
  status : Nat
  taint : Bool
  /-- the page in hand is in transit -/
  transit : Bool
  done : Bool
  deriving DecidableEq, Repr

/-- A Keano load deferred at an empty SA word (R151). -/
structure KeanoWait where
  core : Fin 16
  pa : Nat
  bytes : Nat
  since : Nat
  deriving DecidableEq, Repr

/-- A line of GDDR7 in the Keano cores' cache, which no other party's access reaches (R150, assumption log 96). -/
structure KeanoLine where
  /-- its physical address in units of 64 bytes -/
  line : Nat
  data : List Byte
  dirty : Bool
  deriving DecidableEq, Repr

/-- What leaves the part towards the Keano cores or the host, newest last. -/
inductive Signal where
  /-- an MSI: address and data -/
  | msi (addr data : DWord)
  /-- the completion interrupt of a task (R11) -/
  | vec (v : Word)
  /-- an MSI-X vector at the host (R349) -/
  | msix (n : Nat)
  /-- a Keano core's load completes, or faults -/
  | loaded (core : Fin 16) (v : DWord)
  | loadFault (core : Fin 16)
  | storeFault (core : Fin 16)
  /-- the MSI of an inbound mailbox, at the Keano cores (R349) -/
  | mailbox (n : Nat)
  /-- bytes returned to a PCIe reader -/
  | pcie (bs : List Byte)
  | thermtrip
  deriving DecidableEq, Repr

/-- A system event or escalation record waiting for its queue (R346). -/
structure EvRec where
  bytes : List Byte
  /-- the column that holds it, for a record of KIND 1 or 3 -/
  col : Option ColId
  deriving DecidableEq, Repr

/-- A reassignment in progress (R350, R351). -/
structure Reassign where
  shelf : Bool
  idx : Fin 16
  col : ColId
  newPart : PartId
  il : Bool
  sa : Bool
  due : Nat
  deriving DecidableEq, Repr

/-- An invalidation in progress (R377): the address space, all, the first page and the page after the last. -/
structure Inval where
  all : Bool
  asid : BitVec 16
  lo : Nat
  hi : Nat
  due : Nat
  deriving DecidableEq, Repr

/-- Power state (R423 to R426). -/
inductive PwrState where
  | run | calm | doldrums
  | entering (target : Bool)
  deriving DecidableEq, Repr

/-- The hub. Registers without a behaviour of their own are kept by physical register address in `regs`; an unlisted one holds its reset value. -/
structure Hub where
  regs : List (Nat × DWord)
  dev : Store
  /-- the supervisor code window: 16 KiB of firmware code (R206) -/
  fw : Store
  /-- fitted bytes of each GDDR7 channel, and of LPDDR6; a channel out of service has none -/
  gddr : Vector Nat 16
  lpddr : Nat
  /-- channels in self-refresh, and the cycles since each channel's last request -/
  selfref : BitVec 16
  quiet : Vector Nat 16
  /-- 2 MiB regions that read as zero since a wake from doldrums are simply absent from dev; the save and spill images stay -/
  queues : Vector (List (BitVec 16)) 16
  tasks : List Task
  nextTask : BitVec 16
  /-- the number of the next command graph -/
  graphNo : Nat
  turn : PartId
  lrej : Vector Word 8
  tstat : Vector (BitVec 4) 8
  /-- per partition and class: UCIe, GDDR7, LPDDR6 and PCIe use this period (R352) -/
  use : List (Nat × Nat)
  dtemp : Vector (BitVec 8) 256
  skip : Vector Bool 256
  tick : Nat
  rstat : DWord
  reassign : Option Reassign
  perr : BitVec 8
  inval : Option Inval
  tinvRej : Bool
  moves : List Move
  flash : List Move
  evHeld : Vector (List EvRec) 8
  evTail : Vector (BitVec 16) 8
  ffHead : Vector (BitVec 16) 8
  trTail : Vector Word 8
  stTail : Vector Word 8
  ringEmpty : Vector Bool 8
  /-- 32-byte stores to a statistics aperture waiting to be appended: stack, partition, column, bytes -/
  statQ : List (StackId × PartId × ColId × List Byte)
  keano : List KeanoWait
  /-- lines of GDDR7 in the cores' cache, and the line that each core has reserved (R150) -/
  klines : List KeanoLine
  kres : List (Fin 16 × Nat)
  kclk : Vector (BitVec 48) 16
  /-- pages on flash are outside the part; NVMe submission tail -/
  nvTail : Vector (BitVec 16) 8
  signals : List Signal
  links : Vector Bool 8
  pcieUp : Bool
  mailIn : Vector DWord 16
  mailOut : Vector DWord 16
  /-- the MSI-X table of BAR 0: two words an entry (R349) -/
  msix : Vector DWord 128
  hostpart : PartId
  bar2 : Vector DWord 16
  pciemode : BitVec 2
  /-- kicks not yet observed: the engine's sender identifier, the value, the stamp, and the column that stored -/
  kicked : List (Nat × DWord × BitVec 48 × Option ColId)
  /-- bring-up: the step, the stop code, degraded units, the measurements and copies used -/
  bstep : Nat
  berr : Nat
  degr : BitVec 8
  /-- DEGR when the part opened (R431) -/
  degrOpen : BitVec 8
  serial : DWord
  stepping : BitVec 16
  measure : List (Nat × Nat × List Byte)
  /-- attestation: the buffer of the report being made, RESULT -/
  attest : Option Nat
  atres : BitVec 3
  pwr : PwrState
  pwrres : BitVec 3
  lastwake : BitVec 8
  wakeLatched : Option Nat
  pwrAt : Nat
  thermtrip : Bool
  /-- retraining links: since when -/
  retrain : List (LinkRef × Nat)
  squalls : List (BitVec 16 × Nat)
  /-- placed images that the mapper keeps, the last used first (R364) -/
  placed : List (PlaceKey × MapperPlan)
  /-- the walker cache: non-leaf entries, each with the table it names (R374) -/
  wcache : List TlbEntry
  deriving DecidableEq, Repr

end Sys2Proof.Machine
end

