-- ==== Sys2Proof/Syntax.lean ====
section
/-! DEFINITION. The steps of the part: the 151 C-word forms with the fields of their encodings (R176 to R179), and the 125 events, with the unit each happens at and what the outside world chooses in it. -/

namespace Sys2Proof

open Sys2Proof.Machine

/-- One constructor per row of the table of operations and events. Register fields are d, a and b; `w` is W of R178; `p` and `l` are pos and len of R179; `i` and `o` are immediates and offsets; other letters name the imm fields of each form. -/
inductive Instr where
  | ill (d : BitVec 5) (a : BitVec 5) (i : BitVec 11)
  | nop
  | brk (i : BitVec 11)
  | trap (i : BitVec 11)
  | eret
  | halt
  | trace (d : BitVec 5) (a : BitVec 5) (i : BitVec 11)
  | sonde (d : BitVec 5) (a : BitVec 5) (k : BitVec 5)
  | add (d : BitVec 5) (a : BitVec 5) (b : BitVec 5) (w : BitVec 1)
  | sub (d : BitVec 5) (a : BitVec 5) (b : BitVec 5) (w : BitVec 1)
  | and_ (d : BitVec 5) (a : BitVec 5) (b : BitVec 5) (w : BitVec 1)
  | or_ (d : BitVec 5) (a : BitVec 5) (b : BitVec 5) (w : BitVec 1)
  | xor (d : BitVec 5) (a : BitVec 5) (b : BitVec 5) (w : BitVec 1)
  | andn (d : BitVec 5) (a : BitVec 5) (b : BitVec 5) (w : BitVec 1)
  | shl (d : BitVec 5) (a : BitVec 5) (b : BitVec 5) (w : BitVec 1)
  | shr (d : BitVec 5) (a : BitVec 5) (b : BitVec 5) (w : BitVec 1)
  | sra (d : BitVec 5) (a : BitVec 5) (b : BitVec 5) (w : BitVec 1)
  | rol (d : BitVec 5) (a : BitVec 5) (b : BitVec 5) (w : BitVec 1)
  | slt (d : BitVec 5) (a : BitVec 5) (b : BitVec 5) (w : BitVec 1)
  | sltu (d : BitVec 5) (a : BitVec 5) (b : BitVec 5) (w : BitVec 1)
  | min (d : BitVec 5) (a : BitVec 5) (b : BitVec 5) (w : BitVec 1)
  | max (d : BitVec 5) (a : BitVec 5) (b : BitVec 5) (w : BitVec 1)
  | minu (d : BitVec 5) (a : BitVec 5) (b : BitVec 5) (w : BitVec 1)
  | maxu (d : BitVec 5) (a : BitVec 5) (b : BitVec 5) (w : BitVec 1)
  | mul (d : BitVec 5) (a : BitVec 5) (b : BitVec 5) (w : BitVec 1)
  | mulh (d : BitVec 5) (a : BitVec 5) (b : BitVec 5) (w : BitVec 1)
  | mulhu (d : BitVec 5) (a : BitVec 5) (b : BitVec 5) (w : BitVec 1)
  | div (d : BitVec 5) (a : BitVec 5) (b : BitVec 5) (w : BitVec 1)
  | divu (d : BitVec 5) (a : BitVec 5) (b : BitVec 5) (w : BitVec 1)
  | rem (d : BitVec 5) (a : BitVec 5) (b : BitVec 5) (w : BitVec 1)
  | remu (d : BitVec 5) (a : BitVec 5) (b : BitVec 5) (w : BitVec 1)
  | clz (d : BitVec 5) (a : BitVec 5) (w : BitVec 1)
  | ctz (d : BitVec 5) (a : BitVec 5) (w : BitVec 1)
  | popc (d : BitVec 5) (a : BitVec 5) (w : BitVec 1)
  | sel (d : BitVec 5) (a : BitVec 5) (b : BitVec 5) (w : BitVec 1)
  | extr (d : BitVec 5) (a : BitVec 5) (p : BitVec 6) (l : BitVec 6)
  | extru (d : BitVec 5) (a : BitVec 5) (p : BitVec 6) (l : BitVec 6)
  | ins (d : BitVec 5) (a : BitVec 5) (p : BitVec 6) (l : BitVec 6)
  | fadd (d : BitVec 5) (a : BitVec 5) (b : BitVec 5)
  | fsub (d : BitVec 5) (a : BitVec 5) (b : BitVec 5)
  | fmul (d : BitVec 5) (a : BitVec 5) (b : BitVec 5)
  | ffma (d : BitVec 5) (a : BitVec 5) (b : BitVec 5)
  | fdiv (d : BitVec 5) (a : BitVec 5) (b : BitVec 5)
  | fmin (d : BitVec 5) (a : BitVec 5) (b : BitVec 5)
  | fmax (d : BitVec 5) (a : BitVec 5) (b : BitVec 5)
  | fabs (d : BitVec 5) (a : BitVec 5)
  | fneg (d : BitVec 5) (a : BitVec 5)
  | feq (d : BitVec 5) (a : BitVec 5) (b : BitVec 5)
  | flt (d : BitVec 5) (a : BitVec 5) (b : BitVec 5)
  | fle (d : BitVec 5) (a : BitVec 5) (b : BitVec 5)
  | ftoi (d : BitVec 5) (a : BitVec 5)
  | itof (d : BitVec 5) (a : BitVec 5)
  | addi (d : BitVec 5) (a : BitVec 5) (i : BitVec 16)
  | andi (d : BitVec 5) (a : BitVec 5) (i : BitVec 16)
  | ori (d : BitVec 5) (a : BitVec 5) (i : BitVec 16)
  | xori (d : BitVec 5) (a : BitVec 5) (i : BitVec 16)
  | slti (d : BitVec 5) (a : BitVec 5) (i : BitVec 16)
  | sltui (d : BitVec 5) (a : BitVec 5) (i : BitVec 16)
  | shli (d : BitVec 5) (a : BitVec 5) (n : BitVec 6)
  | shri (d : BitVec 5) (a : BitVec 5) (n : BitVec 6)
  | srai (d : BitVec 5) (a : BitVec 5) (n : BitVec 6)
  | lui (d : BitVec 5) (i : BitVec 16)
  | addpc (d : BitVec 5) (i : BitVec 16)
  | beq (a : BitVec 5) (b : BitVec 5) (o : BitVec 16)
  | bne (a : BitVec 5) (b : BitVec 5) (o : BitVec 16)
  | blt (a : BitVec 5) (b : BitVec 5) (o : BitVec 16)
  | bge (a : BitVec 5) (b : BitVec 5) (o : BitVec 16)
  | bltu (a : BitVec 5) (b : BitVec 5) (o : BitVec 16)
  | bgeu (a : BitVec 5) (b : BitVec 5) (o : BitVec 16)
  | jmp (o : BitVec 26)
  | call (o : BitVec 26)
  | jmpr (a : BitVec 5)
  | callr (a : BitVec 5)
  | ldbu (d : BitVec 5) (a : BitVec 5) (o : BitVec 13)
  | ldb (d : BitVec 5) (a : BitVec 5) (o : BitVec 13)
  | ldhu (d : BitVec 5) (a : BitVec 5) (o : BitVec 13)
  | ldh (d : BitVec 5) (a : BitVec 5) (o : BitVec 13)
  | ldwu (d : BitVec 5) (a : BitVec 5) (o : BitVec 13)
  | ldw (d : BitVec 5) (a : BitVec 5) (o : BitVec 13)
  | ldd (d : BitVec 5) (a : BitVec 5) (o : BitVec 13)
  | stb (d : BitVec 5) (a : BitVec 5) (o : BitVec 13)
  | sth (d : BitVec 5) (a : BitVec 5) (o : BitVec 13)
  | stw (d : BitVec 5) (a : BitVec 5) (o : BitVec 13)
  | std (d : BitVec 5) (a : BitVec 5) (o : BitVec 13)
  | ldacqWu (d : BitVec 5) (a : BitVec 5) (o : BitVec 13)
  | ldacqW (d : BitVec 5) (a : BitVec 5) (o : BitVec 13)
  | ldacqD (d : BitVec 5) (a : BitVec 5) (o : BitVec 13)
  | strelW (d : BitVec 5) (a : BitVec 5) (o : BitVec 13)
  | strelD (d : BitVec 5) (a : BitVec 5) (o : BitVec 13)
  | tstsa (d : BitVec 5) (a : BitVec 5)
  | stsa (d : BitVec 5) (a : BitVec 5)
  | clrsa (a : BitVec 5) (n : BitVec 11)
  | watch (d : BitVec 5) (a : BitVec 5) (t : BitVec 11)
  | aadd (d : BitVec 5) (a : BitVec 5) (b : BitVec 5) (w : BitVec 1) (s : BitVec 2)
  | aswp (d : BitVec 5) (a : BitVec 5) (b : BitVec 5) (w : BitVec 1) (s : BitVec 2)
  | acas (d : BitVec 5) (a : BitVec 5) (b : BitVec 5) (w : BitVec 1) (s : BitVec 2)
  | aand (d : BitVec 5) (a : BitVec 5) (b : BitVec 5) (w : BitVec 1) (s : BitVec 2)
  | aor (d : BitVec 5) (a : BitVec 5) (b : BitVec 5) (w : BitVec 1) (s : BitVec 2)
  | axor (d : BitVec 5) (a : BitVec 5) (b : BitVec 5) (w : BitVec 1) (s : BitVec 2)
  | amax (d : BitVec 5) (a : BitVec 5) (b : BitVec 5) (w : BitVec 1) (s : BitVec 2)
  | amin (d : BitVec 5) (a : BitVec 5) (b : BitVec 5) (w : BitVec 1) (s : BitVec 2)
  | amaxu (d : BitVec 5) (a : BitVec 5) (b : BitVec 5) (w : BitVec 1) (s : BitVec 2)
  | aminu (d : BitVec 5) (a : BitVec 5) (b : BitVec 5) (w : BitVec 1) (s : BitVec 2)
  | vldd (d : BitVec 5) (a : BitVec 5)
  | vstd (d : BitVec 5) (a : BitVec 5)
  | vcpy (d : BitVec 5) (a : BitVec 5) (r : BitVec 1)
  | fence (s : BitVec 5)
  | crd (d : BitVec 5) (n : BitVec 11)
  | cwr (d : BitVec 5) (a : BitVec 5) (n : BitVec 11)
  | cset (d : BitVec 5) (a : BitVec 5) (n : BitVec 11)
  | cclr (d : BitVec 5) (a : BitVec 5) (n : BitVec 11)
  | send (d : BitVec 5) (a : BitVec 5) (u : BitVec 3) (l : BitVec 3) (c : BitVec 5)
  | sendi (d : BitVec 5) (a : BitVec 5) (c : BitVec 5)
  | reply (d : BitVec 5) (a : BitVec 5) (u : BitVec 3) (l : BitVec 3) (c : BitVec 5)
  | post (d : BitVec 5) (a : BitVec 5) (k : BitVec 8)
  | bcast (d : BitVec 5) (a : BitVec 5) (u : BitVec 3) (l : BitVec 3) (c : BitVec 5)
  | end_ (f : BitVec 1)
  | armh (d : BitVec 5) (a : BitVec 5) (x : BitVec 1) (k : BitVec 1) (p : BitVec 4) (c : BitVec 5)
  | maskh (d : BitVec 5) (a : BitVec 5)
  | unmaskh (d : BitVec 5) (a : BitVec 5)
  | raise (d : BitVec 5) (a : BitVec 5) (c : BitVec 5)
  | cfgl (d : BitVec 5) (a : BitVec 5) (c : BitVec 5)
  | cfge (d : BitVec 5) (a : BitVec 5) (i : BitVec 3)
  | cfgw (d : BitVec 5) (a : BitVec 5) (p : BitVec 2) (s : BitVec 3)
  | ctxi (d : BitVec 5) (s : BitVec 6)
  | mode (d : BitVec 5) (a : BitVec 5) (f : BitVec 4)
  | wpre (d : BitVec 5) (a : BitVec 5) (n : BitVec 11)
  | strm (d : BitVec 5) (a : BitVec 5) (c : BitVec 2) (e : BitVec 5)
  | stop (d : BitVec 5) (c : BitVec 2) (e : BitVec 5)
  | inj (d : BitVec 5) (a : BitVec 5) (n : BitVec 4)
  | injm (d : BitVec 5) (a : BitVec 5) (n : BitVec 4)
  | prime (d : BitVec 5) (a : BitVec 5) (n : BitVec 3)
  | barr (d : BitVec 5) (t : BitVec 8) (k : BitVec 1)
  | armc (d : BitVec 5) (a : BitVec 5) (c : BitVec 2) (e : BitVec 5)
  | fgld (d : BitVec 5) (a : BitVec 5)
  | fgsw (d : BitVec 5) (x : BitVec 1) (s : BitVec 4) (r : BitVec 1)
  | fgqy (d : BitVec 5) (x : BitVec 1) (s : BitVec 4)
  | fgclr (d : BitVec 5) (a : BitVec 5)
  | femit (d : BitVec 5) (a : BitVec 5)
  | dband (d : BitVec 5) (a : BitVec 5)
  | dstage (d : BitVec 5) (a : BitVec 5)
  | dsave (d : BitVec 5)
  | drest (d : BitVec 5)
  | dscrl (d : BitVec 5) (b : BitVec 1)
  | dqry (d : BitVec 5) (x : BitVec 1) (s : BitVec 3)
  | xfer (d : BitVec 5) (a : BitVec 5) (n : BitVec 1) (e : BitVec 3)
  | xqry (d : BitVec 5) (a : BitVec 5) (e : BitVec 3)
  | swap (d : BitVec 5) (a : BitVec 5)
  | bmov (d : BitVec 5) (a : BitVec 5)
  | cgrun (d : BitVec 5) (a : BitVec 5) (c : BitVec 5)
  | cgdec (d : BitVec 5) (a : BitVec 5)
  | launchPortWrite (p : PartId) (q : Fin 16) (addr : BitVec 64)
  | taskPlace (p : PartId) (reply : MapperReply)
  | entryMessage (task : BitVec 16)
  | taskRetire (task : BitVec 16)
  | messageDepart (n : Node) (i : Nat)
  | messageLand (i : Nat)
  | spillRecordWrite (task : BitVec 16) (i : Nat)
  | messageDispatch (n : Node)
  | configTokenArrive (i : Nat)
  | tokenLand (i : Nat)
  | elementFiring (c : ColId) (e : ElemId)
  | arbiterEpoch (s : StackId)
  | creditReturn (i : Nat)
  | markerAlign (c : ColId) (e : ElemId) (x : CtxId)
  | mergeDecrement (i : Nat)
  | watchdog (task : BitVec 16)
  | scrollOpen (c : ColId)
  | berthSaveDone (c : ColId)
  | berthRestoreDone (c : ColId)
  | flushNotice (c : ColId)
  | scrollMarkerPlace (c : ColId)
  | stageQuiesce (c : ColId)
  | dsaveDone (c : ColId)
  | drestDone (c : ColId)
  | eccWriteback (n : Node) (vertical : Bool) (word : Nat)
  | saDeferTimeout (i : Nat)
  | watchFire (c : ColId) (i : Nat)
  | agReplyEmit (c : ColId) (e : ElemId) (x : CtxId)
  | streamCompletionToken (c : ColId) (e : ElemId) (x : CtxId)
  | completionTokenEmit (c : ColId) (e : ElemId) (x : CtxId)
  | transferStart (s : StackId) (t : TeId)
  | transferComplete (s : StackId) (t : TeId)
  | requestPacket (s : StackId) (t : TeId)
  | cgNodeFinish (c : ColId) (node : Nat)
  | dictResetRequest (i : Nat)
  | frostLoadDone (c : ColId)
  | frostMarkerAdmit (c : ColId)
  | frostVectorAdmit (c : ColId)
  | femitToken (c : ColId)
  | fgclrCycle (c : ColId)
  | cfglEntrySend (c : ColId)
  | cfglComplete (c : ColId)
  | barrierComplete (c : ColId)
  | swapRefillStart (s : StackId)
  | swapRefillDone (s : StackId)
  | bmovComplete (h : HartId) (i : Nat)
  | engineKick (i : Nat)
  | gatherMove (c : ColId) (i : Nat)
  | cturnEmit (c : ColId) (k : Fin 4)
  | eventRecordWrite (p : PartId)
  | pcolWrite (p : PartId) (k : Fin 4) (v : BitVec 64)
  | inboundMailboxWrite (n : Fin 16) (v : BitVec 64)
  | outboundMailboxWrite (n : Fin 16) (v : BitVec 64)
  | reassignBank (v : BitVec 64)
  | reassignShelf (v : BitVec 64)
  | reassignDone
  | budgetPeriod (s : StackId)
  | tcmdSuspend (p : PartId) (addr : BitVec 48)
  | tcmdKill (p : PartId) (addr : BitVec 48)
  | tcmdRelease (p : PartId) (addr : BitVec 48)
  | dispatchTick (temps : List (BitVec 8))
  | quantumExpiry (task : BitVec 16)
  | starvationPromotion (task : BitVec 16)
  | dthermWrite (v : BitVec 64)
  | preempt (task : BitVec 16)
  | preemptSequencerHalt (c : ColId)
  | preemptDrained (c : ColId)
  | checkpointSaved (c : ColId)
  | taskRestore (task : BitVec 16) (reply : MapperReply)
  | tlbInvalidate (a n : BitVec 64)
  | tlbInvalidateDone
  | pfresRetry (p : PartId) (v : BitVec 64)
  | freeFrameTailWrite (p : PartId) (v : BitVec 64)
  | migrationKick (pa : Nat)
  | migrationPageDone
  | migrationComplete
  | flashPageoutKick (pa : Nat)
  | flashGroupWritten (ok : Bool)
  | pageInDone (i : Nat) (ok : Bool) (data : List Byte)
  | faultQuiescent (task : BitVec 16)
  | flitHeaderDrop (f : FlitRef)
  | vbusRetire (c : ColId) (layer : Fin 4)
  | vbusErrorWindow (s : StackId)
  | vretWrite (c : ColId) (v : BitVec 64)
  | linkOutOfService (k : LinkRef) (tasks : List (BitVec 16))
  | pcieEndpointLinkDown
  | keanoMemoryError (core : Fin 16) (pa : Nat) (cache : Bool)
  | dbgStop (c : ColId)
  | dbgResume (c : ColId)
  | dbgStepInstruction (c : ColId)
  | dbgStepFiring (c : ColId) (e : ElemId) (x : CtxId)
  | dbgSquall (c : ColId)
  | dbgRead (c : ColId)
  | dbgWrite (c : ColId)
  | debugAccessDone (c : ColId)
  | bptWrite (c : ColId) (u : Fin 4) (v : BitVec 64)
  | squallArrive (c : ColId)
  | squallComplete (task : BitVec 16)
  | squallTimeout (task : BitVec 16)
  | traceRecordWrite (s : StackId)
  | statRingAppend (i : Nat)
  | kclkWrite (n : Fin 16) (v : BitVec 64)
  | ktraceWrite (n : Fin 16) (v : BitVec 64)
  | columnClockGate (c : ColId)
  | gddr7SelfRefresh (ch : Fin 16)
  | shpwrWrite (c : ColId) (v : BitVec 64)
  | droopStretch (c : ColId)
  | thermtrip
  | pwrCalm
  | pwrDoldrums
  | pwrEntryDone
  | wakePin
  | wakeTimer
  | wakeEndpoint
  | wakeRootPort
  | powerOn (o : PowerOn)
  | attestRequest (v : BitVec 64)
  | attestDone
  | registerWrite (addr : Nat) (v : BitVec 64)
  | accessPerforms (a : AccessRef)
  | keanoDeviceAccess (a : KeanoAccess)
  | pcieInboundAccess (a : PcieAccess)
  | linkRetrain (k : LinkRef) (recovered : Bool)
  | shelfWakeDone (c : ColId) (h : Fin 16)
  | droopEnd (c : ColId)
  deriving DecidableEq, Repr

end Sys2Proof
end

