-- ==== Sys2Proof/Machine/State.lean ====
section
/-! DEFINITION. The state of the whole part as plain data, the reasons a step can stop, and the state after reset. -/

namespace Sys2Proof.Machine

/-- Why the machine stops for good. -/
inductive Fault where
  /-- Raised by every step but POWER_ON once a die has reached 125 °C: every clock but VAON's has stopped, and only a power cycle restores the part (R422). Safe: the part does nothing either. -/
  | clocksStopped
  deriving DecidableEq, Repr

/-- Why the model gives an instruction no meaning. -/
inductive Refusal where
  /-- Raised by an arm of exec whose instruction has no meaning yet, with its mnemonic. Safe: nothing is claimed of it. -/
  | notModelled (mnemonic : String)
  deriving DecidableEq, Repr

/-- One entry of the schedule that the outside world gives (assumption log 3): a sequencer's turn, an event, or the passing of cycles. -/
inductive Sched where
  | run (n : Node)
  | occurs (i : Instr)
  | pass (cycles : Nat)
  deriving DecidableEq, Repr

/-- A bulk move of an engine hart (R259). -/
structure Bulk where
  src : Nat
  dst : Nat
  len : Nat
  tag : BitVec 16
  opn : Nat
  bad : Bool
  /-- source bytes taken, bytes written -/
  next : Nat
  written : Nat
  taint : Bool
  fault : Bool
  stamp : BitVec 48
  deriving DecidableEq, Repr

/-- An engine hart: a sequencer with its local memory, and its bulk moves (R149, R259). -/
structure Hart where
  cpu : Cpu
  moves : List Bulk
  deriving DecidableEq, Repr

/-- A message on the network (R237). -/
structure MsgFlight where
  dst : Target
  msg : Msg
  due : Nat
  deriving DecidableEq, Repr

/-- The whole machine. -/
structure State where
  /-- nominal cycles since power-on -/
  now : Nat
  /-- whose turn it is when the schedule is empty -/
  focus : Node
  agenda : List Sched
  cols : Vector Column 256
  harts : Vector Hart 43
  stk : Vector Stack 4
  hub : Hub
  flights : List Flight
  ctl : List CtlFlight
  credits : List Credit
  decs : List Decrement
  msgs : List MsgFlight
  /-- dictionary reset requests: receiver's column, dictionary slot, sender's key (R133) -/
  resets : List (Nat × Nat × Nat)
  /-- the model's own: how many free values have been taken (assumption log 5) -/
  fresh : Nat
  deriving DecidableEq, Repr

/-- The hub at power-on, before bring-up: every register at its reset value, nothing launched, every fitted memory of full size, every MSI-X vector masked (assumption logs 1, 8 and 106). -/
def Hub.reset : Hub :=
  { regs := [], dev := .empty, fw := .empty, gddr := vfill 16 (2 ^ 32), lpddr := 2 ^ 37, selfref := 0, quiet := vfill 16 0,
    queues := vfill 16 [], tasks := [], nextTask := 1, graphNo := 0, turn := 0, lrej := vfill 8 0, tstat := vfill 8 0, use := [],
    dtemp := vfill 256 0, skip := vfill 256 false, tick := 0, rstat := 0, reassign := none, perr := 0, inval := none,
    tinvRej := false, moves := [], flash := [], evHeld := vfill 8 [], evTail := vfill 8 0,
    ffHead := vfill 8 0, trTail := vfill 8 0, stTail := vfill 8 0, ringEmpty := vfill 8 false, statQ := [], keano := [], klines := [], kres := [],
    kclk := vfill 16 0, nvTail := vfill 8 0, signals := [], links := vfill 8 true, pcieUp := true, mailIn := vfill 16 0,
    mailOut := vfill 16 0, msix := vmapIdx (fun i _ => if i % 2 = 1 then 2 ^ 32 else 0) (vfill 128 ()), hostpart := 0, bar2 := vfill 16 0, pciemode := 0, kicked := [], bstep := 1,
    berr := 0, degr := 0, degrOpen := 0, serial := 0, stepping := 0, measure := [], attest := none, atres := 0,
    pwr := .run, pwrres := 0, lastwake := 0, wakeLatched := none, pwrAt := 0, thermtrip := false, retrain := [],
    squalls := [], placed := [], wcache := [] }

/-- The machine right after power-on: bring-up has not run, nothing is placed, every sequencer is idle. -/
def State.reset : State :=
  { now := 0, focus := .col 0, agenda := [], cols := vfill 256 Column.reset, harts := vfill 43 ⟨Cpu.reset, []⟩,
    stk := vfill 4 Stack.reset, hub := Hub.reset, flights := [], ctl := [], credits := [], decs := [], msgs := [],
    resets := [], fresh := 0 }

end Sys2Proof.Machine
end

