-- ==== Sys2Proof/WellFormed.lean ====
section
/-! DEFINITION. The limits on an instruction's fields beyond their widths: a word that breaks one is illegal (R179, R180, R207, R225, R232). -/

namespace Sys2Proof

open Sys2Proof.Machine

/-- A bitfield of `l` bits, 0 meaning 64, from `p` on stays within 64 bits (R179). -/
def bfxOk (p l : BitVec 6) : Bool := decide (p.toNat + (if l = 0 then 64 else l.toNat) ≤ 64)

/-- A message class, 0 to 19 (R236, R239). -/
def clsOk (c : BitVec 5) : Bool := decide (c.toNat ≤ 19)

/-- A completion class: 0 to 12, or 31 for none (R242, R260). -/
def compClsOk (c : BitVec 5) : Bool := decide (c.toNat ≤ 12) || c == 31#5

/-- A format that `mode` admits: i8, n8, i16, f32, bf, hf, e4, e5, l6 (R86, R244). -/
def syFmtOk (f : BitVec 4) : Bool := decide (f.toNat ∈ [0, 1, 2, 6, 7, 8, 9, 10, 11])

/-- No field of the instruction breaks a limit. -/
def Instr.wellFormed : Instr → Bool
  | .sonde _ _ k => k == 0 || (decide (4 ≤ k.toNat) && decide (k.toNat ≤ 20))
  | .extr _ _ p l => bfxOk p l
  | .extru _ _ p l => bfxOk p l
  | .ins _ _ p l => bfxOk p l
  | .fence s => decide (s.toNat ≤ 4)
  | .send _ _ u _ c => clsOk c && u != 7
  | .sendi _ a c => clsOk c && decide (a.toNat ≤ 29)
  | .reply _ _ u _ c => clsOk c && u != 7
  | .bcast _ _ u _ c => clsOk c && u != 7
  | .armh _ _ _ _ _ c => clsOk c
  | .raise _ a c => clsOk c && decide (a.toNat ≤ 29)
  | .cfgl _ _ c => compClsOk c
  | .cfgw _ _ _ s => s != 7
  | .mode _ _ f => syFmtOk f
  | .inj _ _ n => n != 0
  | .injm _ _ n => n != 0
  | .prime _ _ n => n != 0
  | .fgsw _ x s r => decide (s.toNat ≤ 7) && !(x == 1 && r == 1)
  | .fgqy _ x s => decide (s.toNat ≤ 9) && (x == 0 || (decide (1 ≤ s.toNat) && decide (s.toNat ≤ 6)))
  | .dqry _ x s => !(s == 7 && x == 1)
  | .xfer _ _ n e => !(n == 1 && e != 0)
  | .cgrun _ _ c => compClsOk c
  | .ill .. | .nop .. | .brk .. | .trap .. | .eret .. | .halt .. | .trace .. | .add .. | .sub .. | .and_ ..
  | .or_ .. | .xor .. | .andn .. | .shl .. | .shr .. | .sra .. | .rol .. | .slt .. | .sltu .. | .min ..
  | .max .. | .minu .. | .maxu .. | .mul .. | .mulh .. | .mulhu .. | .div .. | .divu .. | .rem .. | .remu ..
  | .clz .. | .ctz .. | .popc .. | .sel .. | .fadd .. | .fsub .. | .fmul .. | .ffma .. | .fdiv .. | .fmin ..
  | .fmax .. | .fabs .. | .fneg .. | .feq .. | .flt .. | .fle .. | .ftoi .. | .itof .. | .addi .. | .andi ..
  | .ori .. | .xori .. | .slti .. | .sltui .. | .shli .. | .shri .. | .srai .. | .lui .. | .addpc ..
  | .beq .. | .bne .. | .blt .. | .bge .. | .bltu .. | .bgeu .. | .jmp .. | .call .. | .jmpr .. | .callr ..
  | .ldbu .. | .ldb .. | .ldhu .. | .ldh .. | .ldwu .. | .ldw .. | .ldd .. | .stb .. | .sth .. | .stw ..
  | .std .. | .ldacqWu .. | .ldacqW .. | .ldacqD .. | .strelW .. | .strelD .. | .tstsa .. | .stsa ..
  | .clrsa .. | .watch .. | .aadd .. | .aswp .. | .acas .. | .aand .. | .aor .. | .axor .. | .amax ..
  | .amin .. | .amaxu .. | .aminu .. | .vldd .. | .vstd .. | .vcpy .. | .crd .. | .cwr .. | .cset ..
  | .cclr .. | .post .. | .end_ .. | .maskh .. | .unmaskh .. | .cfge .. | .ctxi .. | .wpre .. | .strm ..
  | .stop .. | .barr .. | .armc .. | .fgld .. | .fgclr .. | .femit .. | .dband .. | .dstage .. | .dsave ..
  | .drest .. | .dscrl .. | .xqry .. | .swap .. | .bmov .. | .cgdec .. | .launchPortWrite .. | .taskPlace ..
  | .entryMessage .. | .taskRetire .. | .messageDepart .. | .messageLand .. | .spillRecordWrite ..
  | .messageDispatch .. | .configTokenArrive .. | .tokenLand .. | .elementFiring .. | .arbiterEpoch ..
  | .creditReturn .. | .markerAlign .. | .mergeDecrement .. | .watchdog .. | .scrollOpen ..
  | .berthSaveDone .. | .berthRestoreDone .. | .flushNotice .. | .scrollMarkerPlace .. | .stageQuiesce ..
  | .dsaveDone .. | .drestDone .. | .eccWriteback .. | .saDeferTimeout .. | .watchFire .. | .agReplyEmit ..
  | .streamCompletionToken .. | .completionTokenEmit .. | .transferStart .. | .transferComplete ..
  | .requestPacket .. | .cgNodeFinish .. | .dictResetRequest .. | .frostLoadDone .. | .frostMarkerAdmit ..
  | .frostVectorAdmit .. | .femitToken .. | .fgclrCycle .. | .cfglEntrySend .. | .cfglComplete ..
  | .barrierComplete .. | .swapRefillStart .. | .swapRefillDone .. | .bmovComplete .. | .engineKick ..
  | .gatherMove .. | .cturnEmit .. | .eventRecordWrite .. | .pcolWrite .. | .inboundMailboxWrite ..
  | .outboundMailboxWrite .. | .reassignBank .. | .reassignShelf .. | .reassignDone .. | .budgetPeriod ..
  | .tcmdSuspend .. | .tcmdKill .. | .tcmdRelease .. | .dispatchTick .. | .quantumExpiry ..
  | .starvationPromotion .. | .dthermWrite .. | .preempt .. | .preemptSequencerHalt .. | .preemptDrained ..
  | .checkpointSaved .. | .taskRestore .. | .tlbInvalidate .. | .tlbInvalidateDone .. | .pfresRetry ..
  | .freeFrameTailWrite .. | .migrationKick .. | .migrationPageDone .. | .migrationComplete ..
  | .flashPageoutKick .. | .flashGroupWritten .. | .pageInDone .. | .faultQuiescent .. | .flitHeaderDrop ..
  | .vbusRetire .. | .vbusErrorWindow .. | .vretWrite .. | .linkOutOfService .. | .pcieEndpointLinkDown ..
  | .keanoMemoryError .. | .dbgStop .. | .dbgResume .. | .dbgStepInstruction .. | .dbgStepFiring ..
  | .dbgSquall .. | .dbgRead .. | .dbgWrite .. | .debugAccessDone .. | .bptWrite .. | .squallArrive ..
  | .squallComplete .. | .squallTimeout .. | .traceRecordWrite .. | .statRingAppend .. | .kclkWrite ..
  | .ktraceWrite .. | .columnClockGate .. | .gddr7SelfRefresh .. | .shpwrWrite .. | .droopStretch ..
  | .thermtrip .. | .pwrCalm .. | .pwrDoldrums .. | .pwrEntryDone .. | .wakePin .. | .wakeTimer ..
  | .wakeEndpoint .. | .wakeRootPort .. | .powerOn .. | .attestRequest .. | .attestDone ..
  | .registerWrite .. | .accessPerforms .. | .keanoDeviceAccess .. | .pcieInboundAccess .. | .linkRetrain ..
  | .shelfWakeDone .. | .droopEnd .. => true

end Sys2Proof
end

