-- ==== Sys2Proof/Decode.lean ====
section
/-! DEFINITION. Decoding of C-words (R176 to R180) and, after it, their encoding. -/

namespace Sys2Proof

open Sys2Proof.Machine

/-- Why a word is illegal (R180). -/
inductive Reject where
  /-- its opcode, sub code, fn code or sz-and-x pair is not assigned -/
  | unassigned
  /-- a `res0` field is non-zero -/
  | reserved
  /-- it breaks a limit -/
  | limit
  deriving DecidableEq, Repr

/-- The number in the `n` bits of `x` from bit `lo` on. -/
def rng (x lo n : Nat) : Nat := x / 2 ^ lo % 2 ^ n

/-- The same as a bit vector. -/
def bits (x lo n : Nat) : BitVec n := BitVec.ofNat n (x / 2 ^ lo)

/-- The instruction, if its `res0` fields are zero. -/
def res (ok : Bool) (i : Instr) : Except Reject Instr := if ok then .ok i else .error .reserved

/-- Opcode 0x00 (R207). -/
def decSys (x : Nat) : Except Reject Instr :=
  match rng x 11 5 with
  | 0 => .ok (.ill (bits x 21 5) (bits x 16 5) (bits x 0 11))
  | 1 => res (rng x 0 11 == 0 && rng x 16 10 == 0) .nop
  | 2 => res (rng x 16 10 == 0) (.brk (bits x 0 11))
  | 3 => res (rng x 16 10 == 0) (.trap (bits x 0 11))
  | 4 => res (rng x 0 11 == 0 && rng x 16 10 == 0) .eret
  | 5 => res (rng x 0 11 == 0 && rng x 16 10 == 0) .halt
  | 6 => .ok (.trace (bits x 21 5) (bits x 16 5) (bits x 0 11))
  | 7 => res (rng x 5 6 == 0) (.sonde (bits x 21 5) (bits x 16 5) (bits x 0 5))
  | _ => .error .unassigned

/-- Opcode 0x01 (R208). -/
def decAlu (x : Nat) : Except Reject Instr :=
  match rng x 0 5 with
  | 0 => res (rng x 5 5 == 0) (.add (bits x 21 5) (bits x 16 5) (bits x 11 5) (bits x 10 1))
  | 1 => res (rng x 5 5 == 0) (.sub (bits x 21 5) (bits x 16 5) (bits x 11 5) (bits x 10 1))
  | 2 => res (rng x 5 5 == 0) (.and_ (bits x 21 5) (bits x 16 5) (bits x 11 5) (bits x 10 1))
  | 3 => res (rng x 5 5 == 0) (.or_ (bits x 21 5) (bits x 16 5) (bits x 11 5) (bits x 10 1))
  | 4 => res (rng x 5 5 == 0) (.xor (bits x 21 5) (bits x 16 5) (bits x 11 5) (bits x 10 1))
  | 5 => res (rng x 5 5 == 0) (.andn (bits x 21 5) (bits x 16 5) (bits x 11 5) (bits x 10 1))
  | 6 => res (rng x 5 5 == 0) (.shl (bits x 21 5) (bits x 16 5) (bits x 11 5) (bits x 10 1))
  | 7 => res (rng x 5 5 == 0) (.shr (bits x 21 5) (bits x 16 5) (bits x 11 5) (bits x 10 1))
  | 8 => res (rng x 5 5 == 0) (.sra (bits x 21 5) (bits x 16 5) (bits x 11 5) (bits x 10 1))
  | 9 => res (rng x 5 5 == 0) (.rol (bits x 21 5) (bits x 16 5) (bits x 11 5) (bits x 10 1))
  | 10 => res (rng x 5 5 == 0) (.slt (bits x 21 5) (bits x 16 5) (bits x 11 5) (bits x 10 1))
  | 11 => res (rng x 5 5 == 0) (.sltu (bits x 21 5) (bits x 16 5) (bits x 11 5) (bits x 10 1))
  | 12 => res (rng x 5 5 == 0) (.min (bits x 21 5) (bits x 16 5) (bits x 11 5) (bits x 10 1))
  | 13 => res (rng x 5 5 == 0) (.max (bits x 21 5) (bits x 16 5) (bits x 11 5) (bits x 10 1))
  | 14 => res (rng x 5 5 == 0) (.minu (bits x 21 5) (bits x 16 5) (bits x 11 5) (bits x 10 1))
  | 15 => res (rng x 5 5 == 0) (.maxu (bits x 21 5) (bits x 16 5) (bits x 11 5) (bits x 10 1))
  | 16 => res (rng x 5 5 == 0) (.mul (bits x 21 5) (bits x 16 5) (bits x 11 5) (bits x 10 1))
  | 17 => res (rng x 5 5 == 0) (.mulh (bits x 21 5) (bits x 16 5) (bits x 11 5) (bits x 10 1))
  | 18 => res (rng x 5 5 == 0) (.mulhu (bits x 21 5) (bits x 16 5) (bits x 11 5) (bits x 10 1))
  | 19 => res (rng x 5 5 == 0) (.div (bits x 21 5) (bits x 16 5) (bits x 11 5) (bits x 10 1))
  | 20 => res (rng x 5 5 == 0) (.divu (bits x 21 5) (bits x 16 5) (bits x 11 5) (bits x 10 1))
  | 21 => res (rng x 5 5 == 0) (.rem (bits x 21 5) (bits x 16 5) (bits x 11 5) (bits x 10 1))
  | 22 => res (rng x 5 5 == 0) (.remu (bits x 21 5) (bits x 16 5) (bits x 11 5) (bits x 10 1))
  | 23 => res (rng x 5 5 == 0 && rng x 11 5 == 0) (.clz (bits x 21 5) (bits x 16 5) (bits x 10 1))
  | 24 => res (rng x 5 5 == 0 && rng x 11 5 == 0) (.ctz (bits x 21 5) (bits x 16 5) (bits x 10 1))
  | 25 => res (rng x 5 5 == 0 && rng x 11 5 == 0) (.popc (bits x 21 5) (bits x 16 5) (bits x 10 1))
  | 26 => res (rng x 5 5 == 0) (.sel (bits x 21 5) (bits x 16 5) (bits x 11 5) (bits x 10 1))
  | _ => .error .unassigned

/-- Opcode 0x02 (R210). -/
def decBfx (x : Nat) : Except Reject Instr :=
  match rng x 0 4 with
  | 0 => .ok (.extr (bits x 21 5) (bits x 16 5) (bits x 10 6) (bits x 4 6))
  | 1 => .ok (.extru (bits x 21 5) (bits x 16 5) (bits x 10 6) (bits x 4 6))
  | 2 => .ok (.ins (bits x 21 5) (bits x 16 5) (bits x 10 6) (bits x 4 6))
  | _ => .error .unassigned

/-- Opcode 0x03 (R211). -/
def decFpu (x : Nat) : Except Reject Instr :=
  match rng x 0 4 with
  | 0 => res (rng x 4 7 == 0) (.fadd (bits x 21 5) (bits x 16 5) (bits x 11 5))
  | 1 => res (rng x 4 7 == 0) (.fsub (bits x 21 5) (bits x 16 5) (bits x 11 5))
  | 2 => res (rng x 4 7 == 0) (.fmul (bits x 21 5) (bits x 16 5) (bits x 11 5))
  | 3 => res (rng x 4 7 == 0) (.ffma (bits x 21 5) (bits x 16 5) (bits x 11 5))
  | 4 => res (rng x 4 7 == 0) (.fdiv (bits x 21 5) (bits x 16 5) (bits x 11 5))
  | 5 => res (rng x 4 7 == 0) (.fmin (bits x 21 5) (bits x 16 5) (bits x 11 5))
  | 6 => res (rng x 4 7 == 0) (.fmax (bits x 21 5) (bits x 16 5) (bits x 11 5))
  | 7 => res (rng x 4 12 == 0) (.fabs (bits x 21 5) (bits x 16 5))
  | 8 => res (rng x 4 12 == 0) (.fneg (bits x 21 5) (bits x 16 5))
  | 9 => res (rng x 4 7 == 0) (.feq (bits x 21 5) (bits x 16 5) (bits x 11 5))
  | 10 => res (rng x 4 7 == 0) (.flt (bits x 21 5) (bits x 16 5) (bits x 11 5))
  | 11 => res (rng x 4 7 == 0) (.fle (bits x 21 5) (bits x 16 5) (bits x 11 5))
  | 12 => res (rng x 4 12 == 0) (.ftoi (bits x 21 5) (bits x 16 5))
  | 13 => res (rng x 4 12 == 0) (.itof (bits x 21 5) (bits x 16 5))
  | _ => .error .unassigned

/-- Opcode 0x0A (R213). -/
def decShift (x : Nat) : Except Reject Instr :=
  match rng x 14 2 with
  | 0 => res (rng x 6 8 == 0) (.shli (bits x 21 5) (bits x 16 5) (bits x 0 6))
  | 1 => res (rng x 6 8 == 0) (.shri (bits x 21 5) (bits x 16 5) (bits x 0 6))
  | 2 => res (rng x 6 8 == 0) (.srai (bits x 21 5) (bits x 16 5) (bits x 0 6))
  | _ => .error .unassigned

/-- Opcode 0x18 (R214). -/
def decJump (x : Nat) : Except Reject Instr :=
  match rng x 0 1 with
  | 0 => res (rng x 1 15 == 0 && rng x 21 5 == 0) (.jmpr (bits x 16 5))
  | 1 => res (rng x 1 15 == 0 && rng x 21 5 == 0) (.callr (bits x 16 5))
  | _ => .error .unassigned

/-- Opcode 0x20 (R179). -/
def decLoad (x : Nat) : Except Reject Instr :=
  match rng x 13 3 with
  | 0 => .ok (.ldbu (bits x 21 5) (bits x 16 5) (bits x 0 13))
  | 1 => .ok (.ldb (bits x 21 5) (bits x 16 5) (bits x 0 13))
  | 2 => .ok (.ldhu (bits x 21 5) (bits x 16 5) (bits x 0 13))
  | 3 => .ok (.ldh (bits x 21 5) (bits x 16 5) (bits x 0 13))
  | 4 => .ok (.ldwu (bits x 21 5) (bits x 16 5) (bits x 0 13))
  | 5 => .ok (.ldw (bits x 21 5) (bits x 16 5) (bits x 0 13))
  | 6 => .ok (.ldd (bits x 21 5) (bits x 16 5) (bits x 0 13))
  | _ => .error .unassigned

/-- Opcode 0x21 (R179). -/
def decStore (x : Nat) : Except Reject Instr :=
  match rng x 13 3 with
  | 0 => .ok (.stb (bits x 21 5) (bits x 16 5) (bits x 0 13))
  | 2 => .ok (.sth (bits x 21 5) (bits x 16 5) (bits x 0 13))
  | 4 => .ok (.stw (bits x 21 5) (bits x 16 5) (bits x 0 13))
  | 6 => .ok (.std (bits x 21 5) (bits x 16 5) (bits x 0 13))
  | _ => .error .unassigned

/-- Opcode 0x22 (R219). -/
def decSa (x : Nat) : Except Reject Instr :=
  match rng x 11 5 with
  | 0 => res (rng x 0 11 == 0) (.tstsa (bits x 21 5) (bits x 16 5))
  | 1 => res (rng x 0 11 == 0) (.stsa (bits x 21 5) (bits x 16 5))
  | 2 => res (rng x 21 5 == 0) (.clrsa (bits x 16 5) (bits x 0 11))
  | 3 => .ok (.watch (bits x 21 5) (bits x 16 5) (bits x 0 11))
  | _ => .error .unassigned

/-- Opcode 0x23 (R223). -/
def decAtomic (x : Nat) : Except Reject Instr :=
  match rng x 0 4 with
  | 0 => res (rng x 7 4 == 0) (.aadd (bits x 21 5) (bits x 16 5) (bits x 11 5) (bits x 6 1) (bits x 4 2))
  | 1 => res (rng x 7 4 == 0) (.aswp (bits x 21 5) (bits x 16 5) (bits x 11 5) (bits x 6 1) (bits x 4 2))
  | 2 => res (rng x 7 4 == 0) (.acas (bits x 21 5) (bits x 16 5) (bits x 11 5) (bits x 6 1) (bits x 4 2))
  | 3 => res (rng x 7 4 == 0) (.aand (bits x 21 5) (bits x 16 5) (bits x 11 5) (bits x 6 1) (bits x 4 2))
  | 4 => res (rng x 7 4 == 0) (.aor (bits x 21 5) (bits x 16 5) (bits x 11 5) (bits x 6 1) (bits x 4 2))
  | 5 => res (rng x 7 4 == 0) (.axor (bits x 21 5) (bits x 16 5) (bits x 11 5) (bits x 6 1) (bits x 4 2))
  | 6 => res (rng x 7 4 == 0) (.amax (bits x 21 5) (bits x 16 5) (bits x 11 5) (bits x 6 1) (bits x 4 2))
  | 7 => res (rng x 7 4 == 0) (.amin (bits x 21 5) (bits x 16 5) (bits x 11 5) (bits x 6 1) (bits x 4 2))
  | 8 => res (rng x 7 4 == 0) (.amaxu (bits x 21 5) (bits x 16 5) (bits x 11 5) (bits x 6 1) (bits x 4 2))
  | 9 => res (rng x 7 4 == 0) (.aminu (bits x 21 5) (bits x 16 5) (bits x 11 5) (bits x 6 1) (bits x 4 2))
  | _ => .error .unassigned

/-- Opcode 0x24 (R224). -/
def decVert (x : Nat) : Except Reject Instr :=
  match rng x 11 5 with
  | 0 => res (rng x 0 11 == 0) (.vldd (bits x 21 5) (bits x 16 5))
  | 1 => res (rng x 0 11 == 0) (.vstd (bits x 21 5) (bits x 16 5))
  | 2 => res (rng x 1 10 == 0) (.vcpy (bits x 21 5) (bits x 16 5) (bits x 0 1))
  | _ => .error .unassigned

/-- Opcode 0x25 (R225). -/
def decAcq (x : Nat) : Except Reject Instr :=
  match rng x 13 3 with
  | 4 => .ok (.ldacqWu (bits x 21 5) (bits x 16 5) (bits x 0 13))
  | 5 => .ok (.ldacqW (bits x 21 5) (bits x 16 5) (bits x 0 13))
  | 6 => .ok (.ldacqD (bits x 21 5) (bits x 16 5) (bits x 0 13))
  | _ => .error .unassigned

/-- Opcode 0x26 (R225). -/
def decRel (x : Nat) : Except Reject Instr :=
  match rng x 13 3 with
  | 4 => .ok (.strelW (bits x 21 5) (bits x 16 5) (bits x 0 13))
  | 6 => .ok (.strelD (bits x 21 5) (bits x 16 5) (bits x 0 13))
  | _ => .error .unassigned

/-- Opcode 0x28 (R236). -/
def decMsg (x : Nat) : Except Reject Instr :=
  match rng x 11 5 with
  | 0 => .ok (.send (bits x 21 5) (bits x 16 5) (bits x 8 3) (bits x 5 3) (bits x 0 5))
  | 1 => res (rng x 5 6 == 0) (.sendi (bits x 21 5) (bits x 16 5) (bits x 0 5))
  | 2 => .ok (.reply (bits x 21 5) (bits x 16 5) (bits x 8 3) (bits x 5 3) (bits x 0 5))
  | 3 => res (rng x 8 3 == 0) (.post (bits x 21 5) (bits x 16 5) (bits x 0 8))
  | 4 => .ok (.bcast (bits x 21 5) (bits x 16 5) (bits x 8 3) (bits x 5 3) (bits x 0 5))
  | _ => .error .unassigned

/-- Opcode 0x29 (R239). -/
def decHandler (x : Nat) : Except Reject Instr :=
  match rng x 11 5 with
  | 0 => res (rng x 1 10 == 0 && rng x 16 10 == 0) (.end_ (bits x 0 1))
  | 1 => .ok (.armh (bits x 21 5) (bits x 16 5) (bits x 10 1) (bits x 9 1) (bits x 5 4) (bits x 0 5))
  | 2 => res (rng x 0 11 == 0) (.maskh (bits x 21 5) (bits x 16 5))
  | 3 => res (rng x 0 11 == 0) (.unmaskh (bits x 21 5) (bits x 16 5))
  | 4 => res (rng x 5 6 == 0) (.raise (bits x 21 5) (bits x 16 5) (bits x 0 5))
  | _ => .error .unassigned

/-- Opcode 0x30 (R242 to R244). -/
def decCfg (x : Nat) : Except Reject Instr :=
  match rng x 11 5 with
  | 0 => res (rng x 5 6 == 0) (.cfgl (bits x 21 5) (bits x 16 5) (bits x 0 5))
  | 1 => res (rng x 3 8 == 0) (.cfge (bits x 21 5) (bits x 16 5) (bits x 0 3))
  | 2 => res (rng x 5 6 == 0) (.cfgw (bits x 21 5) (bits x 16 5) (bits x 3 2) (bits x 0 3))
  | 3 => res (rng x 6 5 == 0 && rng x 16 5 == 0) (.ctxi (bits x 21 5) (bits x 0 6))
  | 4 => res (rng x 4 7 == 0) (.mode (bits x 21 5) (bits x 16 5) (bits x 0 4))
  | 5 => .ok (.wpre (bits x 21 5) (bits x 16 5) (bits x 0 11))
  | _ => .error .unassigned

/-- Opcode 0x31 (R245 to R248). -/
def decStream (x : Nat) : Except Reject Instr :=
  match rng x 11 5 with
  | 0 => res (rng x 7 4 == 0) (.strm (bits x 21 5) (bits x 16 5) (bits x 5 2) (bits x 0 5))
  | 1 => res (rng x 7 4 == 0 && rng x 16 5 == 0) (.stop (bits x 21 5) (bits x 5 2) (bits x 0 5))
  | 2 => res (rng x 4 7 == 0) (.inj (bits x 21 5) (bits x 16 5) (bits x 0 4))
  | 3 => res (rng x 4 7 == 0) (.injm (bits x 21 5) (bits x 16 5) (bits x 0 4))
  | 4 => res (rng x 3 8 == 0) (.prime (bits x 21 5) (bits x 16 5) (bits x 0 3))
  | 5 => res (rng x 9 2 == 0 && rng x 16 5 == 0) (.barr (bits x 21 5) (bits x 1 8) (bits x 0 1))
  | 6 => res (rng x 7 4 == 0) (.armc (bits x 21 5) (bits x 16 5) (bits x 5 2) (bits x 0 5))
  | _ => .error .unassigned

/-- Opcode 0x32 (R249). -/
def decFrost (x : Nat) : Except Reject Instr :=
  match rng x 11 5 with
  | 0 => res (rng x 0 11 == 0) (.fgld (bits x 21 5) (bits x 16 5))
  | 1 => res (rng x 6 5 == 0 && rng x 16 5 == 0) (.fgsw (bits x 21 5) (bits x 5 1) (bits x 1 4) (bits x 0 1))
  | 2 => res (rng x 5 6 == 0 && rng x 16 5 == 0) (.fgqy (bits x 21 5) (bits x 4 1) (bits x 0 4))
  | 3 => res (rng x 0 11 == 0) (.fgclr (bits x 21 5) (bits x 16 5))
  | 4 => res (rng x 0 11 == 0) (.femit (bits x 21 5) (bits x 16 5))
  | _ => .error .unassigned

/-- Opcode 0x33 (R253). -/
def decDrift (x : Nat) : Except Reject Instr :=
  match rng x 11 5 with
  | 0 => res (rng x 0 11 == 0) (.dband (bits x 21 5) (bits x 16 5))
  | 1 => res (rng x 0 11 == 0) (.dstage (bits x 21 5) (bits x 16 5))
  | 2 => res (rng x 0 11 == 0 && rng x 16 5 == 0) (.dsave (bits x 21 5))
  | 3 => res (rng x 0 11 == 0 && rng x 16 5 == 0) (.drest (bits x 21 5))
  | 4 => res (rng x 1 10 == 0 && rng x 16 5 == 0) (.dscrl (bits x 21 5) (bits x 0 1))
  | 5 => res (rng x 4 7 == 0 && rng x 16 5 == 0) (.dqry (bits x 21 5) (bits x 3 1) (bits x 0 3))
  | _ => .error .unassigned

/-- Opcode 0x34 (R257). -/
def decEngine (x : Nat) : Except Reject Instr :=
  match rng x 11 5 with
  | 0 => res (rng x 4 7 == 0) (.xfer (bits x 21 5) (bits x 16 5) (bits x 3 1) (bits x 0 3))
  | 1 => res (rng x 3 8 == 0) (.xqry (bits x 21 5) (bits x 16 5) (bits x 0 3))
  | 2 => res (rng x 0 11 == 0) (.swap (bits x 21 5) (bits x 16 5))
  | 3 => res (rng x 0 11 == 0) (.bmov (bits x 21 5) (bits x 16 5))
  | _ => .error .unassigned

/-- Opcode 0x35 (R260). -/
def decGraph (x : Nat) : Except Reject Instr :=
  match rng x 11 5 with
  | 0 => res (rng x 5 6 == 0) (.cgrun (bits x 21 5) (bits x 16 5) (bits x 0 5))
  | 1 => res (rng x 0 11 == 0) (.cgdec (bits x 21 5) (bits x 16 5))
  | _ => .error .unassigned

/-- Opcode 0x38 (R226). -/
def decCr (x : Nat) : Except Reject Instr :=
  match rng x 11 5 with
  | 0 => res (rng x 16 5 == 0) (.crd (bits x 21 5) (bits x 0 11))
  | 1 => .ok (.cwr (bits x 21 5) (bits x 16 5) (bits x 0 11))
  | 2 => .ok (.cset (bits x 21 5) (bits x 16 5) (bits x 0 11))
  | 3 => .ok (.cclr (bits x 21 5) (bits x 16 5) (bits x 0 11))
  | _ => .error .unassigned

/-- The instruction that the fields of a word spell, without the limits of `Instr.wellFormed` (R178, R179). -/
def decodeFields (x : Nat) : Except Reject Instr :=
  match rng x 26 6 with
  | 0x00 => decSys x
  | 0x01 => decAlu x
  | 0x02 => decBfx x
  | 0x03 => decFpu x
  | 0x04 => .ok (.addi (bits x 21 5) (bits x 16 5) (bits x 0 16))
  | 0x05 => .ok (.andi (bits x 21 5) (bits x 16 5) (bits x 0 16))
  | 0x06 => .ok (.ori (bits x 21 5) (bits x 16 5) (bits x 0 16))
  | 0x07 => .ok (.xori (bits x 21 5) (bits x 16 5) (bits x 0 16))
  | 0x08 => .ok (.slti (bits x 21 5) (bits x 16 5) (bits x 0 16))
  | 0x09 => .ok (.sltui (bits x 21 5) (bits x 16 5) (bits x 0 16))
  | 0x0A => decShift x
  | 0x0B => res (rng x 16 5 == 0) (.lui (bits x 21 5) (bits x 0 16))
  | 0x0C => res (rng x 16 5 == 0) (.addpc (bits x 21 5) (bits x 0 16))
  | 0x10 => .ok (.beq (bits x 21 5) (bits x 16 5) (bits x 0 16))
  | 0x11 => .ok (.bne (bits x 21 5) (bits x 16 5) (bits x 0 16))
  | 0x12 => .ok (.blt (bits x 21 5) (bits x 16 5) (bits x 0 16))
  | 0x13 => .ok (.bge (bits x 21 5) (bits x 16 5) (bits x 0 16))
  | 0x14 => .ok (.bltu (bits x 21 5) (bits x 16 5) (bits x 0 16))
  | 0x15 => .ok (.bgeu (bits x 21 5) (bits x 16 5) (bits x 0 16))
  | 0x16 => .ok (.jmp (bits x 0 26))
  | 0x17 => .ok (.call (bits x 0 26))
  | 0x18 => decJump x
  | 0x20 => decLoad x
  | 0x21 => decStore x
  | 0x22 => decSa x
  | 0x23 => decAtomic x
  | 0x24 => decVert x
  | 0x25 => decAcq x
  | 0x26 => decRel x
  | 0x27 => res (rng x 0 11 == 0 && rng x 16 10 == 0) (.fence (bits x 11 5))
  | 0x28 => decMsg x
  | 0x29 => decHandler x
  | 0x30 => decCfg x
  | 0x31 => decStream x
  | 0x32 => decFrost x
  | 0x33 => decDrift x
  | 0x34 => decEngine x
  | 0x35 => decGraph x
  | 0x38 => decCr x
  | _ => .error .unassigned

/-- The instruction that a word spells, or why it is illegal. -/
def decode (w : Word) : Except Reject Instr :=
  match decodeFields w.toNat with
  | .ok i => if i.wellFormed then .ok i else .error .limit
  | .error e => .error e

/-- The instruction at the head of a list of bytes, each word stored low byte first (R5, R175), and the bytes after it; fewer than four bytes spell none. -/
def decodeBytes (bs : List Byte) : Except Reject (Instr × List Byte) :=
  match bs with
  | b0 :: b1 :: b2 :: b3 :: rest =>
    match decode (BitVec.ofNat 32 (leNat [b0, b1, b2, b3])) with
    | .ok i => .ok (i, rest)
    | .error e => .error e
  | _ => .error .unassigned

/-- A number with a field put in at bit `lo`. -/
def fld {n : Nat} (x : Nat) (v : BitVec n) (lo : Nat) : Nat := x + v.toNat * 2 ^ lo

/-- The number that spells a C-word's instruction; an event has no encoding. -/
def encodeNat : Instr → Option Nat
  | .ill d a i => some (fld (fld (fld 0x00000000 d 21) a 16) i 0)
  | .nop => some 0x00000800
  | .brk i => some (fld 0x00001000 i 0)
  | .trap i => some (fld 0x00001800 i 0)
  | .eret => some 0x00002000
  | .halt => some 0x00002800
  | .trace d a i => some (fld (fld (fld 0x00003000 d 21) a 16) i 0)
  | .sonde d a k => some (fld (fld (fld 0x00003800 d 21) a 16) k 0)
  | .add d a b w => some (fld (fld (fld (fld 0x04000000 d 21) a 16) b 11) w 10)
  | .sub d a b w => some (fld (fld (fld (fld 0x04000001 d 21) a 16) b 11) w 10)
  | .and_ d a b w => some (fld (fld (fld (fld 0x04000002 d 21) a 16) b 11) w 10)
  | .or_ d a b w => some (fld (fld (fld (fld 0x04000003 d 21) a 16) b 11) w 10)
  | .xor d a b w => some (fld (fld (fld (fld 0x04000004 d 21) a 16) b 11) w 10)
  | .andn d a b w => some (fld (fld (fld (fld 0x04000005 d 21) a 16) b 11) w 10)
  | .shl d a b w => some (fld (fld (fld (fld 0x04000006 d 21) a 16) b 11) w 10)
  | .shr d a b w => some (fld (fld (fld (fld 0x04000007 d 21) a 16) b 11) w 10)
  | .sra d a b w => some (fld (fld (fld (fld 0x04000008 d 21) a 16) b 11) w 10)
  | .rol d a b w => some (fld (fld (fld (fld 0x04000009 d 21) a 16) b 11) w 10)
  | .slt d a b w => some (fld (fld (fld (fld 0x0400000A d 21) a 16) b 11) w 10)
  | .sltu d a b w => some (fld (fld (fld (fld 0x0400000B d 21) a 16) b 11) w 10)
  | .min d a b w => some (fld (fld (fld (fld 0x0400000C d 21) a 16) b 11) w 10)
  | .max d a b w => some (fld (fld (fld (fld 0x0400000D d 21) a 16) b 11) w 10)
  | .minu d a b w => some (fld (fld (fld (fld 0x0400000E d 21) a 16) b 11) w 10)
  | .maxu d a b w => some (fld (fld (fld (fld 0x0400000F d 21) a 16) b 11) w 10)
  | .mul d a b w => some (fld (fld (fld (fld 0x04000010 d 21) a 16) b 11) w 10)
  | .mulh d a b w => some (fld (fld (fld (fld 0x04000011 d 21) a 16) b 11) w 10)
  | .mulhu d a b w => some (fld (fld (fld (fld 0x04000012 d 21) a 16) b 11) w 10)
  | .div d a b w => some (fld (fld (fld (fld 0x04000013 d 21) a 16) b 11) w 10)
  | .divu d a b w => some (fld (fld (fld (fld 0x04000014 d 21) a 16) b 11) w 10)
  | .rem d a b w => some (fld (fld (fld (fld 0x04000015 d 21) a 16) b 11) w 10)
  | .remu d a b w => some (fld (fld (fld (fld 0x04000016 d 21) a 16) b 11) w 10)
  | .clz d a w => some (fld (fld (fld 0x04000017 d 21) a 16) w 10)
  | .ctz d a w => some (fld (fld (fld 0x04000018 d 21) a 16) w 10)
  | .popc d a w => some (fld (fld (fld 0x04000019 d 21) a 16) w 10)
  | .sel d a b w => some (fld (fld (fld (fld 0x0400001A d 21) a 16) b 11) w 10)
  | .extr d a p l => some (fld (fld (fld (fld 0x08000000 d 21) a 16) p 10) l 4)
  | .extru d a p l => some (fld (fld (fld (fld 0x08000001 d 21) a 16) p 10) l 4)
  | .ins d a p l => some (fld (fld (fld (fld 0x08000002 d 21) a 16) p 10) l 4)
  | .fadd d a b => some (fld (fld (fld 0x0C000000 d 21) a 16) b 11)
  | .fsub d a b => some (fld (fld (fld 0x0C000001 d 21) a 16) b 11)
  | .fmul d a b => some (fld (fld (fld 0x0C000002 d 21) a 16) b 11)
  | .ffma d a b => some (fld (fld (fld 0x0C000003 d 21) a 16) b 11)
  | .fdiv d a b => some (fld (fld (fld 0x0C000004 d 21) a 16) b 11)
  | .fmin d a b => some (fld (fld (fld 0x0C000005 d 21) a 16) b 11)
  | .fmax d a b => some (fld (fld (fld 0x0C000006 d 21) a 16) b 11)
  | .fabs d a => some (fld (fld 0x0C000007 d 21) a 16)
  | .fneg d a => some (fld (fld 0x0C000008 d 21) a 16)
  | .feq d a b => some (fld (fld (fld 0x0C000009 d 21) a 16) b 11)
  | .flt d a b => some (fld (fld (fld 0x0C00000A d 21) a 16) b 11)
  | .fle d a b => some (fld (fld (fld 0x0C00000B d 21) a 16) b 11)
  | .ftoi d a => some (fld (fld 0x0C00000C d 21) a 16)
  | .itof d a => some (fld (fld 0x0C00000D d 21) a 16)
  | .addi d a i => some (fld (fld (fld 0x10000000 d 21) a 16) i 0)
  | .andi d a i => some (fld (fld (fld 0x14000000 d 21) a 16) i 0)
  | .ori d a i => some (fld (fld (fld 0x18000000 d 21) a 16) i 0)
  | .xori d a i => some (fld (fld (fld 0x1C000000 d 21) a 16) i 0)
  | .slti d a i => some (fld (fld (fld 0x20000000 d 21) a 16) i 0)
  | .sltui d a i => some (fld (fld (fld 0x24000000 d 21) a 16) i 0)
  | .shli d a n => some (fld (fld (fld 0x28000000 d 21) a 16) n 0)
  | .shri d a n => some (fld (fld (fld 0x28004000 d 21) a 16) n 0)
  | .srai d a n => some (fld (fld (fld 0x28008000 d 21) a 16) n 0)
  | .lui d i => some (fld (fld 0x2C000000 d 21) i 0)
  | .addpc d i => some (fld (fld 0x30000000 d 21) i 0)
  | .beq a b o => some (fld (fld (fld 0x40000000 a 21) b 16) o 0)
  | .bne a b o => some (fld (fld (fld 0x44000000 a 21) b 16) o 0)
  | .blt a b o => some (fld (fld (fld 0x48000000 a 21) b 16) o 0)
  | .bge a b o => some (fld (fld (fld 0x4C000000 a 21) b 16) o 0)
  | .bltu a b o => some (fld (fld (fld 0x50000000 a 21) b 16) o 0)
  | .bgeu a b o => some (fld (fld (fld 0x54000000 a 21) b 16) o 0)
  | .jmp o => some (fld 0x58000000 o 0)
  | .call o => some (fld 0x5C000000 o 0)
  | .jmpr a => some (fld 0x60000000 a 16)
  | .callr a => some (fld 0x60000001 a 16)
  | .ldbu d a o => some (fld (fld (fld 0x80000000 d 21) a 16) o 0)
  | .ldb d a o => some (fld (fld (fld 0x80002000 d 21) a 16) o 0)
  | .ldhu d a o => some (fld (fld (fld 0x80004000 d 21) a 16) o 0)
  | .ldh d a o => some (fld (fld (fld 0x80006000 d 21) a 16) o 0)
  | .ldwu d a o => some (fld (fld (fld 0x80008000 d 21) a 16) o 0)
  | .ldw d a o => some (fld (fld (fld 0x8000A000 d 21) a 16) o 0)
  | .ldd d a o => some (fld (fld (fld 0x8000C000 d 21) a 16) o 0)
  | .stb d a o => some (fld (fld (fld 0x84000000 d 21) a 16) o 0)
  | .sth d a o => some (fld (fld (fld 0x84004000 d 21) a 16) o 0)
  | .stw d a o => some (fld (fld (fld 0x84008000 d 21) a 16) o 0)
  | .std d a o => some (fld (fld (fld 0x8400C000 d 21) a 16) o 0)
  | .tstsa d a => some (fld (fld 0x88000000 d 21) a 16)
  | .stsa d a => some (fld (fld 0x88000800 d 21) a 16)
  | .clrsa a n => some (fld (fld 0x88001000 a 16) n 0)
  | .watch d a t => some (fld (fld (fld 0x88001800 d 21) a 16) t 0)
  | .aadd d a b w s => some (fld (fld (fld (fld (fld 0x8C000000 d 21) a 16) b 11) w 6) s 4)
  | .aswp d a b w s => some (fld (fld (fld (fld (fld 0x8C000001 d 21) a 16) b 11) w 6) s 4)
  | .acas d a b w s => some (fld (fld (fld (fld (fld 0x8C000002 d 21) a 16) b 11) w 6) s 4)
  | .aand d a b w s => some (fld (fld (fld (fld (fld 0x8C000003 d 21) a 16) b 11) w 6) s 4)
  | .aor d a b w s => some (fld (fld (fld (fld (fld 0x8C000004 d 21) a 16) b 11) w 6) s 4)
  | .axor d a b w s => some (fld (fld (fld (fld (fld 0x8C000005 d 21) a 16) b 11) w 6) s 4)
  | .amax d a b w s => some (fld (fld (fld (fld (fld 0x8C000006 d 21) a 16) b 11) w 6) s 4)
  | .amin d a b w s => some (fld (fld (fld (fld (fld 0x8C000007 d 21) a 16) b 11) w 6) s 4)
  | .amaxu d a b w s => some (fld (fld (fld (fld (fld 0x8C000008 d 21) a 16) b 11) w 6) s 4)
  | .aminu d a b w s => some (fld (fld (fld (fld (fld 0x8C000009 d 21) a 16) b 11) w 6) s 4)
  | .vldd d a => some (fld (fld 0x90000000 d 21) a 16)
  | .vstd d a => some (fld (fld 0x90000800 d 21) a 16)
  | .vcpy d a r => some (fld (fld (fld 0x90001000 d 21) a 16) r 0)
  | .ldacqWu d a o => some (fld (fld (fld 0x94008000 d 21) a 16) o 0)
  | .ldacqW d a o => some (fld (fld (fld 0x9400A000 d 21) a 16) o 0)
  | .ldacqD d a o => some (fld (fld (fld 0x9400C000 d 21) a 16) o 0)
  | .strelW d a o => some (fld (fld (fld 0x98008000 d 21) a 16) o 0)
  | .strelD d a o => some (fld (fld (fld 0x9800C000 d 21) a 16) o 0)
  | .fence s => some (fld 0x9C000000 s 11)
  | .send d a u l c => some (fld (fld (fld (fld (fld 0xA0000000 d 21) a 16) u 8) l 5) c 0)
  | .sendi d a c => some (fld (fld (fld 0xA0000800 d 21) a 16) c 0)
  | .reply d a u l c => some (fld (fld (fld (fld (fld 0xA0001000 d 21) a 16) u 8) l 5) c 0)
  | .post d a k => some (fld (fld (fld 0xA0001800 d 21) a 16) k 0)
  | .bcast d a u l c => some (fld (fld (fld (fld (fld 0xA0002000 d 21) a 16) u 8) l 5) c 0)
  | .end_ f => some (fld 0xA4000000 f 0)
  | .armh d a x k p c => some (fld (fld (fld (fld (fld (fld 0xA4000800 d 21) a 16) x 10) k 9) p 5) c 0)
  | .maskh d a => some (fld (fld 0xA4001000 d 21) a 16)
  | .unmaskh d a => some (fld (fld 0xA4001800 d 21) a 16)
  | .raise d a c => some (fld (fld (fld 0xA4002000 d 21) a 16) c 0)
  | .cfgl d a c => some (fld (fld (fld 0xC0000000 d 21) a 16) c 0)
  | .cfge d a i => some (fld (fld (fld 0xC0000800 d 21) a 16) i 0)
  | .cfgw d a p s => some (fld (fld (fld (fld 0xC0001000 d 21) a 16) p 3) s 0)
  | .ctxi d s => some (fld (fld 0xC0001800 d 21) s 0)
  | .mode d a f => some (fld (fld (fld 0xC0002000 d 21) a 16) f 0)
  | .wpre d a n => some (fld (fld (fld 0xC0002800 d 21) a 16) n 0)
  | .strm d a c e => some (fld (fld (fld (fld 0xC4000000 d 21) a 16) c 5) e 0)
  | .stop d c e => some (fld (fld (fld 0xC4000800 d 21) c 5) e 0)
  | .inj d a n => some (fld (fld (fld 0xC4001000 d 21) a 16) n 0)
  | .injm d a n => some (fld (fld (fld 0xC4001800 d 21) a 16) n 0)
  | .prime d a n => some (fld (fld (fld 0xC4002000 d 21) a 16) n 0)
  | .barr d t k => some (fld (fld (fld 0xC4002800 d 21) t 1) k 0)
  | .armc d a c e => some (fld (fld (fld (fld 0xC4003000 d 21) a 16) c 5) e 0)
  | .fgld d a => some (fld (fld 0xC8000000 d 21) a 16)
  | .fgsw d x s r => some (fld (fld (fld (fld 0xC8000800 d 21) x 5) s 1) r 0)
  | .fgqy d x s => some (fld (fld (fld 0xC8001000 d 21) x 4) s 0)
  | .fgclr d a => some (fld (fld 0xC8001800 d 21) a 16)
  | .femit d a => some (fld (fld 0xC8002000 d 21) a 16)
  | .dband d a => some (fld (fld 0xCC000000 d 21) a 16)
  | .dstage d a => some (fld (fld 0xCC000800 d 21) a 16)
  | .dsave d => some (fld 0xCC001000 d 21)
  | .drest d => some (fld 0xCC001800 d 21)
  | .dscrl d b => some (fld (fld 0xCC002000 d 21) b 0)
  | .dqry d x s => some (fld (fld (fld 0xCC002800 d 21) x 3) s 0)
  | .xfer d a n e => some (fld (fld (fld (fld 0xD0000000 d 21) a 16) n 3) e 0)
  | .xqry d a e => some (fld (fld (fld 0xD0000800 d 21) a 16) e 0)
  | .swap d a => some (fld (fld 0xD0001000 d 21) a 16)
  | .bmov d a => some (fld (fld 0xD0001800 d 21) a 16)
  | .cgrun d a c => some (fld (fld (fld 0xD4000000 d 21) a 16) c 0)
  | .cgdec d a => some (fld (fld 0xD4000800 d 21) a 16)
  | .crd d n => some (fld (fld 0xE0000000 d 21) n 0)
  | .cwr d a n => some (fld (fld (fld 0xE0000800 d 21) a 16) n 0)
  | .cset d a n => some (fld (fld (fld 0xE0001000 d 21) a 16) n 0)
  | .cclr d a n => some (fld (fld (fld 0xE0001800 d 21) a 16) n 0)
  | .launchPortWrite .. | .taskPlace .. | .entryMessage .. | .taskRetire .. | .messageDepart ..
  | .messageLand .. | .spillRecordWrite .. | .messageDispatch .. | .configTokenArrive .. | .tokenLand ..
  | .elementFiring .. | .arbiterEpoch .. | .creditReturn .. | .markerAlign .. | .mergeDecrement ..
  | .watchdog .. | .scrollOpen .. | .berthSaveDone .. | .berthRestoreDone .. | .flushNotice ..
  | .scrollMarkerPlace .. | .stageQuiesce .. | .dsaveDone .. | .drestDone .. | .eccWriteback ..
  | .saDeferTimeout .. | .watchFire .. | .agReplyEmit .. | .streamCompletionToken ..
  | .completionTokenEmit .. | .transferStart .. | .transferComplete .. | .requestPacket .. | .cgNodeFinish ..
  | .dictResetRequest .. | .frostLoadDone .. | .frostMarkerAdmit .. | .frostVectorAdmit .. | .femitToken ..
  | .fgclrCycle .. | .cfglEntrySend .. | .cfglComplete .. | .barrierComplete .. | .swapRefillStart ..
  | .swapRefillDone .. | .bmovComplete .. | .engineKick .. | .gatherMove .. | .cturnEmit ..
  | .eventRecordWrite .. | .pcolWrite .. | .inboundMailboxWrite .. | .outboundMailboxWrite ..
  | .reassignBank .. | .reassignShelf .. | .reassignDone .. | .budgetPeriod .. | .tcmdSuspend ..
  | .tcmdKill .. | .tcmdRelease .. | .dispatchTick .. | .quantumExpiry .. | .starvationPromotion ..
  | .dthermWrite .. | .preempt .. | .preemptSequencerHalt .. | .preemptDrained .. | .checkpointSaved ..
  | .taskRestore .. | .tlbInvalidate .. | .tlbInvalidateDone .. | .pfresRetry .. | .freeFrameTailWrite ..
  | .migrationKick .. | .migrationPageDone .. | .migrationComplete .. | .flashPageoutKick ..
  | .flashGroupWritten .. | .pageInDone .. | .faultQuiescent .. | .flitHeaderDrop .. | .vbusRetire ..
  | .vbusErrorWindow .. | .vretWrite .. | .linkOutOfService .. | .pcieEndpointLinkDown ..
  | .keanoMemoryError .. | .dbgStop .. | .dbgResume .. | .dbgStepInstruction .. | .dbgStepFiring ..
  | .dbgSquall .. | .dbgRead .. | .dbgWrite .. | .debugAccessDone .. | .bptWrite .. | .squallArrive ..
  | .squallComplete .. | .squallTimeout .. | .traceRecordWrite .. | .statRingAppend .. | .kclkWrite ..
  | .ktraceWrite .. | .columnClockGate .. | .gddr7SelfRefresh .. | .shpwrWrite .. | .droopStretch ..
  | .thermtrip .. | .pwrCalm .. | .pwrDoldrums .. | .pwrEntryDone .. | .wakePin .. | .wakeTimer ..
  | .wakeEndpoint .. | .wakeRootPort .. | .powerOn .. | .attestRequest .. | .attestDone ..
  | .registerWrite .. | .accessPerforms .. | .keanoDeviceAccess .. | .pcieInboundAccess .. | .linkRetrain ..
  | .shelfWakeDone .. | .droopEnd .. => none

/-- The word of an instruction that has one. -/
def encode (i : Instr) : Option Word := (encodeNat i).map (BitVec.ofNat 32)

/-- The instruction that the decoder reads from a table row's bits: they are laid out low byte first, and the bits above them are zero. -/
def decodeTableWord (nbits w : Nat) : Option Instr :=
  if nbits = 0 then none
  else match decodeBytes (leBytes 4 (w % 2 ^ nbits)) with
    | .ok (i, _) => some i
    | .error _ => none

end Sys2Proof
end

