-- ==== Sys2Proof/Machine/Approx.lean ====
section
/-! DEFINITION. The approximations of R103 and R104 and the refinements of R105: the exact function rounded once. The functions are evaluated in fixed point with 400 fraction bits, and an inexact value carries a sticky bit below them, so the one rounding to at most 12 bits is the rounding of the exact value (assumption log 7). -/

namespace Sys2Proof.Machine

/-- Fraction bits of the fixed-point evaluation. -/
def apxF : Nat := 400

/-- 1 in fixed point. -/
def apxOne : Nat := 2 ^ 400

/-- π · 2^400, rounded down. -/
def apxPi : Nat := 0x3243f6a8885a308d313198a2e03707344a4093822299f31d0082efa98ec4e6c89452821e638d01377be5466cf34e90c6cc0ac

/-- ln 2 · 2^400, rounded down. -/
def apxLn2 : Nat := 0xb17217f7d1cf79abc9e3b39803f2f6af40f343267298b62d8a0d175b8baafa2be7b876206debac98559552fb4afa1b10ed2e

/-- Product of two fixed-point numbers. -/
def apxMul (a b : Nat) : Nat := a * b / apxOne

/-- Taylor sum of e^r, r below 1: the term after `k` terms is `t`. -/
def apxExpTerms (r : Nat) : Nat → Nat → Nat → Nat
  | 0, _, t => t
  | n + 1, k, t => t + apxExpTerms r n (k + 1) (apxMul t r / (k + 1))

/-- e^r for a fixed-point r below 1. -/
def apxExp (r : Nat) : Nat := apxExpTerms r 90 0 apxOne

/-- Sum of z^(2k+1)/(2k+1), from the power `p` = z^(2k+1). -/
def apxAtanhTerms (z2 : Nat) : Nat → Nat → Nat → Nat
  | 0, _, _ => 0
  | n + 1, k, p => p / (2 * k + 1) + apxAtanhTerms z2 n (k + 1) (apxMul p z2)

/-- ln m for a fixed-point m in [1, 2]. -/
def apxLn (m : Nat) : Nat :=
  let z := (m - apxOne) * apxOne / (m + apxOne)
  2 * apxAtanhTerms (apxMul z z) 130 0 z

/-- Alternating Taylor sum for sine and cosine: signed terms t, with t' = t·θ²/((k+1)(k+2)). -/
def apxTrigTerms (th2 : Nat) : Nat → Nat → Bool → Nat → Int
  | 0, _, _, _ => 0
  | n + 1, k, s, t =>
    (if s then -(t : Int) else t) + apxTrigTerms th2 n (k + 2) (!s) (apxMul t th2 / ((k + 1) * (k + 2)))

/-- sin θ for a fixed-point θ in [0, π/2]. -/
def apxSin (th : Nat) : Nat := (apxTrigTerms (apxMul th th) 70 1 false th).toNat

/-- cos θ for a fixed-point θ in [0, π/2]. -/
def apxCos (th : Nat) : Nat := (apxTrigTerms (apxMul th th) 70 0 false apxOne).toNat

/-- The value of an inexact fixed-point number: the sticky bit says that the exact value lies just above. -/
def apxVal (neg : Bool) (x : Nat) : Fv := .num neg (2 * x + 1) (-401)

/-- A number m · 2^e in fixed point, rounded down. -/
def apxFix (m : Nat) (e : Int) : Nat :=
  let k := e + 400
  if 0 ≤ k then m * 2 ^ k.toNat else m / 2 ^ (-k).toNat

/-- Integer square root, bit by bit: the greatest r with r² ≤ n, for n below 4^bits. -/
def isqrtBits (n : Nat) : Nat → Nat → Nat
  | 0, r => r
  | b + 1, r => let r' := r + 2 ^ b; isqrtBits n b (if r' * r' ≤ n then r' else r)

/-- vrcpa (R103, R104). -/
def apxRcp (x : Fv) : Fv :=
  match x with
  | .nan => .nan
  | .inf s => .num s 0 0
  | .num s m _ => if m = 0 then .inf s else Fv.div (.num false 1 0) x

/-- vrsqa (R103, R104). -/
def apxRsq (x : Fv) : Fv :=
  match x with
  | .nan => .nan
  | .inf s => if s then .nan else .num false 0 0
  | .num s m e =>
    if m = 0 then .inf s
    else if s then .nan
    else
      -- 1/√(m·2^e) with an even exponent: 1/√(n·2^(2h)) = 2^(-h)·√(2^240/n)·2^(-120)
      let odd := e % 2 ≠ 0
      let n := if odd then 2 * m else m
      let h := (if odd then e - 1 else e) / 2
      let q := 2 ^ 240 / n
      let r := isqrtBits q 121 0
      let exact := r * r * n == 2 ^ 240
      if exact then .num false r (-120 - h) else .num false (2 * r + 1) (-121 - h)

/-- vexp2a (R103, R104). -/
def apxExp2 (x : Fv) : Fv :=
  match x with
  | .nan => .nan
  | .inf s => if s then .zero else .inf false
  | .num s m e =>
    if m = 0 then .num false 1 0
    else if 12 < (Nat.log2 m : Int) + e then (if s then .num false 1 (-5000) else .num false 1 5000)
    else if 0 ≤ e then .num false 1 (signedM s (m * 2 ^ e.toNat))
    else
      let k := (-e).toNat
      let i : Int := signedM s m / (2 ^ k : Nat)
      let fr := (signedM s m % (2 ^ k : Nat)).toNat
      if fr = 0 then .num false 1 i
      else
        let y := apxExp (apxMul (apxFix fr (-(k : Int))) apxLn2)
        .num false (2 * y + 1) (i - 401)

/-- vlog2a (R103, R104). -/
def apxLog2 (x : Fv) : Fv :=
  match x with
  | .nan => .nan
  | .inf s => if s then .nan else .inf false
  | .num s m e =>
    if m = 0 then .inf true
    else if s then .nan
    else
      let l := Nat.log2 m
      let ex : Int := (l : Int) + e
      if m = 2 ^ l then Fv.ofInt ex
      else
        let fx := apxFix m (-(l : Int))
        let lg := apxLn fx * apxOne / apxLn2
        let y : Int := ex * (apxOne : Int) + lg
        .num (decide (y < 0)) (2 * y.natAbs + 1) (-401)

/-- e^y for a signed number y = ±m·2^e with |y| < 4096, as an exponent and a fixed-point mantissa. -/
def apxExpSigned (s : Bool) (m : Nat) (e : Int) : Nat × Int :=
  let y : Int := signedM s (apxFix m e)
  let n : Int := y / (apxLn2 : Int)
  let r := (y % (apxLn2 : Int)).toNat
  (apxExp r, n)

/-- vsiga (R103, R104). -/
def apxSig (x : Fv) : Fv :=
  match x with
  | .nan => .nan
  | .inf s => if s then .zero else .num false 1 0
  | .num s m e =>
    if m = 0 then .num false 1 (-1)
    else if 8 < (Nat.log2 m : Int) + e then
      (if s then .num false 1 (-5000) else .num false (2 ^ 200 - 1) (-200))
    else
      -- 1/(1 + e^(-x))
      let (y, n) := apxExpSigned (!s) m e
      let den : Nat := if 0 ≤ n then apxOne + y * 2 ^ n.toNat else apxOne + y / 2 ^ (-n).toNat
      .num false (2 * (apxOne * 2 ^ 800 / den) + 1) (-801)

/-- The fraction x − floor(x), as a numerator over 2^k (R103). -/
def apxFrac (s : Bool) (m : Nat) (e : Int) : Nat × Nat :=
  if 0 ≤ e then (0, 0)
  else let k := (-e).toNat
       ((signedM s m % (2 ^ k : Nat)).toNat, k)

/-- sin(2π·j/4 + 2π·r) from the quadrant j and the fixed-point remainder r in [0, 1/4). -/
def apxQuadrant (j : Nat) (r : Nat) : Fv :=
  let th := apxMul (2 * apxPi) r
  if r = 0 then
    match j % 4 with
    | 0 => .zero
    | 1 => .num false 1 0
    | 2 => .zero
    | _ => .num true 1 0
  else
    match j % 4 with
    | 0 => apxVal false (apxSin th)
    | 1 => apxVal false (apxCos th)
    | 2 => apxVal true (apxSin th)
    | _ => apxVal true (apxCos th)

/-- sin(2πx′ + quarter·π/2) (R103, R104). -/
def apxTurn (quarter : Nat) (x : Fv) : Fv :=
  match x with
  | .nan => .nan
  | .inf _ => .nan
  | .num s m e =>
    let (n, k) := apxFrac s m e
    let j := n * 4 / 2 ^ k
    let r := n * 4 - j * 2 ^ k
    apxQuadrant (j + quarter) (apxFix r (-(k : Int) - 2))

/-- vsina (R103). -/
def apxSina (x : Fv) : Fv := apxTurn 0 x

/-- vcosa (R103). -/
def apxCosa (x : Fv) : Fv := apxTurn 1 x

/-- The one rounding of an approximation: min(12, p) significant bits, the subnormal grid, R94 with saturation off (R103). -/
def apxRound (f : FFmt) (v : Fv) : Nat := (f.roundSig (min 12 (f.fb + 1)) .rne false v).1

/-- vnrr: x(2 − a·x), or x as read when x or a is zero, infinite or NaN (R105). -/
def refineRcp (x a : Fv) : Fv :=
  match x, a with
  | .num _ m _, .num _ n _ =>
    if m = 0 || n = 0 then x
    else Fv.mul x (Fv.add (.num false 2 0) (Fv.neg (Fv.mul a x)))
  | _, _ => x

/-- vnrs: x(1.5 − 0.5·a·x²) (R105). -/
def refineRsq (x a : Fv) : Fv :=
  match x, a with
  | .num _ m _, .num _ n _ =>
    if m = 0 || n = 0 then x
    else Fv.mul x (Fv.add (.num false 3 (-1)) (Fv.neg (Fv.mul (.num false 1 (-1)) (Fv.mul a (Fv.mul x x)))))
  | _, _ => x

end Sys2Proof.Machine
end

