-- ==== Sys2Proof/Machine/EWords.lean ====
section
/-! DEFINITION. Element words: the E-word fields and forms (R182, R186), the checks that park a context (R183 to R187, R262 to R301), and the header word (R25). -/

namespace Sys2Proof.Machine

/-- The 85 E-word forms of R186; `tagctx` has its two encodings under one form (R285). -/
inductive EOp where
  | vadd | vsub | vmul | vmulh | vmad | vmin | vmax | vabs | vneg | vand
  | vor | vxor | vandn | vshl | vshr | vsra | vcmpeq | vcmplt | vcmple | vsel
  | vsat | vclz | vpopc | vfadd | vfsub | vfmul | vffma | vfmin | vfmax | vfabs
  | vfneg | vfcmpeq | vfcmplt | vfcmple | vfcvt | vfscl | vfclass | vrcpa | vrsqa | vnrr
  | vnrs | vexp2a | vlog2a | vsiga | vsina | vcosa | vlmac | vlcvt | vlqnt | vdot
  | vsumr | vmaxr | vargmax | vazero | vaacc | vaout | vperm | vbcast | vrot | vsplat
  | vext | vins | enop | emit | steer | merge | gate | tagctx | count | drop
  | mark | agseq | agidx | agunf | agsqz | agxpd | agreq | agsto | agvrt | rdsum
  | rdmax | rdcat | rdscan | sywld | syrun
  deriving DecidableEq, Repr

/-- The form of an opcode value (R186); none where it is illegal. -/
def eop? : Nat → Option EOp
  | 0x01 => some .vadd
  | 0x02 => some .vsub
  | 0x03 => some .vmul
  | 0x04 => some .vmulh
  | 0x05 => some .vmad
  | 0x06 => some .vmin
  | 0x07 => some .vmax
  | 0x08 => some .vabs
  | 0x09 => some .vneg
  | 0x0A => some .vand
  | 0x0B => some .vor
  | 0x0C => some .vxor
  | 0x0D => some .vandn
  | 0x0E => some .vshl
  | 0x0F => some .vshr
  | 0x10 => some .vsra
  | 0x11 => some .vcmpeq
  | 0x12 => some .vcmplt
  | 0x13 => some .vcmple
  | 0x14 => some .vsel
  | 0x15 => some .vsat
  | 0x16 => some .vclz
  | 0x17 => some .vpopc
  | 0x18 => some .vfadd
  | 0x19 => some .vfsub
  | 0x1A => some .vfmul
  | 0x1B => some .vffma
  | 0x1C => some .vfmin
  | 0x1D => some .vfmax
  | 0x1E => some .vfabs
  | 0x1F => some .vfneg
  | 0x20 => some .vfcmpeq
  | 0x21 => some .vfcmplt
  | 0x22 => some .vfcmple
  | 0x23 => some .vfcvt
  | 0x24 => some .vfscl
  | 0x25 => some .vfclass
  | 0x26 => some .vrcpa
  | 0x27 => some .vrsqa
  | 0x28 => some .vnrr
  | 0x29 => some .vnrs
  | 0x2A => some .vexp2a
  | 0x2B => some .vlog2a
  | 0x2C => some .vsiga
  | 0x2D => some .vsina
  | 0x2E => some .vcosa
  | 0x2F => some .vlmac
  | 0x30 => some .vlcvt
  | 0x31 => some .vlqnt
  | 0x32 => some .vdot
  | 0x33 => some .vsumr
  | 0x34 => some .vmaxr
  | 0x35 => some .vargmax
  | 0x36 => some .vazero
  | 0x37 => some .vaacc
  | 0x38 => some .vaout
  | 0x39 => some .vperm
  | 0x3A => some .vbcast
  | 0x3B => some .vrot
  | 0x3C => some .vsplat
  | 0x3D => some .vext
  | 0x3E => some .vins
  | 0x3F => some .enop
  | 0x40 => some .emit
  | 0x41 => some .steer
  | 0x42 => some .merge
  | 0x43 => some .gate
  | 0x44 => some .tagctx
  | 0x45 => some .count
  | 0x46 => some .drop
  | 0x47 => some .mark
  | 0x48 => some .agseq
  | 0x49 => some .agidx
  | 0x4A => some .agunf
  | 0x4B => some .agsqz
  | 0x4C => some .agxpd
  | 0x4D => some .agreq
  | 0x4E => some .agsto
  | 0x4F => some .agvrt
  | 0x50 => some .rdsum
  | 0x51 => some .rdmax
  | 0x52 => some .rdcat
  | 0x53 => some .rdscan
  | 0x54 => some .sywld
  | 0x55 => some .syrun
  | _ => none

/-- The fields of an E-word (R182), each as a number. -/
structure EW where
  op : Nat
  d : Nat
  a : Nat
  b : Nat
  t : Nat
  pm : Nat
  mod : Nat
  imm : Nat
  deriving DecidableEq, Repr

/-- The fields of a 32-bit E-word (R182). -/
def ewOf (w : Word) : EW :=
  { op := bitsNat w 31 25, d := bitsNat w 24 21, a := bitsNat w 20 17, b := bitsNat w 16 13, t := bitsNat w 12 9,
    pm := bitsNat w 8 7, mod := bitsNat w 6 5, imm := bitsNat w 4 0 }

/-- The 32-bit word of E-word fields (R182). -/
def ewWord (e : EW) : Word :=
  BitVec.ofNat 32 (e.op % 128 * 2 ^ 25 + e.d % 16 * 2 ^ 21 + e.a % 16 * 2 ^ 17 + e.b % 16 * 2 ^ 13 + e.t % 16 * 2 ^ 9 +
    e.pm % 4 * 2 ^ 7 + e.mod % 4 * 2 ^ 5 + e.imm % 32)

/-- ROLE of a header word (R25). -/
inductive Role where
  | cp | ag | rd | sy
  deriving DecidableEq, Repr

/-- ROLE field (R25). -/
def hRole (h : Word) : Role :=
  match bitsNat h 31 30 with
  | 0 => .cp
  | 1 => .ag
  | 2 => .rd
  | _ => .sy
/-- Replication 1 to 64 (R25). -/
def hRep (h : Word) : Nat := let r := bitsNat h 29 24; if r = 0 then 64 else r
/-- Program length 1 to 8 (R25). -/
def hLen (h : Word) : Nat := let r := bitsNat h 23 21; if r = 0 then 8 else r
/-- Consume count of input port k (R25). -/
def hCi (h : Word) (k : PortId) : Nat := bitsNat h (14 + 2 * k.val) (13 + 2 * k.val)
/-- Produce count of output port k (R25). -/
def hPo (h : Word) (k : PortId) : Nat := bitsNat h (6 + 2 * k.val) (5 + 2 * k.val)
/-- Swap subtype (R25). -/
def hSwsub (h : Word) : Nat := bitsNat h 4 2
/-- Shadow context (R25). -/
def hShadow (h : Word) : CtxId := fin 3 (bitsNat h 1 0)
/-- Every consume count is 0: a source context (R25). -/
def hSource (h : Word) : Bool := bitsNat h 20 13 == 0

/-- Code classes of R183. -/
def isReg (c : Nat) : Bool := c < 8
/-- A port code i0 to i3, or an output code o0 to o3. -/
def isPort (c : Nat) : Bool := 8 ≤ c && c < 12
/-- An accumulator code. -/
def isAcc (c : Nat) : Bool := c == 12 || c == 13
/-- The constant code. -/
def isConst (c : Nat) : Bool := c == 14
/-- Zero as an operand, discard as a destination. -/
def isZero (c : Nat) : Bool := c == 15

/-- An operand of kind v, i, c or zero (R267). -/
def opVICZ (c : Nat) : Bool := isReg c || isPort c || isConst c || isZero c
/-- A destination of kind v, o or discard (R267). -/
def dVOX (c : Nat) : Bool := isReg c || isPort c || isZero c

/-- Formats i8 to n32. -/
def tInt (t : Nat) : Bool := t ≤ 5
/-- Formats f32, bf, hf. -/
def tF3 (t : Nat) : Bool := t == 6 || t == 7 || t == 8
/-- Formats f32, bf, hf, e4, e5. -/
def tF5 (t : Nat) : Bool := 6 ≤ t && t ≤ 10

/-- When A or B is the constant code, IMM5<4:3> must be 0 (R185). -/
def selOk (e : EW) : Bool := if isConst e.a || isConst e.b then e.imm < 8 else true
/-- An operation that uses IMM5 for its own purpose must not use code 14 (R185). -/
def noConst (e : EW) : Bool := !isConst e.a && !isConst e.b

/-- Part selector k of R271 for source lanes ns and destination lanes nd. -/
def partOk (ns nd b : Nat) : Bool :=
  b < 4 && (if ns = nd then b == 0 else b < max ns nd / min ns nd)

/-- A 16-bit dot operand: an even register, a port or zero; an 8-bit one: any register, a port or zero (R275). -/
def dotOpnd (t c : Nat) : Bool := isPort c || isZero c || (isReg c && (laneW t == 8 || c % 2 == 0))

/-- Formats of the systolic words (R299). -/
def tSys (t : Nat) : Bool := t == 0 || t == 1 || t == 2 || tF5 t || t == 11

/-- The word's fields are among those its form lists (R185 to R187 and the tables of R267, R270 to R282, R285, R291, R297, R299). -/
def ewFieldsOk (e : EW) : Bool :=
  match eop? e.op with
  | none => false
  | some o =>
    e.t ≤ 11 &&
    match o with
    | .vadd | .vsub | .vmul => tInt e.t && dVOX e.d && opVICZ e.a && opVICZ e.b && e.mod < 2 && selOk e
    | .vmulh | .vmin | .vmax | .vand | .vor | .vxor | .vandn =>
      tInt e.t && dVOX e.d && opVICZ e.a && opVICZ e.b && e.mod == 0 && selOk e
    | .vmad => tInt e.t && isReg e.d && opVICZ e.a && opVICZ e.b && e.mod < 2 && selOk e
    | .vabs | .vneg => tInt e.t && dVOX e.d && opVICZ e.a && e.b == 15 && e.mod < 2 && selOk e
    | .vshl =>
      tInt e.t && dVOX e.d && opVICZ e.a &&
      (if e.mod / 2 = 1 then e.b == 15 && !isConst e.a && e.imm < laneW e.t else opVICZ e.b && selOk e)
    | .vshr | .vsra =>
      tInt e.t && dVOX e.d && opVICZ e.a && e.mod % 2 == 0 &&
      (if e.mod / 2 = 1 then e.b == 15 && !isConst e.a && e.imm < laneW e.t else opVICZ e.b && selOk e)
    | .vcmpeq | .vcmplt | .vcmple => tInt e.t && e.d < 4 && opVICZ e.a && opVICZ e.b && e.mod == 0 && selOk e
    | .vsel => tInt e.t && dVOX e.d && opVICZ e.a && opVICZ e.b && e.mod == 0 && e.imm < 4 && noConst e
    | .vsat => tInt e.t && dVOX e.d && opVICZ e.a && e.b == 15 && e.mod < 2 && noConst e && e.imm < laneW e.t
    | .vclz | .vpopc => tInt e.t && dVOX e.d && opVICZ e.a && e.b == 15 && e.mod == 0 && selOk e
    | .vfadd | .vfsub | .vfmul => tF3 e.t && dVOX e.d && opVICZ e.a && opVICZ e.b && e.mod < 2 && selOk e
    | .vffma => tF3 e.t && isReg e.d && opVICZ e.a && opVICZ e.b && e.mod < 2 && selOk e
    | .vfmin | .vfmax => tF5 e.t && dVOX e.d && opVICZ e.a && opVICZ e.b && e.mod == 0 && selOk e
    | .vfabs | .vfneg | .vfclass => tF5 e.t && dVOX e.d && opVICZ e.a && e.b == 15 && e.mod == 0 && selOk e
    | .vfcmpeq | .vfcmplt | .vfcmple => tF5 e.t && e.d < 4 && opVICZ e.a && opVICZ e.b && e.mod == 0 && selOk e
    | .vfcvt =>
      e.t ≤ 10 && e.imm % 16 ≤ 10 && dVOX e.d && opVICZ e.a && !isConst e.a &&
      partOk (lanesOf (e.imm % 16)) (lanesOf e.t) e.b
    | .vfscl => tF3 e.t && dVOX e.d && opVICZ e.a && !isConst e.a && e.b == 15 && e.mod < 2
    | .vrcpa | .vrsqa | .vexp2a | .vlog2a | .vsiga | .vsina | .vcosa =>
      tF3 e.t && dVOX e.d && opVICZ e.a && e.b == 15 && e.mod == 0 && selOk e
    | .vnrr | .vnrs => tF3 e.t && dVOX e.d && opVICZ e.a && opVICZ e.b && e.mod == 0 && selOk e
    | .vlmac =>
      e.t == 11 && isAcc e.d && dotOpnd e.t e.a && dotOpnd e.t e.b && e.imm < 8 && e.mod < 2
    | .vdot =>
      (e.t ≤ 3 || e.t == 7 || e.t == 8 || e.t == 9 || e.t == 10) && isAcc e.d && dotOpnd e.t e.a && dotOpnd e.t e.b &&
      e.imm < 8 && e.mod < 2
    | .vlcvt =>
      tF5 e.t && dVOX e.d && opVICZ e.a && !isConst e.a && e.mod == 0 && e.imm % 16 == 0 && partOk 32 (lanesOf e.t) e.b
    | .vlqnt =>
      e.t == 11 && dVOX e.d && opVICZ e.a && !isConst e.a && tF5 e.imm && partOk (lanesOf e.imm) 32 e.b
    | .vsumr =>
      (tInt e.t || tF5 e.t) && opVICZ e.a && !isConst e.a && e.b == 15 &&
      (if isAcc e.d then e.mod % 2 == 0 && e.imm < 8
       else dVOX e.d && e.mod / 2 == 0 && (e.mod == 0 || tInt e.t) && e.imm == 0)
    | .vmaxr | .vargmax =>
      (tInt e.t || tF5 e.t) && opVICZ e.a && !isConst e.a && e.b == 15 && dVOX e.d && e.mod == 0 && e.imm == 0
    | .vazero => e.t == 0 && isAcc e.d && e.a == 15 && e.b == 15 && e.mod == 0 && e.imm == 0
    | .vaacc =>
      (e.t == 4 || e.t == 5 || e.t == 6) && isAcc e.d && (isReg e.a || isPort e.a || isConst e.a || isAcc e.a) &&
      e.b == 15 && e.mod < 2 && selOk e
    | .vaout =>
      (e.t == 4 || e.t == 5 || e.t == 6) && dVOX e.d && isAcc e.a && e.b == 15 &&
      (e.t != 6 || (e.imm == 0 && e.mod % 2 == 0))
    | .vperm => dVOX e.d && opVICZ e.a && opVICZ e.b && e.mod == 0 && selOk e
    | .vbcast | .vrot | .vext =>
      dVOX e.d && opVICZ e.a && !isConst e.a && e.b == 15 && e.mod == 0 && e.imm < lanesOf e.t
    | .vsplat => dVOX e.d && e.a == 15 && e.b == 15 && e.mod == 0 && e.imm < 8
    | .vins => isReg e.d && opVICZ e.a && !isConst e.a && e.b == 15 && e.mod == 0 && e.imm < lanesOf e.t
    | .enop => ewWord e == 0x7FFFE000#32
    | .emit => isPort e.d && opVICZ e.a && e.b == 15 && e.mod == 0 && selOk e
    | .steer =>
      isPort e.d && opVICZ e.a && !isConst e.a && e.b == 15 && e.imm % 4 != e.d - 8
    | .merge =>
      isPort e.d && isPort e.a && isPort e.b && e.a != e.b && e.pm == 0 && e.mod == 0 && e.imm == 0
    | .gate =>
      isPort e.d && opVICZ e.a && (isReg e.b || isPort e.b || isConst e.b) && e.mod < 2 && selOk e
    | .tagctx =>
      isPort e.d &&
      (if e.mod = 0 then opVICZ e.a && !isConst e.a && e.b == 15 && e.imm < 4
       else e.mod == 1 && opVICZ e.a && (isReg e.b || isPort e.b || isConst e.b) && selOk e)
    | .count =>
      isPort e.d && opVICZ e.a && !isConst e.a && e.b == 15 && e.mod == 0 && e.imm % 4 != e.d - 8 && e.imm / 4 % 4 == 0
    | .drop => e.d == 15 && isPort e.a && e.b == 15 && e.pm == 0 && e.imm % 4 == 0
    | .mark =>
      isPort e.d && (isReg e.a || isZero e.a) && e.b == 15 && e.pm == 0 && e.mod == 0 && e.t == 0 &&
      (e.imm == 0 || e.imm == 1 || e.imm == 2 || e.imm == 4 || e.imm == 5)
    | .agseq | .agunf | .agsqz | .agvrt =>
      e.d == 15 && e.a == 15 && e.b == 15 && e.t == 0 && e.mod == 0 && e.imm == 0 && e.pm == 0
    | .agidx => e.d == 15 && (isPort e.a || isReg e.a) && e.b == 15 && e.t == 0 && e.mod == 0 && e.imm == 0
    | .agsto => e.d == 15 && (isPort e.a || isReg e.a) && e.b == 15 && e.t == 0 && e.mod == 0 && e.imm == 0
    | .agxpd => e.d == 15 && isPort e.a && e.b == 15 && e.t == 0 && e.mod == 0 && e.imm == 0 && e.pm == 0
    | .agreq => e.d == 15 && (isPort e.a || isReg e.a) && e.b == 15 && e.t == 0 && e.mod == 0 && e.imm == 0 && e.pm == 0
    | .rdsum =>
      (tInt e.t || tF3 e.t) && dVOX e.d && opVICZ e.a && opVICZ e.b && (e.mod % 2 == 0 || tInt e.t) && selOk e
    | .rdmax => (tInt e.t || tF3 e.t) && dVOX e.d && opVICZ e.a && opVICZ e.b && e.mod == 0 && selOk e
    | .rdcat =>
      dVOX e.d && opVICZ e.a && opVICZ e.b && noConst e && e.mod < 2 &&
      (if e.mod = 1 then isPort e.a && e.imm == 0 else 1 ≤ e.imm && e.imm < lanesOf e.t)
    | .rdscan =>
      (tInt e.t || e.t == 6) && dVOX e.d && opVICZ e.a && !isConst e.a && e.b == 15 && e.imm < 2 &&
      e.mod < 2 && (e.mod == 0 || tInt e.t)
    | .sywld =>
      tSys e.t && e.d == 15 && isPort e.a && e.b == 15 && e.mod == 0 && e.pm == 0 && e.imm == 0
    | .syrun =>
      tSys e.t && isPort e.d && isPort e.a && (isPort e.b || e.b == 15) && e.mod == 0 && e.pm == 0 && e.imm < 8

/-- A steering word (R284). -/
def isSteering (o : EOp) : Bool :=
  match o with
  | .steer | .merge | .gate | .count => true
  | _ => false

/-- A word of the address-generation group (R291). -/
def isAgWord (o : EOp) : Bool :=
  match o with
  | .agseq | .agidx | .agunf | .agsqz | .agxpd | .agreq | .agsto | .agvrt => true
  | _ => false

/-- A word of the reduction group (R297). -/
def isRdWord (o : EOp) : Bool :=
  match o with
  | .rdsum | .rdmax | .rdcat | .rdscan => true
  | _ => false

/-- A systolic word (R298). -/
def isSyWord (o : EOp) : Bool :=
  match o with
  | .sywld | .syrun => true
  | _ => false

/-- A word that makes its context a converting context (R59). -/
def isConverting (o : EOp) : Bool :=
  match o with
  | .vfcvt | .vlcvt | .vlqnt | .vfscl | .agsto => true
  | _ => false

/-- Systolic shape of a format: inputs m, west tokens p, outputs q, weight tokens p·q (R299). -/
def sysShape (t : Nat) : Nat × Nat × Nat :=
  if t = 6 then (8, 1, 2) else if laneW t = 16 then (32, 2, 4) else (32, 1, 8)

/-- Tokens that one execution of a word reads from the port with operand code `c` as operand A or B (R183, R275, R299). -/
def readsOf (e : EW) (o : EOp) (c : Nat) (isA : Bool) : Nat :=
  if !isPort c then 0
  else match o with
    | .vdot => if laneW e.t = 16 then 2 else 1
    | .syrun => if isA then (sysShape e.t).2.1 else 1
    | _ => 1

/-- Tokens that one execution of a word reads from port k. -/
def readsPort (e : EW) (k : Nat) : Nat :=
  match eop? e.op with
  | none => 0
  | some o => (if e.a = 8 + k then readsOf e o e.a true else 0) + (if e.b = 8 + k then readsOf e o e.b false else 0)

/-- Tokens that one execution of a word emits on output k, and for a steering word the most it can. -/
def emitsPort (e : EW) (k : Nat) : Nat :=
  match eop? e.op with
  | none => 0
  | some o =>
    match o with
    | .steer | .count => (if e.d = 8 + k then 1 else 0) + (if e.imm % 4 = k then 1 else 0)
    | .syrun => (if e.d = 8 + k then 1 else 0) + (if e.imm / 4 = 1 ∧ e.imm % 4 = k then (sysShape e.t).2.1 else 0)
    | _ => if e.d = 8 + k then 1 else 0

/-- The words of a program with their forms. -/
def ewsOf (prog : List Word) : List EW := prog.map ewOf

/-- The output ports that a steering word names (R284). -/
def steerPort (e : EW) (k : Nat) : Bool :=
  match eop? e.op with
  | some o => isSteering o && emitsPort e k != 0
  | none => false

/-- Form of a word, `enop` for none. -/
def opOf (e : EW) : EOp := (eop? e.op).getD .enop

/-- The whole program agrees with the header and with the roles (R183, R284, R291, R297, R298). -/
def progOk (h : Word) (prog : List Word) : Bool :=
  let es := ewsOf prog
  let role := hRole h
  es.all ewFieldsOk &&
  -- R183: reads within the consume counts, emissions as the produce counts say
  ((upTo 4).all fun k =>
    let reads := sumList (es.map fun e => readsPort e k)
    let named := sumList (es.map fun e => emitsPort e k)
    let steered := es.any fun e => steerPort e k
    let po := hPo h (fin 3 k)
    (reads ≤ hCi h (fin 3 k)) &&
    (if steered then named ≤ po && named == 1 else named == po)) &&
  -- R284: one steering word at most; merge alone
  (decide ((es.filter fun e => isSteering (opOf e)).length ≤ 1)) &&
  (es.all fun e => opOf e != .merge || hLen h == 1) &&
  -- R291: an AG program ends with its one issuing word; R26: none elsewhere
  (match role with
   | .ag => decide ((es.filter fun e => isAgWord (opOf e)).length = 1) &&
            (match es.getLast? with | some e => isAgWord (opOf e) | none => false)
   | _ => es.all fun e => !isAgWord (opOf e)) &&
  -- R297, R298
  (es.all fun e => !isRdWord (opOf e) || role == .rd) &&
  (es.all fun e => !isSyWord (opOf e) || role == .cp || role == .sy)

/-- The issuing word of an AG program (R291). -/
def issuingWord (prog : List Word) : Option EW :=
  match (ewsOf prog).getLast? with
  | some e => if isAgWord (opOf e) then some e else none
  | none => none

end Sys2Proof.Machine
end

