-- ==== Sys2Proof/Machine/Compute.lean ====
section
/-! DEFINITION. What the compute, token and reduction E-words do within one firing (R262 to R290, R297). Each form has a definition of its own; `execEword` chooses. Words that move data to and from the stores, and the systolic words, are in the stream and systolic files. -/

namespace Sys2Proof.Machine

/-- One token that a firing emits, in order: the output, the token, the context that `tagctx` chose, and whether it leaves a feedback cycle. -/
structure Emission where
  port : PortId
  tok : Token
  ctx : Option CtxId
  exit : Bool
  deriving DecidableEq, Repr

/-- The state of a firing: the context, what its element shares, the tokens consumed and not yet read, and what has been emitted. -/
structure Fire where
  ctx : Ctx
  vct : Vector Half 32
  sc : Vector (BitVec 8) 16
  droptok : Word
  /-- tokens consumed and not yet read, per port -/
  toks : Vector (List Token) 4
  /-- a consumed token carried TAINT -/
  tokTaint : Bool
  /-- an accumulator lane read carried taint -/
  accTaint : Bool
  out : List Emission
  deriving DecidableEq, Repr

/-- An operand as an E-word reads it (R263, R264): its bits, its valid low bits (none: every lane is valid), its block scale and its taint. -/
structure Opn where
  val : Nat
  bits : Option Nat
  scale : BitVec 8
  taint : Bool
  deriving DecidableEq, Repr

/-- An operand that is no token. -/
def Opn.plain (v : Nat) : Opn := ⟨v, none, 127#8, false⟩

/-- Lane i of width w of a 256-bit value (R192). -/
def laneOf (v w i : Nat) : Nat := (v >>> (w * i)) % 2 ^ w

/-- The 256-bit value of lanes of width w, from lane 0 up. -/
def packLanes (w : Nat) : List Nat → Nat
  | [] => 0
  | x :: xs => x % 2 ^ w + 2 ^ w * packLanes w xs

/-- FMT of a VCT entry (R42). -/
def vctFmt (h : Half) : Nat := bitsNat h 3 0
/-- SCR of a VCT entry. -/
def vctScr (h : Half) : Nat := bitsNat h 7 4
/-- SQZ of a VCT entry. -/
def vctSqz (h : Half) : Bool := bitAt h 12

/-- The VCT entry that a token selects (R42). -/
def vctOf (vct : Vector Half 32) (vch : BitVec 5) : Half := vct.get (fin 31 vch.toNat)

/-- Valid low bits of a token under its VCT entry (R38, R263). -/
def tokBits (vct : Vector Half 32) (t : Token) : Nat :=
  let fmt := vctFmt (vctOf vct t.vch)
  (min t.valid.toNat (lanesOf fmt - 1) + 1) * laneW fmt

/-- A token as an operand: lanes above VALID read as zero (R38). -/
def opnOfTok (vct : Vector Half 32) (sc : Vector (BitVec 8) 16) (t : Token) : Opn :=
  let b := tokBits vct t
  { val := t.payload.toNat % 2 ^ b, bits := some b, scale := sc.get (fin 15 (vctScr (vctOf vct t.vch))),
    taint := t.taint }

/-- A constant in every lane of width w (R264). -/
def splatConst (c : Word) (w : Nat) : Nat := packLanes w (List.replicate (256 / w) (c.toNat % 2 ^ w))

/-- Operand(c) of R192, read at lane width w; a port operand takes the next token of its port (R183). -/
def operand (f : Fire) (e : EW) (c w : Nat) : Opn × Fire :=
  if isReg c then (.plain (f.ctx.v.get (fin 7 c)).toNat, f)
  else if isPort c then
    let k := fin 3 (c - 8)
    match f.toks.get k with
    | [] => (.plain 0, f)
    | t :: ts => (opnOfTok f.vct f.sc t, { f with toks := vset f.toks k ts })
  else if isConst c then (.plain (splatConst (f.ctx.c.get (fin 7 e.imm)) w), f)
  else (.plain 0, f)

/-- Lane i of width w of an operand is valid (R263, R264). -/
def Opn.laneOk (o : Opn) (w i : Nat) : Bool :=
  match o.bits with
  | none => true
  | some b => decide ((i + 1) * w ≤ b)

/-- Lane i of width w of an operand: zero where it is not valid (R38). -/
def Opn.lane (o : Opn) (w i : Nat) : Nat := if o.laneOk w i then laneOf o.val w i else 0

/-- How many lanes of width w of an operand are valid. -/
def Opn.count (o : Opn) (w : Nat) : Nat :=
  match o.bits with
  | none => 256 / w
  | some b => b / w

/-- One result lane: computed from valid lanes only, its code, its conversion events, and the flushed input. -/
structure LaneRes where
  valid : Bool
  r : Nat
  ev : Ev
  flush : Bool
  deriving DecidableEq, Repr

/-- A result lane without events. -/
def LaneRes.of (valid : Bool) (r : Nat) : LaneRes := ⟨valid, r, Ev.none, false⟩

/-- Mask bit i of m(PM) (R184). -/
def maskBit (f : Fire) (pm i : Nat) : Bool := (f.ctx.m.get (fin 3 pm)).getLsbD i

/-- Adds events to the seven statistics counters (R59, R106). -/
def statAdd (st : Vector Word 7) (ev : Ev) (flush : Bool) : Vector Word 7 :=
  let up (st : Vector Word 7) (i : Fin 7) (b : Bool) := if b then vmod st i (fun x => satInc x 1) else st
  up (up (up (up (up (up st 0 ev.nan) 1 ev.inf) 2 ev.sat) 3 ev.unf) 4 ev.sub) 5 flush

/-- Counts the events of the active lanes of a converting word (R266). -/
def countLanes (f : Fire) (pm : Nat) : Nat → List LaneRes → Fire
  | _, [] => f
  | i, l :: ls =>
    let f' := if l.valid && maskBit f pm i then
        { f with ctx := { f.ctx with stat := statAdd f.ctx.stat l.ev l.flush } } else f
    countLanes f' pm (i + 1) ls

/-- The BFIRST and SCALE fields of the next data token under Emit, and the block count after it (R43). -/
def blockNext (c7 : Word) (n : Nat) : Bool × BitVec 8 × Nat :=
  let len := bitsNat c7 11 8 + 1
  (n == 0, if n = 0 then field c7 0 8 else 0, if n + 1 ≥ len then 0 else n + 1)

/-- Emit of R192: one data token on output k, with its block fields, its ORD and its TAINT. -/
def emitTok (f : Fire) (k : PortId) (payload : Nat) (valid : Nat) (ctx : Option CtxId) (exit conv : Bool) : Fire :=
  let (bf, scl, n) := blockNext (f.ctx.c.get 7) (f.ctx.blk.get k)
  let t : Token :=
    { marker := false, vch := 0, vchSet := false, sub := 0, taint := f.tokTaint || f.accTaint, sonde := none,
      bfirst := bf, scale := scl, valid := BitVec.ofNat 5 valid, ord := f.ctx.ord.get k, payload := BitVec.ofNat 256 payload }
  let stat := if conv && t.taint then vmod f.ctx.stat 6 (fun x => satInc x 1) else f.ctx.stat
  { f with
    ctx := { f.ctx with ord := vmod f.ctx.ord k (· + 1), blk := vset f.ctx.blk k n, stat := stat }
    out := f.out ++ [⟨k, t, ctx, exit⟩] }

/-- Lanes of a result, active ones with their code and the others from `old` or zero. -/
def mergeLanes (f : Fire) (pm w old : Nat) (keep : Bool) : Nat → List LaneRes → List Nat
  | _, [] => []
  | i, l :: ls =>
    (if l.valid && maskBit f pm i then l.r else if keep then laneOf old w i else 0) :: mergeLanes f pm w old keep (i + 1) ls

/-- The highest valid lane, or 0 (R265). -/
def topValid : Nat → List LaneRes → Nat
  | _, [] => 0
  | i, l :: ls => let r := topValid (i + 1) ls; if r ≠ 0 then r else if l.valid then i else 0

/-- Writes result lanes of width w under R265: a register keeps its other lanes, an output emits one token, discard writes nothing. -/
def writeRes (f : Fire) (e : EW) (w : Nat) (ls : List LaneRes) (conv : Bool) : Fire :=
  let f := if conv then countLanes f e.pm 0 ls else f
  if isReg e.d then
    let k := fin 7 e.d
    let old := (f.ctx.v.get k).toNat
    { f with ctx := { f.ctx with v := vset f.ctx.v k (BitVec.ofNat 256 (packLanes w (mergeLanes f e.pm w old true 0 ls))) } }
  else if isPort e.d then
    emitTok f (fin 3 (e.d - 8)) (packLanes w (mergeLanes f e.pm w 0 false 0 ls)) (topValid 0 ls) none false conv
  else f

/-- Pads result lanes to a whole token: lanes that are not computed are neither valid nor active (R265). -/
def padLanes (w : Nat) (ls : List LaneRes) : List LaneRes :=
  ls ++ List.replicate (256 / w - ls.length) (LaneRes.of false 0)

/-- A lane-wise word of two operands over lanes of width w. -/
def laneWise2 (f : Fire) (e : EW) (w : Nat) (g : Nat → Nat → Nat → Nat) : Fire :=
  let (x, f) := operand f e e.a w
  let (y, f) := operand f e e.b w
  let old := (f.ctx.v.get (fin 7 e.d)).toNat
  writeRes f e w ((upTo (256 / w)).map fun i =>
    LaneRes.of (x.laneOk w i && y.laneOk w i) (g (laneOf old w i) (x.lane w i) (y.lane w i))) false

/-- A lane-wise word of one operand. -/
def laneWise1 (f : Fire) (e : EW) (w : Nat) (g : Nat → Nat) : Fire :=
  let (x, f) := operand f e e.a w
  writeRes f e w ((upTo (256 / w)).map fun i => LaneRes.of (x.laneOk w i) (g (x.lane w i))) false

/-- A lane as an integer of format t (R267). -/
def intLane (t x : Nat) : Int := if isSigned t then signedNat (laneW t) x else (x : Int)

/-- Wrap or clamp of R268. -/
def fitLane (t : Nat) (sat : Bool) (r : Int) : Nat := (narrowInt (laneW t) (isSigned t) sat r).1

/-- vadd, vsub, vmul, vmulh, vmad, vmin, vmax, vabs, vneg: the exact result (R267). -/
def evadd (f : Fire) (e : EW) : Fire :=
  laneWise2 f e (laneW e.t) fun _ x y => fitLane e.t (e.mod % 2 == 1) (intLane e.t x + intLane e.t y)
def evsub (f : Fire) (e : EW) : Fire :=
  laneWise2 f e (laneW e.t) fun _ x y => fitLane e.t (e.mod % 2 == 1) (intLane e.t x - intLane e.t y)
def evmul (f : Fire) (e : EW) : Fire :=
  laneWise2 f e (laneW e.t) fun _ x y => fitLane e.t (e.mod % 2 == 1) (intLane e.t x * intLane e.t y)
def evmulh (f : Fire) (e : EW) : Fire :=
  laneWise2 f e (laneW e.t) fun _ x y => fitLane e.t false ((intLane e.t x * intLane e.t y) / (2 ^ laneW e.t : Nat))
def evmad (f : Fire) (e : EW) : Fire :=
  laneWise2 f e (laneW e.t) fun d x y =>
    fitLane e.t (e.mod % 2 == 1) (intLane e.t d + intLane e.t x * intLane e.t y)
def evmin (f : Fire) (e : EW) : Fire :=
  laneWise2 f e (laneW e.t) fun _ x y => if intLane e.t x ≤ intLane e.t y then x else y
def evmax (f : Fire) (e : EW) : Fire :=
  laneWise2 f e (laneW e.t) fun _ x y => if intLane e.t x ≤ intLane e.t y then y else x
def evabs (f : Fire) (e : EW) : Fire :=
  laneWise1 f e (laneW e.t) fun x => fitLane e.t (e.mod % 2 == 1) (intLane e.t x).natAbs
def evneg (f : Fire) (e : EW) : Fire :=
  laneWise1 f e (laneW e.t) fun x => fitLane e.t (e.mod % 2 == 1) (-(intLane e.t x))

/-- Bitwise forms (R267). -/
def evand (f : Fire) (e : EW) : Fire := laneWise2 f e (laneW e.t) fun _ x y => x &&& y
def evor (f : Fire) (e : EW) : Fire := laneWise2 f e (laneW e.t) fun _ x y => x ||| y
def evxor (f : Fire) (e : EW) : Fire := laneWise2 f e (laneW e.t) fun _ x y => x ^^^ y
def evandn (f : Fire) (e : EW) : Fire :=
  laneWise2 f e (laneW e.t) fun _ x y => x &&& (2 ^ laneW e.t - 1 - y)

/-- A shift: the amount is IMM5 or lane i of B (R269). -/
def shiftWord (f : Fire) (e : EW) (g : Nat → Nat → Nat) : Fire :=
  laneWise2 f e (laneW e.t) fun _ x y => g x (if e.mod / 2 = 1 then e.imm else y)

/-- vshl: an amount of w or more gives 0, or with SAT clamps any non-zero lane (R269). -/
def evshl (f : Fire) (e : EW) : Fire :=
  shiftWord f e fun x s =>
    if e.mod % 2 = 1 then fitLane e.t true (intLane e.t x * (2 ^ (min s (laneW e.t)) : Nat))
    else if laneW e.t ≤ s then 0 else x * 2 ^ s % 2 ^ laneW e.t
def evshr (f : Fire) (e : EW) : Fire := shiftWord f e fun x s => if laneW e.t ≤ s then 0 else x / 2 ^ s
def evsra (f : Fire) (e : EW) : Fire :=
  shiftWord f e fun x s =>
    ((signedNat (laneW e.t) x / (2 ^ min s (laneW e.t) : Nat)) % (2 ^ laneW e.t : Nat)).toNat

/-- A compare: writes mask m(D) (R269). -/
def compareWord (f : Fire) (e : EW) (w : Nat) (g : Nat → Nat → Bool) : Fire :=
  let (x, f) := operand f e e.a w
  let (y, f) := operand f e e.b w
  let k := fin 3 e.d
  let old := f.ctx.m.get k
  let bits := (upTo (256 / w)).map fun i =>
    if x.laneOk w i && y.laneOk w i && maskBit f e.pm i then (if g (x.lane w i) (y.lane w i) then 1 else 0)
    else if old.getLsbD i then 1 else 0
  { f with ctx := { f.ctx with m := vset f.ctx.m k (BitVec.ofNat 32 (packLanes 1 bits)) } }

def evcmpeq (f : Fire) (e : EW) : Fire := compareWord f e (laneW e.t) fun x y => x == y
def evcmplt (f : Fire) (e : EW) : Fire := compareWord f e (laneW e.t) fun x y => decide (intLane e.t x < intLane e.t y)
def evcmple (f : Fire) (e : EW) : Fire := compareWord f e (laneW e.t) fun x y => decide (intLane e.t x ≤ intLane e.t y)

/-- vsel: lane of A when mJ<i> is 1, else of B (R267). -/
def evsel (f : Fire) (e : EW) : Fire :=
  let w := laneW e.t
  let (x, f) := operand f e e.a w
  let (y, f) := operand f e e.b w
  let mj := f.ctx.m.get (fin 3 (e.imm % 4))
  writeRes f e w ((upTo (256 / w)).map fun i =>
    LaneRes.of (x.laneOk w i && y.laneOk w i) (if mj.getLsbD i then x.lane w i else y.lane w i)) false

/-- vsat: clamp to n = IMM5 + 1 bits, signed or unsigned (R267, R268). -/
def evsat (f : Fire) (e : EW) : Fire :=
  let w := laneW e.t
  let n := e.imm + 1
  let lo : Int := if e.mod % 2 = 1 then 0 else -(2 ^ (n - 1) : Nat)
  let hi : Int := if e.mod % 2 = 1 then (2 ^ n : Nat) - 1 else (2 ^ (n - 1) : Nat) - 1
  laneWise1 f e w fun x => ((min (max (intLane e.t x) lo) hi) % (2 ^ w : Nat)).toNat

def evclz (f : Fire) (e : EW) : Fire := laneWise1 f e (laneW e.t) fun x => clzNat (laneW e.t) x
def evpopc (f : Fire) (e : EW) : Fire := laneWise1 f e (laneW e.t) fun x => popNat (laneW e.t) x

/-- The floating format of T, binary32 where T is none. -/
def efmt (t : Nat) : FFmt := (ffmt? t).getD .f32

/-- Lane-wise floating arithmetic with one rounding, nearest even, and saturation as MOD<0> (R270). -/
def floatWord2 (f : Fire) (e : EW) (g : Fv → Fv → Fv → Fv) : Fire :=
  let fm := efmt e.t
  laneWise2 f e (laneW e.t) fun d x y => (fm.round .rne (e.mod % 2 == 1) (g (fm.val d) (fm.val x) (fm.val y))).1

def evfadd (f : Fire) (e : EW) : Fire := floatWord2 f e fun _ x y => Fv.add x y
def evfsub (f : Fire) (e : EW) : Fire := floatWord2 f e fun _ x y => Fv.add x y.neg
def evfmul (f : Fire) (e : EW) : Fire := floatWord2 f e fun _ x y => Fv.mul x y
def evffma (f : Fire) (e : EW) : Fire := floatWord2 f e fun d x y => Fv.add d (Fv.mul x y)
def evfmin (f : Fire) (e : EW) : Fire := floatWord2 f e fun _ x y => Fv.minv x y
def evfmax (f : Fire) (e : EW) : Fire := floatWord2 f e fun _ x y => Fv.maxv x y
/-- The sign operations are copies (R89). -/
def evfabs (f : Fire) (e : EW) : Fire := laneWise1 f e (laneW e.t) fun x => x % 2 ^ (laneW e.t - 1)
def evfneg (f : Fire) (e : EW) : Fire := laneWise1 f e (laneW e.t) fun x => x ^^^ 2 ^ (laneW e.t - 1)
def evfcmpeq (f : Fire) (e : EW) : Fire :=
  compareWord f e (laneW e.t) fun x y => Fv.eq ((efmt e.t).val x) ((efmt e.t).val y)
def evfcmplt (f : Fire) (e : EW) : Fire :=
  compareWord f e (laneW e.t) fun x y => Fv.lt ((efmt e.t).val x) ((efmt e.t).val y)
def evfcmple (f : Fire) (e : EW) : Fire :=
  compareWord f e (laneW e.t) fun x y =>
    Fv.lt ((efmt e.t).val x) ((efmt e.t).val y) || Fv.eq ((efmt e.t).val x) ((efmt e.t).val y)

/-- vfclass: one set bit (R273). -/
def evfclass (f : Fire) (e : EW) : Fire :=
  laneWise1 f e (laneW e.t) fun x =>
    match (efmt e.t).val x with
    | .nan => 64
    | .inf s => if s then 1 else 32
    | .num s m _ => if m = 0 then (if s then 4 else 8) else if s then 2 else 16

/-- The draws of one converting word: one per lane of the destination (R93). Answers the draws in lane order and the state after them. -/
def lfsrDraws : Nat → Word → List Nat × Word
  | 0, s => ([], s)
  | n + 1, s => let s' := lfsrNext s
                let (ds, t) := lfsrDraws n s'
                (s'.toNat % 65536 :: ds, t)

/-- The conversion loop of R271 from format S to format T with rounding mode rm, shared by vfcvt, vlcvt and vlqnt (R279, R280). -/
def convertWord (f : Fire) (e : EW) (src dst rm : Nat) (sat : Bool) : Fire :=
  let ns := lanesOf src
  let nd := lanesOf dst
  let k := e.b % 4
  let (x, f) := operand f e e.a (laneW src)
  let (draws, s') := if rm = 3 then lfsrDraws nd f.ctx.lfsr else ([], f.ctx.lfsr)
  let f := { f with ctx := { f.ctx with lfsr := s' } }
  writeRes f e (laneW dst) ((upTo nd).map fun i =>
    let j : Option Nat := if nd ≤ ns then some (k * nd + i)
      else if k * ns ≤ i ∧ i < k * ns + ns then some (i - k * ns) else none
    match j with
    | none => LaneRes.of false 0
    | some j =>
      let c := x.lane (laneW src) j
      let v := if isIntFmt src then valOf src c else (valOf src c).scale x.scale
      let (r, ev) := cvtTo dst (rmOf rm (nth 0 draws i)) sat v
      ⟨x.laneOk (laneW src) j, r, ev, isSubCode src c⟩) true

/-- vfcvt (R271). -/
def evfcvt (f : Fire) (e : EW) : Fire := convertWord f e (e.imm % 16) e.t e.mod (e.imm / 16 == 1)
/-- vlcvt (R279). -/
def evlcvt (f : Fire) (e : EW) : Fire := convertWord f e 11 e.t 0 (e.imm / 16 == 1)
/-- vlqnt (R280). -/
def evlqnt (f : Fire) (e : EW) : Fire := convertWord f e (e.imm % 16) 11 e.mod false

/-- vfscl: multiplies by a scale register, or divides with INV; one rounding (R272). -/
def evfscl (f : Fire) (e : EW) : Fire :=
  let w := laneW e.t
  let fm := efmt e.t
  let (x, f) := operand f e e.a w
  let E := f.sc.get (fin 15 (e.imm % 16))
  writeRes f e w ((upTo (256 / w)).map fun i =>
    let c := x.lane w i
    let v : Fv := match e8Exp E with
      | none => .nan
      | some k => match fm.val c with
        | .num s m ex => .num s m (if e.mod % 2 = 1 then ex - k else ex + k)
        | v => v
    let (r, ev) := fm.round .rne (e.imm / 16 == 1) v
    ⟨x.laneOk w i, r, ev, isSubCode e.t c⟩) true

/-- An approximation (R274). -/
def approxWord (f : Fire) (e : EW) (g : Fv → Fv) : Fire :=
  laneWise1 f e (laneW e.t) fun x => apxRound (efmt e.t) (g ((efmt e.t).val x))

def evrcpa (f : Fire) (e : EW) : Fire := approxWord f e apxRcp
def evrsqa (f : Fire) (e : EW) : Fire := approxWord f e apxRsq
def evexp2a (f : Fire) (e : EW) : Fire := approxWord f e apxExp2
def evlog2a (f : Fire) (e : EW) : Fire := approxWord f e apxLog2
def evsiga (f : Fire) (e : EW) : Fire := approxWord f e apxSig
def evsina (f : Fire) (e : EW) : Fire := approxWord f e apxSina
def evcosa (f : Fire) (e : EW) : Fire := approxWord f e apxCosa

/-- A refinement: one rounding of the exact expression (R105); the iterate passed through keeps its value as read. -/
def refineWord (f : Fire) (e : EW) (g : Fv → Fv → Fv) : Fire :=
  let fm := efmt e.t
  laneWise2 f e (laneW e.t) fun _ x a => fm.roundA (g (fm.val x) (fm.val a))

def evnrr (f : Fire) (e : EW) : Fire := refineWord f e refineRcp
def evnrs (f : Fire) (e : EW) : Fire := refineWord f e refineRsq

/-- Accumulator k of a code 12 or 13. -/
def accIdx (c : Nat) : Fin 2 := fin 1 (c - 12)

/-- Lane j of an accumulator. -/
def accLane (f : Fire) (k : Fin 2) (j : Fin 8) : DWord := (f.ctx.acc.get k).get j

/-- A firing that reads lane j of an accumulator emits its taint with what it emits from then on (R192). -/
def readAcc (f : Fire) (k : Fin 2) (j : Fin 8) : Fire := { f with accTaint := f.accTaint || (f.ctx.accTaint.get k).getLsbD j.val }

/-- Writes lane j of an accumulator and sets its taint bit when `t` (R265, R100). -/
def setAcc (f : Fire) (k : Fin 2) (j : Fin 8) (x : DWord) (t : Bool) : Fire :=
  { f with ctx := { f.ctx with
      acc := vmod f.ctx.acc k (fun v => vset v j x)
      accTaint := if t then vmod f.ctx.accTaint k (fun b => putBit b j.val true) else f.ctx.accTaint } }

/-- A 32-lane dot operand: from one token, two tokens, a register pair or zero (R275). -/
def dotOperand (f : Fire) (e : EW) (c : Nat) : (Nat → Nat) × (Nat → Bool) × BitVec 8 × Bool × Fire :=
  let w := laneW e.t
  if w = 8 then
    let (x, f) := operand f e c 8
    (x.lane 8, x.laneOk 8, x.scale, x.taint, f)
  else if isPort c then
    let (x, f) := operand f e c 16
    let (y, f) := operand f e c 16
    (fun i => if i < 16 then x.lane 16 i else y.lane 16 (i - 16),
     fun i => if i < 16 then x.laneOk 16 i else y.laneOk 16 (i - 16), y.scale, x.taint || y.taint, f)
  else if isReg c then
    let x := (f.ctx.v.get (fin 7 c)).toNat
    let y := (f.ctx.v.get (fin 7 (c + 1))).toNat
    (fun i => if i < 16 then laneOf x 16 i else laneOf y 16 (i - 16), fun _ => true, 127#8, false, f)
  else (fun _ => 0, fun _ => true, 127#8, false, f)

/-- Sum of integer products over the active pairs. -/
def dotInt (t : Nat) (pairs : List (Nat × Nat)) : Int :=
  match pairs with
  | [] => 0
  | (a, b) :: r => intLane t a * intLane t b + dotInt t r

/-- Sum of l6 products in units of 2^-18 (R97), wrapping modulo 2^64. -/
def dotL6 : List (Nat × Nat) → Int
  | [] => 0
  | (a, b) :: r => l6Prod a b + dotL6 r

/-- The block result as an exact value before its rounding (R101): products summed exactly, times both scales. -/
def blockValue (t : Nat) (sA sB : BitVec 8) (pairs : List (Nat × Nat)) : Fv :=
  let s : Fv := if t = 11 then
      let k := signedNat 64 ((dotL6 pairs) % (2 ^ 64 : Nat)).toNat
      .num (decide (k < 0)) k.natAbs (-18)
    else Fv.sum (pairs.map fun p => Fv.mul (valOf t p.1) (valOf t p.2))
  (s.scale sA).scale sB

/-- Adds the f32 code r into lane j, or sets it (R276). -/
def accAddF32 (f : Fire) (k : Fin 2) (j : Fin 8) (set : Bool) (r : Nat) (t : Bool) : Fire :=
  let old := (accLane f k j).toNat % 2 ^ 32
  let x := if set then r else FFmt.f32.roundA (Fv.add (FFmt.f32.val old) (FFmt.f32.val r))
  setAcc (if set then f else readAcc f k j) k j (BitVec.ofNat 64 x) t

/-- Adds an integer into lane j modulo 2^64, or sets it (R276). -/
def accAddInt (f : Fire) (k : Fin 2) (j : Fin 8) (set : Bool) (x : Int) (t : Bool) : Fire :=
  setAcc (if set then f else readAcc f k j) k j (if set then BitVec.ofInt 64 x else accLane f k j + BitVec.ofInt 64 x) t

/-- vdot and vlmac (R275, R276). -/
def dotWord (f : Fire) (e : EW) : Fire :=
  let (xa, va, sA, ta, f) := dotOperand f e e.a
  let (xb, vb, sB, tb, f) := dotOperand f e e.b
  let act := (upTo 32).filter fun i => va i && vb i && maskBit f e.pm i
  let pairs := act.map fun i => (xa i, xb i)
  let k := accIdx e.d
  let j := fin 7 e.imm
  let set := e.mod % 2 == 1
  if isIntFmt e.t then accAddInt f k j set (dotInt e.t pairs) (ta || tb)
  else accAddF32 f k j set (FFmt.f32.roundA (blockValue e.t sA sB pairs)) (ta || tb)

def evdot (f : Fire) (e : EW) : Fire := dotWord f e
def evlmac (f : Fire) (e : EW) : Fire := dotWord f e

/-- Lanes of A that are valid and enabled, with their indices. -/
def activeLanes (f : Fire) (e : EW) (x : Opn) (w : Nat) : List (Nat × Nat) :=
  ((upTo (256 / w)).filter fun i => x.laneOk w i && maskBit f e.pm i).map fun i => (i, x.lane w i)

/-- A result in lane 0 alone (R277): valid, so a token has VALID 0. -/
def writeLane0 (f : Fire) (e : EW) (w r : Nat) : Fire :=
  if isReg e.d then
    let k := fin 7 e.d
    { f with ctx := { f.ctx with v := vmod f.ctx.v k (fun v => putField v 0 (BitVec.ofNat w r)) } }
  else if isPort e.d then emitTok f (fin 3 (e.d - 8)) (r % 2 ^ w) 0 none false false
  else f

/-- vsumr (R277). -/
def evsumr (f : Fire) (e : EW) : Fire :=
  let w := laneW e.t
  let (x, f) := operand f e e.a w
  let ls := activeLanes f e x w
  if isIntFmt e.t then
    let s : Int := ls.foldr (fun p a => intLane e.t p.2 + a) 0
    if isAcc e.d then accAddInt f (accIdx e.d) (fin 7 e.imm) (e.mod / 2 == 1) s x.taint
    else writeLane0 f e w (fitLane e.t (e.mod % 2 == 1) s)
  else
    let v := Fv.sum (ls.map fun p => valOf e.t p.2)
    if isAcc e.d then accAddF32 f (accIdx e.d) (fin 7 e.imm) (e.mod / 2 == 1) (FFmt.f32.roundA v) x.taint
    else writeLane0 f e w ((efmt e.t).roundA v)

/-- The lowest value of a format: the value of `vmaxr` with no active lane (R277). -/
def lowestOf (t : Nat) : Nat :=
  if isIntFmt t then (if isSigned t then 2 ^ (laneW t - 1) else 0)
  else if t = 9 then 0xFE else (efmt t).signBit true + (efmt t).infCode

/-- Lane x is greater than lane y in format t; a float that is NaN is never greater (R277). -/
def laneGt (t x y : Nat) : Bool :=
  if isIntFmt t then decide (intLane t y < intLane t x)
  else
    let a := valOf t x
    let b := valOf t y
    !a.isNan && (b.isNan || Fv.lt b a || (a.isZero && b.isZero && b.sgn && !a.sgn))

/-- The first lane, in ascending order, that holds the greatest value. -/
def bestLane (t : Nat) : Nat × Nat → List (Nat × Nat) → Nat × Nat
  | best, [] => best
  | best, p :: ps => bestLane t (if laneGt t p.2 best.2 then p else best) ps

/-- vmaxr: the greatest active lane, arithmetic for floats, so a subnormal reads as zero (R277, R89, R90). -/
def evmaxr (f : Fire) (e : EW) : Fire :=
  let w := laneW e.t
  let (x, f) := operand f e e.a w
  match activeLanes f e x w with
  | [] => writeLane0 f e w (lowestOf e.t)
  | p :: ps =>
    let r := (bestLane e.t p ps).2
    writeLane0 f e w (if isIntFmt e.t then r else (efmt e.t).roundA (valOf e.t r))

/-- vargmax (R277). -/
def evargmax (f : Fire) (e : EW) : Fire :=
  let w := laneW e.t
  let (x, f) := operand f e e.a w
  match activeLanes f e x w with
  | [] => writeLane0 f e w (2 ^ w - 1)
  | p :: ps => writeLane0 f e w (bestLane e.t p ps).1

/-- vazero (R278). -/
def evazero (f : Fire) (e : EW) : Fire :=
  let k := accIdx e.d
  (upTo 8).foldl (fun f i => if maskBit f e.pm i then
    { f with ctx := { f.ctx with
        acc := vmod f.ctx.acc k (fun v => vset v (fin 7 i) 0)
        accTaint := vmod f.ctx.accTaint k (fun b => putBit b i false) } } else f) f

/-- vaacc (R278). Every lane it writes is tainted when a token that the word reads carries TAINT, or a lane of either accumulator that it reads is tainted (R265). -/
def evaacc (f : Fire) (e : EW) : Fire :=
  let k := accIdx e.d
  let set := e.mod % 2 == 1
  let src : Vector DWord 8 := f.ctx.acc.get (accIdx e.a)
  let srcT := f.ctx.accTaint.get (accIdx e.a)
  let (x, f) := if isAcc e.a then (Opn.plain 0, f) else operand f e e.a 32
  let read : List Nat := (upTo 8).filter fun i => maskBit f e.pm i
  let f := if isAcc e.a then read.foldl (fun f i => readAcc f (accIdx e.a) (fin 7 i)) f else f
  let t := x.taint || read.any fun i => (isAcc e.a && srcT.getLsbD i) || (!set && (f.ctx.accTaint.get k).getLsbD i)
  (upTo 8).foldl (fun f i =>
    if !maskBit f e.pm i then f
    else
      let j := fin 7 i
      let y : DWord := if isAcc e.a then src.get j
        else if e.t = 4 then BitVec.ofInt 64 (signedNat 32 (x.lane 32 i)) else BitVec.ofNat 64 (x.lane 32 i)
      if e.t = 6 then accAddF32 f k j set (y.toNat % 2 ^ 32) t
      else setAcc (if set then f else readAcc f k j) k j (if set then y else accLane f k j + y) t) f

/-- vaout (R278). -/
def evaout (f : Fire) (e : EW) : Fire :=
  let k := accIdx e.a
  let f := { f with accTaint := f.accTaint || (f.ctx.accTaint.get k) != 0 }
  let ls := (upTo 8).map fun i =>
    let a := accLane f k (fin 7 i)
    LaneRes.of true (if e.t = 6 then a.toNat % 2 ^ 32
      else (narrowInt 32 (e.t == 4) (e.mod % 2 == 1) (a.toInt / (2 ^ e.imm : Nat))).1)
  let f' := writeRes f e 32 ls false
  if e.mod / 2 = 1 then
    (upTo 8).foldl (fun f i => if maskBit f e.pm i then
      { f with ctx := { f.ctx with acc := vmod f.ctx.acc k (fun v => vset v (fin 7 i) 0) } } else f) f'
  else f'

/-- vperm (R281). -/
def evperm (f : Fire) (e : EW) : Fire :=
  let w := laneW e.t
  let n := 256 / w
  let (x, f) := operand f e e.a w
  let (y, f) := operand f e e.b w
  writeRes f e w ((upTo n).map fun i =>
    let p := y.lane w i
    if n ≤ p then LaneRes.of (y.laneOk w i) 0 else LaneRes.of (y.laneOk w i && x.laneOk w p) (x.lane w p)) false

/-- vbcast (R281). -/
def evbcast (f : Fire) (e : EW) : Fire :=
  let w := laneW e.t
  let (x, f) := operand f e e.a w
  writeRes f e w ((upTo (256 / w)).map fun _ => LaneRes.of (x.laneOk w e.imm) (x.lane w e.imm)) false

/-- vrot: lane (i + k) mod n takes lane i of A (R281). -/
def evrot (f : Fire) (e : EW) : Fire :=
  let w := laneW e.t
  let n := 256 / w
  let (x, f) := operand f e e.a w
  writeRes f e w ((upTo n).map fun i =>
    let j := (i + n - e.imm) % n
    LaneRes.of (x.laneOk w j) (x.lane w j)) false

/-- vsplat (R281). -/
def evsplat (f : Fire) (e : EW) : Fire :=
  let w := laneW e.t
  let c := (f.ctx.c.get (fin 7 e.imm)).toNat % 2 ^ w
  writeRes f e w ((upTo (256 / w)).map fun _ => LaneRes.of true c) false

/-- vext: only lane 0 is computed (R281). -/
def evext (f : Fire) (e : EW) : Fire :=
  let w := laneW e.t
  let (x, f) := operand f e e.a w
  writeRes f e w (padLanes w [LaneRes.of (x.laneOk w e.imm) (x.lane w e.imm)]) false

/-- vins: only lane k is computed (R281). -/
def evins (f : Fire) (e : EW) : Fire :=
  let w := laneW e.t
  let (x, f) := operand f e e.a w
  writeRes f e w ((upTo (256 / w)).map fun i =>
    if i = e.imm then LaneRes.of (x.laneOk w 0) (x.lane w 0) else LaneRes.of false 0) false

/-- The copy y of R286: active lanes of A, and VALID under R265. -/
def copyLanes (f : Fire) (e : EW) (x : Opn) : Nat × Nat :=
  let w := laneW e.t
  let ls := (upTo (256 / w)).map fun i => LaneRes.of (x.laneOk w i) (x.lane w i)
  (packLanes w (mergeLanes f e.pm w 0 false 0 ls), topValid 0 ls)

/-- emit (R286). -/
def eemit (f : Fire) (e : EW) : Fire :=
  let (x, f) := operand f e e.a (laneW e.t)
  let (y, v) := copyLanes f e x
  emitTok f (fin 3 (e.d - 8)) y v none false false

/-- tagctx (R286). -/
def etagctx (f : Fire) (e : EW) : Fire :=
  let (x, f) := operand f e e.a (laneW e.t)
  let (b, f) := if e.mod % 2 = 0 then (Opn.plain e.imm, f) else operand f e e.b (laneW e.t)
  let (y, v) := copyLanes f e x
  emitTok f (fin 3 (e.d - 8)) y v (some (fin 3 ((if e.mod % 2 = 0 then e.imm else b.lane (laneW e.t) 0) % 4))) false false

/-- gate (R286). -/
def egate (f : Fire) (e : EW) : Fire :=
  let (x, f) := operand f e e.a (laneW e.t)
  let (b, f) := operand f e e.b (laneW e.t)
  let g := b.lane (laneW e.t) 0 != 0
  if g != (e.mod % 2 == 1) then
    let (y, v) := copyLanes f e x
    emitTok f (fin 3 (e.d - 8)) y v none false false
  else f

/-- The condition of R287 over mask mJ and the valid lanes of A. -/
def steerCond (mod : Nat) (m : Word) (x : Opn) (w : Nat) : Bool :=
  let vs := (upTo (256 / w)).filter fun i => x.laneOk w i
  match mod % 4 with
  | 0 => vs.all fun i => m.getLsbD i
  | 1 => vs.any fun i => m.getLsbD i
  | 2 => vs.all fun i => !m.getLsbD i
  | _ => m.getLsbD 0

/-- steer (R287). -/
def esteer (f : Fire) (e : EW) : Fire :=
  let (x, f) := operand f e e.a (laneW e.t)
  let (y, v) := copyLanes f e x
  if steerCond e.mod (f.ctx.m.get (fin 3 (e.imm / 4 % 4))) x (laneW e.t)
  then emitTok f (fin 3 (e.d - 8)) y v none (e.imm / 16 == 1) false
  else emitTok f (fin 3 (e.imm % 4)) y v none false false

/-- count: its counter is c3 (R287). -/
def ecount (f : Fire) (e : EW) : Fire :=
  let (x, f) := operand f e e.a (laneW e.t)
  let (y, v) := copyLanes f e x
  let c3 := f.ctx.c.get 3
  let C := bitsNat c3 15 0
  let N := if bitsNat c3 31 16 = 0 then 65536 else bitsNat c3 31 16
  let hit := decide (N ≤ C + 1)
  let f := { f with ctx := { f.ctx with c := vset f.ctx.c 3 (putField c3 0 (BitVec.ofNat 16 (if hit then 0 else C + 1))) } }
  if hit then emitTok f (fin 3 (e.d - 8)) y v none (e.imm / 16 == 1) false
  else emitTok f (fin 3 (e.imm % 4)) y v none false false

/-- drop: discards the token it reads; CNT counts it when the condition holds (R289). -/
def edrop (f : Fire) (e : EW) : Fire :=
  let (x, f) := operand f e e.a (laneW e.t)
  if e.imm / 16 = 1 && steerCond e.mod (f.ctx.m.get (fin 3 (e.imm / 4 % 4))) x (laneW e.t)
  then { f with droptok := satInc f.droptok 1 } else f

/-- mark: one marker token; wave start and EOS restart the block count (R290). -/
def emark (f : Fire) (e : EW) : Fire :=
  let (x, f) := operand f e e.a 8
  let k := fin 3 (e.d - 8)
  let t := { markerToken (BitVec.ofNat 4 e.imm) (BitVec.ofNat 256 (x.val % 2 ^ 128)) with
    ord := f.ctx.ord.get k, taint := f.tokTaint || f.accTaint }
  { f with
    ctx := { f.ctx with ord := vmod f.ctx.ord k (· + 1)
                        blk := if e.imm = 0 ∨ e.imm = 2 then vset f.ctx.blk k 0 else f.ctx.blk
                        deal := vset f.ctx.deal k 0 }
    out := f.out ++ [⟨k, t, none, false⟩] }

/-- Result lanes of a reduction word: valid when valid in A or in B (R297). -/
def reduceWord (f : Fire) (e : EW) (g : Nat → Bool → Nat → Bool → Nat → Nat) : Fire :=
  let w := laneW e.t
  let (x, f) := operand f e e.a w
  let (y, f) := operand f e e.b w
  writeRes f e w ((upTo (256 / w)).map fun i =>
    LaneRes.of (x.laneOk w i || y.laneOk w i) (g i (x.laneOk w i) (x.lane w i) (y.laneOk w i) (y.lane w i))) false

/-- rdsum: an invalid lane reads as 0; KEEP copies the highest lane from A (R297). -/
def erdsum (f : Fire) (e : EW) : Fire :=
  reduceWord f e fun i va x vb y =>
    if e.mod / 2 = 1 ∧ i = lanesOf e.t - 1 then x
    else
      let x := if va then x else 0
      let y := if vb then y else 0
      if isIntFmt e.t then fitLane e.t (e.mod % 2 == 1) (intLane e.t x + intLane e.t y)
      else (efmt e.t).roundA (Fv.add ((efmt e.t).val x) ((efmt e.t).val y))

/-- rdmax: a lane that is valid in one operand alone gives that lane, read as arithmetic reads it (R89, R90, R297). -/
def erdmax (f : Fire) (e : EW) : Fire :=
  let lone (x : Nat) : Nat := if isIntFmt e.t then x else (efmt e.t).roundA ((efmt e.t).val x)
  reduceWord f e fun _ va x vb y =>
    if !va then lone y else if !vb then lone x
    else if isIntFmt e.t then (if intLane e.t x ≤ intLane e.t y then y else x)
    else (efmt e.t).roundA (Fv.maxv ((efmt e.t).val x) ((efmt e.t).val y))

/-- rdcat, with a static k or packed above the valid lanes of A, both counted in lanes of T (R263, R297). -/
def erdcat (f : Fire) (e : EW) : Fire :=
  let w := laneW e.t
  let n := 256 / w
  let (x, f) := operand f e e.a w
  let (y, f) := operand f e e.b w
  if e.mod = 1 then
    let k := x.count w
    let all := k + y.count w
    let f := if n < all then { f with droptok := satInc f.droptok 1 } else f
    writeRes f e w ((upTo n).map fun i =>
      LaneRes.of (decide (i < all)) (if i < k then x.lane w i else y.lane w (i - k))) false
  else
    writeRes f e w ((upTo n).map fun i =>
      if i < e.imm then LaneRes.of (x.laneOk w i) (x.lane w i)
      else LaneRes.of (y.laneOk w (i - e.imm)) (y.lane w (i - e.imm))) false

/-- Integer prefix sums of rdscan. -/
def scanInt (t : Nat) (sat : Bool) (carry : Int) : Int → List (Bool × Bool × Nat) → List LaneRes × Int
  | s, [] => ([], s)
  | s, (v, on, x) :: r =>
    let s' := if v && on then s + intLane t x else s
    let (ls, z) := scanInt t sat carry s' r
    (LaneRes.of v (fitLane t sat (carry + s')) :: ls, z)

/-- f32 prefix sums of rdscan. -/
def scanF32 : Nat → List (Bool × Bool × Nat) → List LaneRes × Nat
  | s, [] => ([], s)
  | s, (v, on, x) :: r =>
    let s' := if v && on then FFmt.f32.roundA (Fv.add (FFmt.f32.val s) (FFmt.f32.val x)) else s
    let (ls, z) := scanF32 s' r
    (LaneRes.of v s' :: ls, z)

/-- rdscan: its carry is lane 0 of aJ, J being IMM5<0> (R297). -/
def erdscan (f : Fire) (e : EW) : Fire :=
  let w := laneW e.t
  let k : Fin 2 := fin 1 (e.imm % 2)
  let (x, f) := operand f e e.a w
  let f := { f with accTaint := f.accTaint || (f.ctx.accTaint.get k).getLsbD 0 }
  let lanes := (upTo (256 / w)).map fun i => (x.laneOk w i, maskBit f e.pm i, x.lane w i)
  let c := accLane f k 0
  if isIntFmt e.t then
    let (ls, s) := scanInt e.t (e.mod % 2 == 1) c.toInt 0 lanes
    let f := writeRes f e w ls false
    setAcc f k 0 (c + BitVec.ofInt 64 s) x.taint
  else
    let (ls, s) := scanF32 (c.toNat % 2 ^ 32) lanes
    let f := writeRes f e w ls false
    setAcc f k 0 (BitVec.ofNat 64 s) x.taint

/-- One E-word of a firing (R262), but for the words that the stream, merge and systolic operations execute themselves. -/
def execEword (f : Fire) (e : EW) : Fire :=
  match opOf e with
  | .vadd => evadd f e | .vsub => evsub f e | .vmul => evmul f e | .vmulh => evmulh f e | .vmad => evmad f e
  | .vmin => evmin f e | .vmax => evmax f e | .vabs => evabs f e | .vneg => evneg f e
  | .vand => evand f e | .vor => evor f e | .vxor => evxor f e | .vandn => evandn f e
  | .vshl => evshl f e | .vshr => evshr f e | .vsra => evsra f e
  | .vcmpeq => evcmpeq f e | .vcmplt => evcmplt f e | .vcmple => evcmple f e
  | .vsel => evsel f e | .vsat => evsat f e | .vclz => evclz f e | .vpopc => evpopc f e
  | .vfadd => evfadd f e | .vfsub => evfsub f e | .vfmul => evfmul f e | .vffma => evffma f e
  | .vfmin => evfmin f e | .vfmax => evfmax f e | .vfabs => evfabs f e | .vfneg => evfneg f e
  | .vfcmpeq => evfcmpeq f e | .vfcmplt => evfcmplt f e | .vfcmple => evfcmple f e
  | .vfcvt => evfcvt f e | .vfscl => evfscl f e | .vfclass => evfclass f e
  | .vrcpa => evrcpa f e | .vrsqa => evrsqa f e | .vnrr => evnrr f e | .vnrs => evnrs f e
  | .vexp2a => evexp2a f e | .vlog2a => evlog2a f e | .vsiga => evsiga f e | .vsina => evsina f e | .vcosa => evcosa f e
  | .vlmac => evlmac f e | .vlcvt => evlcvt f e | .vlqnt => evlqnt f e
  | .vdot => evdot f e | .vsumr => evsumr f e | .vmaxr => evmaxr f e | .vargmax => evargmax f e
  | .vazero => evazero f e | .vaacc => evaacc f e | .vaout => evaout f e
  | .vperm => evperm f e | .vbcast => evbcast f e | .vrot => evrot f e | .vsplat => evsplat f e
  | .vext => evext f e | .vins => evins f e | .enop => f
  | .emit => eemit f e | .steer => esteer f e | .gate => egate f e | .tagctx => etagctx f e | .count => ecount f e
  | .drop => edrop f e | .mark => emark f e
  | .rdsum => erdsum f e | .rdmax => erdmax f e | .rdcat => erdcat f e | .rdscan => erdscan f e
  | .merge | .agseq | .agidx | .agunf | .agsqz | .agxpd | .agreq | .agsto | .agvrt | .sywld | .syrun => f

/-- The E-words of a firing in order (R27). -/
def execEwords (f : Fire) : List EW → Fire
  | [] => f
  | e :: es => execEwords (execEword f e) es

end Sys2Proof.Machine
end

