-- ==== Sys2Proof/Config.lean ====
section
/-! DEFINITION. The free values: what the spec leaves open is a constant here without a body, so no proof can see it. A value that may differ each time is a function of the counter State.fresh (assumption log 5). -/

namespace Sys2Proof.Config

/-- Cycles that a near-store access waits for its bank; used modulo 5 (R108, R204). -/
opaque bankWait : Nat → Nat
/-- Cycles that a vertical access waits for its port; used modulo 4 (R113, R204). -/
opaque portWait : Nat → Nat
/-- Cycles that an element-window access waits for a firing to complete; used modulo 9 (R204). -/
opaque windowWait : Nat → Nat
/-- Cycles until the data of a device access returns (R204). -/
opaque deviceWait : Nat → Nat
/-- Cycles of a kind that the spec bounds nowhere: a fence, a message's wait, a page walk's memory reads. -/
opaque otherWait : Nat → Nat
/-- The entry that a full TLB gives up, used modulo its size (R374). -/
opaque tlbVictim : Nat → Nat
/-- What a read of a device register returns where the spec describes the register's place and no content. -/
opaque deviceRead : Nat → BitVec 64
/-- Byte i of SHA3-256 of the RSA device identity public key (R429, R431). -/
opaque idrh : Nat → Byte
/-- Byte i of SHA3-256 of the SLH-DSA device identity public key. -/
opaque idsh : Nat → Byte
/-- Byte i of the fused hash of Yagrim's RSA firmware key. -/
opaque fwrh : Nat → Byte
/-- Byte i of the fused hash of Yagrim's SLH-DSA firmware key. -/
opaque fwsh : Nat → Byte
/-- Verification of an RSASSA-PSS signature: modulus, exponent, message, signature (R430). -/
opaque rsaVerify : List Byte → List Byte → List Byte → List Byte → Bool
/-- Verification of an SLH-DSA signature: key, message, signature (R430). -/
opaque slhVerify : List Byte → List Byte → List Byte → Bool
/-- Byte i of the RSASSA-PSS signature that Grivi makes of a report; the salt makes it differ each time (R431). -/
opaque rsaSign : Nat → List Byte → Nat → Byte
/-- Byte i of the SLH-DSA signature that Grivi makes of a report (R431). -/
opaque slhSign : Nat → List Byte → Nat → Byte
/-- Whether the uncorrectable line of the Keano cores' last-level cache was dirty (R403). -/
opaque cacheDirty : Nat → Bool
/-- The engine, by sender identifier, whose kick register a register address of the engine pages is; none for a mailbox (R149, R347). -/
opaque kickEngine : Nat → Option Nat
/-- The register address of HOSTPART (R349). -/
opaque hostpartAddr : Nat
/-- The register address of the window register of a BAR 2 window (R349). -/
opaque bar2Addr : Nat → Nat
/-- Which of the codes 2 to 4 bring-up stops with for a kind of image without a valid copy; used modulo 3 (R428). -/
opaque bootCode : Nat → Nat
/-- By how much a droop lengthens a count of cycles; used modulo one more than half of it (R422). -/
opaque stretch : Nat → Nat
/-- Cycles that a clock-gated column takes to wake for what arrives; used modulo 9 (R421). -/
opaque ungate : Nat → Nat
/-- How long what a unit may do, and the spec sets no time for, is left undone at most: it is done in the next cycle whose number is a multiple of one more than this (R31, assumption log 100). -/
opaque patience : Nat → Nat

end Sys2Proof.Config
end

