-- ==== Sys2Proof/Machine/Ops.lean ====
section
/-! DEFINITION. The named operations over the state: reading and replacing its parts, byte stores, registers, messages that a node queues for itself, and taking a fault or entering and leaving supervisor mode. -/

namespace Sys2Proof.Machine

/-- What a step answers. -/
abbrev Out := Host.Outcome State Fault Refusal

/-! Parts of the state. -/

/-- A column. -/
def State.col (s : State) (c : ColId) : Column := s.cols.get c
/-- The state with a column replaced through `f`. -/
def State.modCol (s : State) (c : ColId) (f : Column → Column) : State := { s with cols := vmod s.cols c f }
/-- An engine hart. -/
def State.hart (s : State) (h : HartId) : Hart := s.harts.get h
/-- The state with a hart replaced through `f`. -/
def State.modHart (s : State) (h : HartId) (f : Hart → Hart) : State := { s with harts := vmod s.harts h f }
/-- A stack. -/
def State.stack (s : State) (k : StackId) : Stack := s.stk.get k
/-- The state with a stack replaced through `f`. -/
def State.modStack (s : State) (k : StackId) (f : Stack → Stack) : State := { s with stk := vmod s.stk k f }
/-- The state with the hub replaced through `f`. -/
def State.modHub (s : State) (f : Hub → Hub) : State := { s with hub := f s.hub }

/-- The sequencer of a node. -/
def State.cpu (s : State) : Node → Cpu
  | .col c => (s.col c).cpu
  | .hart h => (s.hart h).cpu

/-- The state with the sequencer of a node replaced through `f`. -/
def State.modCpu (s : State) (n : Node) (f : Cpu → Cpu) : State :=
  match n with
  | .col c => s.modCol c fun x => { x with cpu := f x.cpu }
  | .hart h => s.modHart h fun x => { x with cpu := f x.cpu }

/-- An element. -/
def State.elem (s : State) (c : ColId) (e : ElemId) : Elem := (s.col c).elems.get e
/-- The state with an element replaced through `f`. -/
def State.modElem (s : State) (c : ColId) (e : ElemId) (f : Elem → Elem) : State :=
  s.modCol c fun x => { x with elems := vmod x.elems e f }
/-- A context. -/
def State.ctx (s : State) (r : CtxRef) : Ctx := (s.elem r.col r.elem).ctxs.get r.ctx
/-- The state with a context replaced through `f`. -/
def State.modCtx (s : State) (r : CtxRef) (f : Ctx → Ctx) : State :=
  s.modElem r.col r.elem fun x => { x with ctxs := vmod x.ctxs r.ctx f }

/-- The next free value's index, and the counter moved on (assumption log 5). -/
def State.tick (s : State) : State := { s with fresh := s.fresh + 1 }

/-- `cyc` of a stack (R4). -/
def State.cyc (s : State) (k : StackId) : DWord := (s.stack k).cyc

/-! A column's own cycles (R422). -/

/-- By how much a count of `n` cycles of a column grows in a droop: at most half of it (R422). -/
def State.stretchOf (s : State) (c : ColId) (n : Nat) : Nat :=
  if (s.col c).droop then Config.stretch (256 * s.fresh + c.val) % (n / 2 + 1) else 0

/-- The cycles that a count of `n` of a column's own cycles takes. -/
def State.colCycles (s : State) (c : ColId) (n : Nat) : Nat := n + s.stretchOf c n

/-- The same for a node: an engine hart's cycles are nominal. -/
def State.nodeCycles (s : State) (node : Node) (n : Nat) : Nat := match node with | .col c => s.colCycles c n | .hart _ => n

/-- The context a control token configures. -/
def ctlDest (h : DWord) : CtxRef := ⟨fin 255 (bitsNat h 63 56), fin 31 (bitsNat h 55 51), fin 3 (bitsNat h 43 42)⟩

/-- A column whose clock is gated wakes within 8 cycles for what comes to it, which counts that much later (R421). -/
def State.ungate (s : State) (c : ColId) : State :=
  let at_ := s.now + Config.ungate s.fresh % 9
  let late (here : Bool) (due : Nat) : Nat := if here then Nat.max due at_ else due
  let s := s.modCol c fun x => { x with gated := false, idleFor := 0 }
  { s with flights := s.flights.map fun f => { f with due := late (f.dest.col? == some c) f.due },
           ctl := s.ctl.map fun f => { f with due := late ((ctlDest f.tok.hdr).col == c) f.due },
           msgs := s.msgs.map fun f => { f with due := late (f.dst.col? == some c) f.due }, fresh := s.fresh + 1 }

/-- Something that is due comes to a column, which wakes if it is gated. -/
def State.awoken (s : State) (c : Option ColId) (due : Nat) : State :=
  match c with
  | some c => if due ≤ s.now && (s.col c).gated then s.ungate c else s
  | none => s

/-! Byte stores. -/

/-- The byte that a cell list holds at an address; an unlisted one reads as zero (assumption log 2). -/
def cellGet : List Host.Cell → Nat → Byte
  | [], _ => 0
  | (a, b) :: r, x => if x = a then b else if x < a then 0 else cellGet r x

/-- The cell list with a byte written, in canonical form. -/
def cellPut : List Host.Cell → Nat → Byte → List Host.Cell
  | [], x, v => if v = 0 then [] else [(x, v)]
  | (a, b) :: r, x, v =>
    if x < a then (if v = 0 then (a, b) :: r else (x, v) :: (a, b) :: r)
    else if x = a then (if v = 0 then r else (x, v) :: r)
    else (a, b) :: cellPut r x v

/-- Canonical form: addresses strictly rising, no entry equal to what an unlisted address reads as. -/
def cellsWf : List Host.Cell → Bool
  | [] => true
  | [(_, b)] => b != 0
  | (a, b) :: (a', b') :: r => b != 0 && decide (a < a') && cellsWf ((a', b') :: r)

/-- A store's bytes are in canonical form. -/
def Memory.wf (m : Store) : Bool := cellsWf m.bytes

/-- One byte of a store. -/
def Store.byte (m : Store) (a : Nat) : Byte := cellGet m.bytes a
/-- Writes one byte. -/
def Store.putByte (m : Store) (a : Nat) (v : Byte) : Store := { m with bytes := cellPut m.bytes a v }
/-- Writes consecutive bytes. -/
def Store.putBytes (m : Store) (a : Nat) : List Byte → Store
  | [] => m
  | b :: bs => (m.putByte a b).putBytes (a + 1) bs
/-- Reads consecutive bytes. -/
def Store.getBytes (m : Store) (a : Nat) : Nat → List Byte
  | 0 => []
  | n + 1 => m.byte a :: m.getBytes (a + 1) n

/-- The word of 8 bytes as stored, at a word number. -/
def Store.rawWord (m : Store) (w : Nat) : DWord := BitVec.ofNat 64 (leNat (m.getBytes (8 * w) 8))

/-- The word is uncorrectable (R109). -/
def Store.isBad (m : Store) (w : Nat) : Bool := m.bad.contains w
/-- The bit that a correctable error flips in a word, if it has one. -/
def Store.softBit (m : Store) (w : Nat) : Option Nat := (m.soft.find? fun x => x / 64 == w).map (· % 64)

/-- The word as read: an uncorrectable one reads as zero with taint (R109, R114). -/
def Store.readWord (m : Store) (w : Nat) : DWord × Bool := if m.isBad w then (0, true) else (m.rawWord w, false)

/-- Eight bits that name the bytes of a word from `lo`, `n` of them. -/
def byteMask (lo n : Nat) : BitVec 8 := BitVec.ofNat 8 ((2 ^ n - 1) * 2 ^ lo)

/-- The bytes named by a mask of `new` over `old`. -/
def mergeWord (old new : DWord) (mask : BitVec 8) : DWord :=
  BitVec.ofNat 64 (leNat ((upTo 8).map fun i =>
    BitVec.ofNat 8 ((if mask.getLsbD i then new.toNat else old.toNat) >>> (8 * i))))

/-- Writes the bytes of a word that a mask names; a partial write of an uncorrectable word merges into zero, and the word has good check bits after it (R109). -/
def Store.writeWord (m : Store) (w : Nat) (mask : BitVec 8) (v : DWord) : Store :=
  let old := (m.readWord w).1
  let m' := m.putBytes (8 * w) (leBytes 8 (mergeWord old v mask).toNat)
  { m' with bad := m'.bad.filter (· != w), soft := m'.soft.filter fun x => x / 64 != w }

/-- Presence of an SA word: none is empty (R117). -/
def Store.presence (m : Store) (w : Nat) : Option Presence := m.sa.lookup w
/-- Sets or clears the presence of an SA word. -/
def Store.setPresence (m : Store) (w : Nat) (p : Option Presence) : Store :=
  match p with
  | some p => { m with sa := insertKey w p m.sa }
  | none => { m with sa := eraseKey w m.sa }

/-- A store with a byte range made zero, with good check bits and empty presence (R351, R428). -/
def Store.zeroRange (m : Store) (a n : Nat) : Store :=
  let keepW (w : Nat) : Bool := decide (8 * w < a) || decide (a + n ≤ 8 * w)
  { bytes := m.bytes.filter fun c => decide (c.1 < a) || decide (a + n ≤ c.1),
    bad := m.bad.filter keepW, soft := m.soft.filter fun x => keepW (x / 64), sa := m.sa.filter fun p => keepW p.1 }

/-! Registers of a sequencer (R177, R203). -/

/-- g(r); g0 reads as zero (R177). -/
def Cpu.reg (u : Cpu) (r : BitVec 5) : DWord := if r = 0#5 then 0 else u.g.get (fin 31 r.toNat)
/-- Writes g(r); a write to g0 is discarded (R177). Any write to g1 to g31 dirties granule 0 (R70). -/
def Cpu.setReg (u : Cpu) (r : BitVec 5) (v : DWord) : Cpu :=
  if r = 0#5 then u else { u with g := vset u.g (fin 31 r.toNat) v, dirty := true }

/-- g(r) of a node. -/
def State.reg (s : State) (n : Node) (r : BitVec 5) : DWord := (s.cpu n).reg r
/-- Writes g(r) of a node. -/
def State.setReg (s : State) (n : Node) (r : BitVec 5) (v : DWord) : State := s.modCpu n fun u => u.setReg r v
/-- The address of the instruction being executed. -/
def State.pc (s : State) (n : Node) : DWord := (s.cpu n).pc
/-- Moves the pc of a node. -/
def State.setPc (s : State) (n : Node) (v : DWord) : State := s.modCpu n fun u => { u with pc := v }
/-- The pc moves past the instruction. -/
def State.step4 (s : State) (n : Node) : State := s.modCpu n fun u => { u with pc := u.pc + 4 }
/-- Writes g(r) and moves past the instruction. -/
def State.done (s : State) (n : Node) (r : BitVec 5) (v : DWord) : State := (s.setReg n r v).step4 n

/-- hte of a class (R18). -/
def Cpu.hteOf (u : Cpu) (c : Nat) : Word := u.hte.get (fin 19 c)
/-- V of a class. -/
def Cpu.armed (u : Cpu) (c : Nat) : Bool := (u.hteOf c).getLsbD 31
/-- M of a class. -/
def Cpu.masked (u : Cpu) (c : Nat) : Bool := (u.hteOf c).getLsbD 30
/-- PRIO of a class. -/
def Cpu.prio (u : Cpu) (c : Nat) : Nat := bitsNat (u.hteOf c) 27 24
/-- The handler address of a class, in bytes. -/
def Cpu.entry (u : Cpu) (c : Nat) : DWord := BitVec.ofNat 64 (bitsNat (u.hteOf c) 16 2 * 4)

/-- Pending messages and granted entries, at most 64 (R19). -/
def Cpu.pendCount (u : Cpu) : Nat := u.pend.length + u.grants

/-! Faults (R398, R399). -/

/-- The fault causes of R399. -/
inductive Cause where
  | illegal | privileged | misaligned | nearRange | nearWindow | verticalRange | address | access | pageFault
  | roWrite | saEmpty | saPartial | saOverwrite | saAtomic | saDiscipline | operand | primeLimit | translation
  | storeDropped | unarmed | watchdog | markerMismatch | messageTarget | frostNoPage | trap | parked
  deriving DecidableEq, Repr

/-- The cause code (R399). -/
def Cause.code : Cause → Nat
  | .illegal => 1 | .privileged => 2 | .misaligned => 3 | .nearRange => 4 | .nearWindow => 5 | .verticalRange => 6
  | .address => 7 | .access => 8 | .pageFault => 9 | .roWrite => 10 | .saEmpty => 11 | .saPartial => 12
  | .saOverwrite => 13 | .saAtomic => 14 | .saDiscipline => 15 | .operand => 16 | .primeLimit => 17
  | .translation => 18 | .storeDropped => 19 | .unarmed => 20 | .watchdog => 21 | .markerMismatch => 22
  | .messageTarget => 23 | .frostNoPage => 24 | .trap => 25 | .parked => 26

/-- A fault that a sequencer instruction raises: its cause, the data address of an access fault, and otherwise the value of g3. -/
structure Trap where
  cause : Cause
  addr : Option DWord
  g3 : DWord
  deriving DecidableEq, Repr

/-- A fault without an address. -/
def Trap.plain (c : Cause) : Trap := ⟨c, none, 0⟩
/-- A fault of an access at an address. -/
def Trap.at_ (c : Cause) (a : DWord) : Trap := ⟨c, some a, a⟩

/-- Why an instruction does not complete: a fault, or a condition it waits for and tries again in the next cycle. -/
inductive Stop where
  | trap (t : Trap)
  | wait
  deriving DecidableEq, Repr

/-- The result of a part of an instruction. -/
abbrev Res (α : Type) := Except Stop α

/-- A fault without an address. -/
def fault {α : Type} (c : Cause) : Res α := .error (.trap (.plain c))
/-- A fault at an address. -/
def faultAt {α : Type} (c : Cause) (a : DWord) : Res α := .error (.trap (.at_ c a))
/-- A fault `c` unless `b` holds. -/
def need (b : Bool) (c : Cause) (a : DWord) : Res Unit := if b then .ok () else faultAt c a

/-- The hosted stage of a node; zero for a hart. -/
def State.stageOf (s : State) : Node → Nat
  | .col c => (s.col c).drift.hosted
  | .hart _ => 0

/-- A one-token message that a node raises for itself: sender `col` and g4<13> = 0 for a column (R239). -/
def selfMsg (n : Node) (cls : BitVec 5) (g1 g2 g3 : DWord) (stamp : Option (BitVec 48)) : PendMsg :=
  { cls := cls, src := n.sender, len := 0, seq := 0, g1 := g1, g2 := g2, g3 := g3,
    area := leBytes 8 g1.toNat ++ leBytes 8 g2.toNat ++ leBytes 8 g3.toNat ++ leBytes 8 0, handler := none, stamp := stamp }

/-- The class-15 message of a watch (R222). -/
def watchMsg (c : ColId) (w : Watch) (v : DWord) (tainted : Bool) : PendMsg :=
  selfMsg (.col c) 15 w.addr v (BitVec.ofNat 64 (w.tag.toNat + (if tainted then 2 else 1) * 2 ^ 16)) none

/-- Adds one to the faults delivered to the task that holds a column (R11). -/
def State.countFault (s : State) (n : Node) : State :=
  match n with
  | .hart _ => s
  | .col c => match (s.col c).band with
    | none => s
    | some b => s.modHub fun h => { h with tasks := h.tasks.map fun t => if t.id = b.task then { t with faults := t.faults + 1 } else t }

/-- g1 of a class-19 message (R398). -/
def faultG1 (cause : Cause) (elem ctx : Nat) (unit : Bool) (stage : Nat) : DWord :=
  BitVec.ofNat 64 (cause.code + elem * 2 ^ 8 + ctx * 2 ^ 13 + (if unit then 1 else 0) * 2 ^ 15 + stage % 65536 * 2 ^ 16)

/-- The launch-record address of the task that holds a node; zero without a task. -/
def State.taskAddr (s : State) (n : Node) : Nat :=
  match n with
  | .hart _ => 0
  | .col c => match (s.col c).band with
    | none => 0
    | some b => match s.hub.tasks.find? (fun t => t.id == b.task) with
      | some t => t.addr
      | none => 0

/-- The source number of an event or trace record (R346, R417). -/
def sourceNo (n : Node) : Nat :=
  match n with
  | .col c => c.val
  | .hart h => 0x100 + hartSender h

/-- A 64-byte event record (R346). -/
def eventRecord (s : State) (n : Node) (kind code source : Nat) (payload : List Byte) (col : Option ColId) : EvRec :=
  ⟨leBytes 8 (kind % 256 + code % 256 * 2 ^ 8 + source % 65536 * 2 ^ 16 + s.stageOf n % 65536 * 2 ^ 32) ++
   leBytes 8 (s.cpu n).lclk.toNat ++ leBytes 8 (s.cyc 0).toNat ++ leBytes 8 (s.taskAddr n) ++
   (payload ++ List.replicate 32 0).take 32, col⟩

/-- The partition of a node: a column's owner; harts act for partition 0 unless a task names another. -/
def State.partOf (s : State) : Node → PartId
  | .col c => (s.col c).part.getD 0
  | .hart _ => 0

/-- Holds an escalation record of a halted column until its event queue takes it (R346). -/
def State.holdEscalation (s : State) (n : Node) (kind code : Nat) : State :=
  let u := s.cpu n
  let g4 : DWord := u.reg 4
  let c : Option ColId := match n with | .col c => some c | .hart _ => none
  let r := eventRecord s n kind code (sourceNo n)
    (leBytes 8 u.epc.toNat ++ leBytes 8 u.ecause.toNat ++ leBytes 8 u.ebad.toNat ++ leBytes 8 g4.toNat) c
  s.modHub fun h => { h with evHeld := vmod h.evHeld (s.partOf n) (· ++ [r]) }

/-- Taking a fault into supervisor mode, the one shared entry: mode.PSUP takes mode.SUP, mode.SUP is set, and the pc goes to evec (R342). A fault while mode.SUP is 1 sets HALT and leaves a record of KIND 3 (R343). -/
def State.enterSup (s : State) (n : Node) (cause : Cause) : State :=
  let u := s.cpu n
  if u.sup then (s.modCpu n fun u => { u with halt := true }).holdEscalation n 3 cause.code
  else s.modCpu n fun u => { u with psup := u.sup, sup := true, pc := u.evec, supIdle := !u.busy, busy := true }

/-- Writes epc, ecause and, for an access, ebad (R230). -/
def Cpu.recordFault (u : Cpu) (epc : DWord) (cause : Cause) (code : Nat) (addr : Option DWord) : Cpu :=
  { u with epc := epc, ecause := BitVec.ofNat 64 (cause.code + code % 2048 * 2 ^ 8), ebad := addr.getD u.ebad }

/-- The sequencer runs a class-19 handler (R342). -/
def Cpu.inFaultHandler (u : Cpu) : Bool := u.busy && bitsNat u.task 12 8 == 19

/-- The three ways in which a class-19 fault escalates (R342, R400). -/
def Cpu.escalates (u : Cpu) (bySequencer : Bool) : Bool :=
  !u.armed 19 || (bySequencer && u.inFaultHandler) || decide (64 ≤ u.pendCount)

/-- Adds a message to the pending ones. -/
def State.pendAdd (s : State) (n : Node) (m : PendMsg) : State := s.modCpu n fun u => { u with pend := u.pend ++ [m] }

/-- TAKING A SEQUENCER FAULT, the one shared operation (R23, R230, R342, R343, R398, R400): epc, ecause and ebad are written; a page fault or an escalating fault enters supervisor mode; otherwise the handler ends and a class-19 message is queued. -/
def State.seqFault (s : State) (n : Node) (t : Trap) : State :=
  let u := s.cpu n
  let s1 := (s.modCpu n fun u => { u.recordFault u.pc t.cause 0 t.addr with clr := none }).countFault n
  if u.sup || t.cause == .pageFault || u.escalates true then s1.enterSup n t.cause
  else (s1.modCpu n fun u => { u with busy := false }).pendAdd n
    (selfMsg n 19 (faultG1 t.cause 0 0 false (s.stageOf n)) u.pc t.g3 none)

/-- A fault that an element, an AG, a landing or the band raises at a node: a class-19 message, or supervisor mode where it escalates (R398, R400). -/
def State.nodeFault (s : State) (n : Node) (cause : Cause) (elem ctx : Nat) (g3 : DWord) : State :=
  let u := s.cpu n
  let s1 := s.countFault n
  if u.escalates false then
    (s1.modCpu n fun u => u.recordFault u.pc cause 0 (some g3)).enterSup n cause
  else s1.pendAdd n (selfMsg n 19 (faultG1 cause elem ctx true (s.stageOf n)) 0 g3 none)

/-- The same at a column. -/
def State.unitFault (s : State) (c : ColId) (cause : Cause) (elem ctx : Nat) (g3 : DWord) : State :=
  s.nodeFault (.col c) cause elem ctx g3

/-- The stage that the node hosts has executed `end` marked final (R33). -/
def State.finished (s : State) : Node → Bool
  | .hart _ => false
  | .col c => match (s.col c).band with
    | some b => b.finished
    | none => false

/-- Counts a dropped message (R227). -/
def State.dropMsg (s : State) (n : Node) : State := s.modCpu n fun u => { u with dropmsg := satInc u.dropmsg 1 }

/-- A message arrives at a node that has an entry for it: an unarmed class drops it with a fault of its own, which escalates when that class is 19; a finished stage drops it; otherwise it is pending (R19, R33). -/
def State.arrive (s : State) (n : Node) (m : PendMsg) : State :=
  if s.finished n then s.dropMsg n
  else if !(s.cpu n).armed m.cls.toNat then
    (s.dropMsg n).nodeFault n .unarmed 0 0 (BitVec.setWidth 64 m.cls)
  else s.pendAdd n m

/-- A message that a node raises for itself arrives, or waits at the unit that raises it while 64 are pending (R19). -/
def State.selfQueue (s : State) (n : Node) (m : PendMsg) : State :=
  if (s.cpu n).pendCount < 64 && (s.cpu n).selfq.isEmpty then s.arrive n m
  else s.modCpu n fun u => { u with selfq := u.selfq ++ [m] }

/-- An instruction that waits is tried again in the next cycle. -/
def State.waitHere (s : State) (n : Node) : State := s.modCpu n fun u => { u with ready := s.now + 1 }

/-- What an instruction's meaning answers: its next state, or the state after its fault is taken, or the same place again after a wait. -/
def seqResult (s : State) (r : Res State) : Out :=
  match r with
  | .ok t => .next t
  | .error (.trap t) => .next (s.seqFault s.focus t)
  | .error .wait => .next (s.waitHere s.focus)

/-- RETURN FROM SUPERVISOR MODE, the operation of eret: pc takes epc, mode.SUP takes mode.PSUP, mode.PSUP is cleared (R207). A sequencer that was idle at entry is idle again. -/
def State.leaveSup (s : State) (n : Node) : State :=
  s.modCpu n fun u => { u with pc := u.epc, sup := u.psup, psup := false, busy := u.busy && (u.psup || !u.supIdle), supIdle := false }

/-- The focus is an engine hart. -/
def Node.isHart : Node → Bool
  | .hart _ => true
  | .col _ => false

/-- A form that engine harts do not execute is illegal there (R181); `f` gets the column otherwise. -/
def onColumn (s : State) (f : ColId → Res State) : Out :=
  match s.focus with
  | .hart _ => .next (s.seqFault s.focus (.plain .illegal))
  | .col c => seqResult s (f c)

/-- A system event for a partition: held for its queue, at most 16 of them, else counted in EQDROP (R346, R402). -/
def State.sysEvent (s : State) (p : PartId) (code : Nat) (source : Nat) (payload : List Byte) : State :=
  let h := s.hub
  let held := h.evHeld.get p
  let sys := (held.filter fun r => (r.bytes.headD 0) == 2#8).length
  let r := eventRecord s (.col 0) 2 code source payload none
  if sys < 16 then s.modHub fun h => { h with evHeld := vset h.evHeld p (held ++ [r]) }
  else
    let a := 0x100130 + 0x1000 * p.val
    s.modHub fun h => { h with regs := insertKey a (BitVec.setWidth 64 (satInc (BitVec.setWidth 32 (lookupD 0 a h.regs)) 1)) h.regs }

/-- The first task with an identifier. -/
def State.task? (s : State) (id : BitVec 16) : Option Task := s.hub.tasks.find? fun t => t.id == id

/-- The state with a task replaced through `f`. -/
def State.modTask (s : State) (id : BitVec 16) (f : Task → Task) : State :=
  s.modHub fun h => { h with tasks := h.tasks.map fun t => if t.id = id then f t else t }

/-- The task that holds a column. -/
def State.taskOf (s : State) (c : ColId) : Option Task :=
  match (s.col c).band with
  | none => none
  | some b => s.task? b.task

/-- Until bring-up has opened the part, a write to a register other than the identity page's is ignored (R428). -/
def State.opened (s : State) (o : Out) : Out := if s.hub.bstep = 9 then o else .next s

/-- The next state that a meaning answers. -/
def nextOr (o : Out) (s : State) : State := match o with | .next t => t | _ => s

/-- A signal to the Keano cores or the host. -/
def State.signal (s : State) (g : Signal) : State := s.modHub fun h => { h with signals := h.signals ++ [g] }

end Sys2Proof.Machine
end

