-- ==== Sys2Proof/Machine/Memory.lean ====
section
/-! DEFINITION. The memories: near-store interleave, vertical address decoding, the device memory map, check bits and their counters, single-assignment presence, store queues and the stacks' ordering points. -/

namespace Sys2Proof.Machine

/-! Meters (R352 to R355). -/

/-- An allowance above 4096 reads as 4096 (R353). -/
def allow (x : BitVec 13) : Nat := Nat.min x.toNat 4096

/-- A column's output link is used `k` times by a class. -/
def Column.chargeL (x : Column) (cls k : Nat) : Column := { x with useL := vmod x.useL (fin 7 cls) (· + k) }
/-- A vertical port of a column is used `k` times by a class. -/
def Column.chargeV (x : Column) (cls port k : Nat) : Column :=
  { x with useV := vmod x.useV (fin 7 cls) fun v => vmod v (fin 3 port) (· + k) }
/-- The output link admits `k` more units of a class. -/
def Column.admitsL (x : Column) (cls k : Nat) : Bool :=
  decide (k = 0) || decide (x.useL.get (fin 7 cls) + k ≤ allow (x.budL.get (fin 7 cls)))
/-- A vertical port admits one more unit of a class. -/
def Column.admitsV (x : Column) (cls port : Nat) : Bool :=
  decide ((x.useV.get (fin 7 cls)).get (fin 3 port) < allow (x.budV.get (fin 7 cls)))

/-- The hub's resources that are metered: UCIe link k as k, GDDR7 channel c as 8 + c, LPDDR6 as 24, PCIe as 25. -/
def meterKey (res : Nat) (p : PartId) (cls : Nat) : Nat := res * 64 + p.val * 8 + cls % 8

/-- A hub resource is used `k` times. -/
def Hub.charge (h : Hub) (res : Nat) (p : PartId) (cls k : Nat) : Hub :=
  { h with use := insertKey (meterKey res p cls) (lookupD 0 (meterKey res p cls) h.use + k) h.use }

/-- The allowance of a hub resource (R348): the field of PBUD that it names. -/
def Hub.allowance (h : Hub) (res : Nat) (p : PartId) (cls : Nat) : Nat :=
  let b := lookupD (0 : DWord) (0x0F00F0 + 0x1000 * p.val + 8 * (cls % 8)) h.regs
  let lo := if res < 8 then 0 else if res < 24 then 16 else if res = 24 then 32 else 48
  Nat.min (bitsNat b (lo + 12) lo) 4096

/-- A hub resource admits one more unit. -/
def Hub.admits (h : Hub) (res : Nat) (p : PartId) (cls : Nat) : Bool :=
  decide (lookupD 0 (meterKey res p cls) h.use < h.allowance res p cls)

/-! The near store (R107, R64). -/

/-- The blocks in granule interleave among those from `lo` on. -/
def granuleBlocks (nsmap : BitVec 16) (lo : Nat) : List Nat := (countFrom lo (16 - lo)).filter fun j => !nsmap.getLsbD j

/-- The physical byte of a local address in the interleave that `nsmap` gives, over the blocks from `lo` on: bank · 0x1800 + byte in the bank (R107). -/
def interleave (nsmap : BitVec 16) (lo a : Nat) : Nat :=
  let j := a / 0x1800
  if nsmap.getLsbD j then a
  else
    let bs := granuleBlocks nsmap lo
    let rank := (bs.filter (· < j)).length
    let g := rank * 768 + a % 0x1800 / 8
    nth 0 bs (g % bs.length) * 0x1800 + g / bs.length * 8 + a % 8

/-- The physical byte of a local address below 0x18000 of a column. In a drift band the private window lies in banks 0 to 5 or 6 to 11, and banks 12 to 15 interleave among themselves (R64). -/
def Column.nearPhys (x : Column) (a : Nat) : Nat :=
  if x.drift.on then
    if a < 0x9000 then (if x.drift.odd then a + 0x9000 else a)
    else interleave x.nsmap 12 a
  else interleave x.nsmap 0 a

/-- The fault that a local address raises, if any (R107, R64). -/
def Column.nearCause (x : Column) (a : Nat) : Option Cause :=
  if 0x18000 ≤ a then some .nearRange
  else if x.drift.on && decide (0x9000 ≤ a) && decide (a < 0x12000) then some .nearWindow
  else none

/-- A local address lies in a single-assignment block (R110). -/
def Column.nearSa (x : Column) (a : Nat) : Bool := x.nssa.getLsbD (a / 0x1800)

/-- The same three for a node; the local memory of an engine hart is plain. -/
def State.nearPhys (s : State) : Node → Nat → Nat
  | .col c, a => (s.col c).nearPhys a
  | .hart _, a => a
def State.nearCause (s : State) : Node → Nat → Option Cause
  | .col c, a => (s.col c).nearCause a
  | .hart _, a => if 0x18000 ≤ a then some .nearRange else none
def State.nearSa (s : State) : Node → Nat → Bool
  | .col c, a => (s.col c).nearSa a
  | .hart _, _ => false

/-- A bank of a column belongs to another partition than the column (R350). -/
def Column.bankForeign (x : Column) (b : Nat) : Bool :=
  match x.bankTag.get (fin 15 b) with
  | none => false
  | some p => x.part != some p

/-- A shelf of a column belongs to another partition than the column. -/
def Column.shelfForeign (x : Column) (b : Nat) : Bool :=
  match x.shelfTag.get (fin 15 b) with
  | none => false
  | some p => x.part != some p

/-! Error injection (R414). -/

/-! The vertical store (R111). -/

/-- Bytes of a layer. -/
def layerBytes : Nat := 0x1800000
/-- Bytes of a shelf. -/
def shelfBytes : Nat := 0x600000

/-- The byte of the layers laid end to end that a 28-bit vertical address reaches; none outside the valid ranges (R111). -/
def vertDecode (a : Nat) : Option Nat :=
  if a < 0x8000000 then
    let off := a % 2 ^ 25
    if off < layerBytes then some (a / 2 ^ 25 * layerBytes + off) else none
  else if a < 0xE000000 then
    some (a / 128 % 4 * layerBytes + (a % 0x8000000 / 512 * 128 + a % 128))
  else none

/-- The layer of a vertical byte. -/
def vLayer (p : Nat) : Nat := p / layerBytes
/-- The shelf of a vertical byte (R111). -/
def vShelf (p : Nat) : Nat := p / layerBytes * 4 + p % layerBytes / shelfBytes
/-- The first vertical byte of a shelf. -/
def shelfBase (h : Nat) : Nat := h / 4 * layerBytes + h % 4 * shelfBytes

/-- What an armed injection does to a read of a word: its KIND and BIT. -/
def Column.injected (x : Column) (vertical : Bool) (w : Nat) : Option (Bool × Nat) :=
  let e := x.errinj
  if !e.getLsbD 63 || e.getLsbD 60 != vertical then none
  else
    let a := bitsNat e 27 0
    let hit := if vertical then (match vertDecode a with | some p => p / 8 == w | none => false)
      else decide (a < 0x18000) && x.nearPhys a / 8 == w
    if hit then some (e.getLsbD 61, bitsNat e 33 28) else none

/-- The injection has taken place: ARM is cleared and FIRED set. -/
def Column.injDone (x : Column) : Column := { x with errinj := putBit (putBit x.errinj 63 false) 62 true }

/-- Counts a corrected or an uncorrectable word of a column (R392). -/
def Column.countCorr (x : Column) : Column := { x with ecorr := satInc x.ecorr 1 }
def Column.countUncorr (x : Column) : Column := { x with euncor := satInc x.euncor 1 }

/-- Reads a word of a column's near store as every party but the debug path does: the value, its taint, and the column with its counters (R109, R414). -/
def Column.readNear (x : Column) (w : Nat) : (DWord × Bool) × Column :=
  let m := x.cpu.near
  match x.injected false w with
  | some (single, _) =>
    let x := x.injDone
    if m.isBad w || !single then ((0, true), x.countUncorr) else ((m.rawWord w, false), x.countCorr)
  | none =>
    if m.isBad w then ((0, true), x.countUncorr)
    else ((m.rawWord w, false), if (m.softBit w).isSome then x.countCorr else x)

/-- The local granule of 512 bytes that a physical byte of the hosted private window lies in (R68), if it does. -/
def Column.windowGranule (x : Column) (p : Nat) : Option Nat :=
  if !x.drift.on then none
  else
    let base := if x.drift.odd then 0x9000 else 0
    if base ≤ p ∧ p < base + 0x9000 then some ((p - base) / 512 + 1) else none

/-- Writes bytes of a word of a column's near store, marking the granule for a save (R70, R368). -/
def Column.writeNear (x : Column) (w : Nat) (mask : BitVec 8) (v : DWord) : Column :=
  let x := match x.windowGranule (8 * w) with
    | some g => { x with drift := { x.drift with dirtyNear := insertNat g x.drift.dirtyNear } }
    | none => x
  { x with cpu := { x.cpu with near := x.cpu.near.writeWord w mask v }, nearDirty := insertNat (w / 64) x.nearDirty }

/-! Vertical-bus retirement (R394, R395). -/

/-- A system event that touches no partition goes to every enabled one (R348, R402). -/
def State.allEvent (s : State) (code source : Nat) (payload : List Byte) : State :=
  ((upTo 8).filter fun p => (lookupD (0 : DWord) (0x0F0130 + 0x1000 * p) s.hub.regs).getLsbD 0).foldl
    (fun (s : State) p => s.sysEvent (fin 7 p) code source payload) s

/-- Retires a bus: its bit is set, DEGR says that one is out of service (R429), and the partition's event queue receives event 5. -/
def State.retireBus (s : State) (c : ColId) (layer : Nat) : State :=
  if (s.col c).vret.getLsbD layer then s
  else
    let s := (s.modCol c fun x => { x with vret := putBit x.vret layer true }).modHub fun h => { h with degr := putBit h.degr 4 true }
    let info := leBytes 8 (c.val + layer * 256)
    match (s.col c).part, (s.col c).band with
    | some p, some _ => s.sysEvent p 5 c.val info
    | _, _ => s.allEvent 5 c.val info

/-- One corrected read of a bus at a bit lane: 1024 in a row at one lane retire it. -/
def Bus.corrected (b : Bus) (lane : Nat) : Bus := if b.run > 0 ∧ b.lane = lane then { b with run := b.run + 1 } else { b with lane := lane, run := 1 }

/-- Reads a word of a column's vertical store (R114, R394, R395, R414). -/
def State.readVert (s : State) (c : ColId) (w : Nat) : (DWord × Bool) × State :=
  let x := s.col c
  let layer := vLayer (8 * w)
  let k := fin 3 layer
  if x.vret.getLsbD layer then ((0, true), s)
  else
    let m := x.vert
    let inj := x.injected true w
    let x1 := if inj.isSome then x.injDone else x
    let bad := m.isBad w || (match inj with | some (single, _) => !single | none => false)
    let lane := match inj with | some (true, b) => some b | _ => m.softBit w
    if bad then
      let x2 := x1.countUncorr
      let b := x2.buses.get k
      let s := s.modCol c fun _ => { x2 with buses := vset x2.buses k { b with unc := b.unc + 1 } }
      ((0, true), if 64 ≤ b.unc + 1 then s.retireBus c layer else s)
    else match lane with
      | some bit =>
        let x2 := x1.countCorr
        let b := (x2.buses.get k).corrected (w % 16 * 64 + bit)
        let s := s.modCol c fun _ => { x2 with buses := vset x2.buses k b }
        ((m.rawWord w, false), if 1024 ≤ b.run then s.retireBus c layer else s)
      | none => ((m.rawWord w, false), s.modCol c fun _ => x1)

/-- Writes bytes of a word of a column's vertical store; a retired bus drops the write. -/
def State.writeVert (s : State) (c : ColId) (w : Nat) (mask : BitVec 8) (v : DWord) : State :=
  if (s.col c).vret.getLsbD (vLayer (8 * w)) then s
  else s.modCol c fun x => { x with vert := x.vert.writeWord w mask v }

/-! Device memory (R432). -/

/-- The memory channel of a physical address: 0 to 15 for GDDR7, 16 for LPDDR6, none where nothing is mapped. -/
def Hub.channel? (h : Hub) (pa : Nat) : Option Nat :=
  if pa < 2 ^ 36 then
    let c := pa / 2 ^ 32
    if pa % 2 ^ 32 < h.gddr.get (fin 15 c) then some c else none
  else if 0x100000000000 ≤ pa ∧ pa < 0x100000000000 + h.lpddr then some 16
  else none

/-- The stack whose statistics-sink aperture holds a physical address (R432). -/
def sinkStack? (pa : Nat) : Option StackId :=
  if 0x3FFF00000000 ≤ pa ∧ pa < 0x3FFF00040000 then some (fin 3 ((pa - 0x3FFF00000000) / 0x10000)) else none

/-- A physical address lies in a range of the partition (R348). -/
def Hub.inPmem (h : Hub) (p : PartId) (pa : Nat) : Bool :=
  (upTo 8).any fun i =>
    let r := lookupD (0 : DWord) (0x0F0020 + 0x1000 * p.val + 8 * i) h.regs
    let base := bitsNat r 45 21 * 2 ^ 21
    r.getLsbD 63 && decide (base ≤ pa) && decide (pa < base + bitsNat r 20 0 * 2 ^ 21)

/-- Adds to a 32-bit half of a hub register, saturating (R392, R393). -/
def Hub.bumpReg (h : Hub) (addr : Nat) (high : Bool) (k : Nat) : Hub :=
  let r := lookupD (0 : DWord) addr h.regs
  let lo : Word := field r 0 32
  let hi : Word := field r 32 32
  let v := if high then (satInc hi k) ++ lo else hi ++ (satInc lo k)
  { h with regs := insertKey addr v h.regs }

/-- The error counter of a channel (R393). -/
def errReg (ch : Nat) : Nat := if ch = 16 then 0x0E0A80 else 0x0E0A00 + 8 * ch

/-- A request reaches a channel: a GDDR7 channel leaves self-refresh (R421). -/
def Hub.request (h : Hub) (ch : Nat) : Hub :=
  if ch < 16 then { h with quiet := vset h.quiet (fin 15 ch) 0, selfref := putBit h.selfref ch false } else h

/-- Reads an 8-byte word of device memory at its channel: a burst of 64 bytes that is uncorrectable reads as zero with taint (R389). -/
def State.readChannel (s : State) (w : Nat) : (DWord × Bool) × State :=
  let h := s.hub
  let ch := (h.channel? (8 * w)).getD 16
  let h := h.request ch
  if h.dev.isBad (w / 8) then ((0, true), { s with hub := h.bumpReg (errReg ch) true 1 })
  else if (h.dev.soft.any fun x => x / 512 == w / 8) then
    ((h.dev.rawWord w, false), { s with hub := { h.bumpReg (errReg ch) false 1 with dev := { h.dev with soft := h.dev.soft.filter fun x => x / 512 != w / 8 } } })
  else ((h.dev.rawWord w, false), { s with hub := h })

/-- A write to a line ends the Keano cores' reservations on it (R150). -/
def Hub.unreserve (h : Hub) (line : Nat) : Hub := { h with kres := h.kres.filter fun r => r.2 != line }

/-- Writes bytes of an 8-byte word at its channel; a narrower write into an uncorrectable burst merges into zero and makes the burst good (R389). -/
def Hub.writeChannel (h : Hub) (w : Nat) (mask : BitVec 8) (v : DWord) : Hub :=
  let m := h.dev
  let m := if m.isBad (w / 8) then
      { m with bytes := m.bytes.filter (fun c => c.1 / 64 != w / 8), bad := m.bad.filter (· != w / 8) } else m
  let m := { m with bytes := (m.putBytes (8 * w) (leBytes 8 (mergeWord (m.rawWord w) v mask).toNat)).bytes }
  { (h.unreserve (w / 8)).request ((h.channel? (8 * w)).getD 16) with dev := { m with soft := m.soft.filter fun x => x / 64 != w } }

/-- The word as the parties of a stack read it: stores that wait at the stack's ordering point lie over memory, youngest last (R138). -/
def mergeOrd (q : List OrdStore) (w : Nat) (v : DWord) : DWord :=
  q.foldl (fun v o => if o.pa / 8 = w then mergeWord v o.data o.mask else v) v

/-- Reads a word of device memory as a party of a stack does, or, without a stack, as one beyond it. -/
def State.readDev (s : State) (view : Option StackId) (w : Nat) : (DWord × Bool) × State :=
  let (r, t) := s.readChannel w
  match view with
  | none => (r, t)
  | some k => ((mergeOrd (s.stack k).ord w r.1, r.2), t)

/-- Consecutive bytes of device memory as they read at the channel: zero in an uncorrectable burst (R389). -/
def Store.burstBytes (m : Store) (a n : Nat) : List Byte :=
  if m.bad.isEmpty then m.getBytes a n else (upTo n).map fun i => if m.isBad ((a + i) / 64) then 0 else m.byte (a + i)
/-- The same of the hub's memory, without counting errors. -/
def Hub.peek (h : Hub) (a n : Nat) : List Byte := h.dev.burstBytes a n
/-- An 8-byte word of device memory as it reads at the channel. -/
def Hub.peekW (h : Hub) (a : Nat) : DWord := BitVec.ofNat 64 (leNat (h.peek a 8))
/-- A hub engine reads bytes for no task: each uncorrectable burst among them counts at its channel and in heuncor, and raises event 9, whose record names the burst (R393, R402; assumption log 103). -/
def State.hubReads (s : State) (a n : Nat) : State :=
  ((s.hub.dev.bad.filter fun b => decide (a / 64 ≤ b) && decide (b ≤ (a + n - 1) / 64)).foldl (fun (s : State) b =>
    (s.modHub fun h => (h.bumpReg (errReg ((h.channel? (64 * b)).getD 16)) true 1).bumpReg 0x0E0AD0 false 1).allEvent 9 0x128 (leBytes 8 (64 * b))) s)
/-- Device memory about to be written at `n` bytes from `a` on: an uncorrectable burst there merges into zero, and its bursts have good check bits (R389). -/
def Store.mendBursts (m : Store) (a n : Nat) : Store :=
  let hit (b : Nat) : Bool := decide (0 < n) && decide (a / 64 ≤ b) && decide (b ≤ (a + n - 1) / 64)
  if m.bad.any hit || m.soft.any (fun x => hit (x / 512)) then
    { m with bytes := m.bytes.filter (fun c => !(hit (c.1 / 64) && m.isBad (c.1 / 64))), bad := m.bad.filter (fun b => !hit b),
             soft := m.soft.filter fun x => !hit (x / 512) }
  else m
/-- Writes consecutive bytes at the channel. -/
def Hub.poke (h : Hub) (a : Nat) (bs : List Byte) : Hub :=
  { (upTo (ceilDiv bs.length 64 + 1)).foldl (fun h i => h.unreserve (a / 64 + i)) h with dev := (h.dev.mendBursts a bs.length).putBytes a bs }

/-- The stores of an ordering point that go on when those that meet `p` do, and those that stay: a store goes with every younger one of its word that goes, so that each word's stores keep their order (R138). -/
def splitOrd (p : OrdStore → Bool) : List OrdStore → List OrdStore × List OrdStore
  | [] => ([], [])
  | o :: r =>
    let (out, kept) := splitOrd p r
    if p o || out.any (fun x => x.pa / 8 == o.pa / 8) then (o :: out, kept) else (out, o :: kept)

/-- The stores at the stacks' ordering points that meet `p` reach the channel, each after the older ones of its word (R138). -/
def State.flushOrd (s : State) (p : OrdStore → Bool) : State :=
  (upTo 4).foldl (fun s k =>
    let k := fin 3 k
    let (out, kept) := splitOrd p (s.stack k).ord
    let s := out.foldl (fun s o => s.modHub fun h => h.writeChannel (o.pa / 8) o.mask o.data) s
    s.modStack k fun x => { x with ord := kept }) s

/-- A store waits at the ordering point of a stack for the word of a location. -/
def State.waitsAt (s : State) (k : StackId) (l : Loc) : Bool := l.space == .dev && (s.stack k).ord.any fun o => o.pa / 8 == l.addr / 8

/-- A node has read a word that waits at its stack's ordering point: its load is performed for `sys` once that store is (R138). -/
def State.noteSeen (s : State) (n : Node) (l : Loc) : State :=
  if s.waitsAt n.stack l then s.modCpu n fun u => { u with seen := insertNat (l.addr / 8) u.seen } else s

/-- A store that a node's loads have returned waits at its stack's ordering point. -/
def State.seenWaits (s : State) (n : Node) (words : List Nat) : Bool := (s.stack n.stack).ord.any fun o => words.contains (o.pa / 8)

/-- A node's loads are performed for `sys`: the stores that they returned reach the channel (R138). -/
def State.settleReads (s : State) (n : Node) : State :=
  let seen := (s.cpu n).seen
  (s.flushOrd fun o => o.node.stack == n.stack && seen.contains (o.pa / 8)).modCpu n fun u => { u with seen := [] }

/-! Single assignment (R117, R118). -/

/-- The presence of the SA word at a location. -/
def State.presence (s : State) (l : Loc) : Option Presence :=
  match l.space with
  | .near => (s.col l.col).cpu.near.presence (l.addr / 8)
  | .vert => none
  | .dev => s.hub.dev.presence (l.addr / 8)

/-- Sets or clears the presence of the SA word at a location. -/
def State.setPresence (s : State) (l : Loc) (p : Option Presence) : State :=
  match l.space with
  | .near => s.modCol l.col fun x => { x with cpu := { x.cpu with near := x.cpu.near.setPresence (l.addr / 8) p }, nearDirty := insertNat (l.addr / 512) x.nearDirty }
  | .vert => s
  | .dev => s.modHub fun h => { h with dev := h.dev.setPresence (l.addr / 8) p }

/-- The 8-byte word of a location. -/
def Loc.word (l : Loc) : Loc := { l with addr := l.addr / 8 * 8 }

/-- Watches of one column on a word: they hold their message from the filling write on (R222). -/
def Column.fire (x : Column) (l : Loc) (v : DWord) (tainted : Bool) : Column :=
  if x.watches.any fun k => k.loc == l then
    { x with watches := x.watches.filter fun k => k.loc != l,
             fired := x.fired ++ (x.watches.filter fun k => k.loc == l).map fun k => (k, v, tainted) }
  else x

/-- The watches on a word that has just been filled. -/
def State.fireWatches (s : State) (l : Loc) (v : DWord) (tainted : Bool) : State :=
  match l.space with
  | .near => s.modCol l.col fun x => x.fire l v tainted
  | .vert => s
  | .dev => { s with cols := vmap (fun x => if x.watches.isEmpty then x else x.fire l v tainted) s.cols }

/-- Reads the word that holds a location: value, taint, and the state with its counters. An SA word that is full-tainted taints what is read. -/
def State.readLoc (s : State) (view : Option StackId) (sa : Bool) (l : Loc) : (DWord × Bool) × State :=
  let (r, t) := match l.space with
    | .near => let (r, x) := (s.col l.col).readNear (l.addr / 8); (r, s.modCol l.col fun _ => x)
    | .vert => s.readVert l.col (l.addr / 8)
    | .dev => s.readDev view (l.addr / 8)
  ((r.1, r.2 || (sa && s.presence l == some .tainted)), t)

/-- Writes bytes of the word that holds a location, at its bank or channel. -/
def State.writeLoc (s : State) (l : Loc) (mask : BitVec 8) (v : DWord) : State :=
  match l.space with
  | .near => s.modCol l.col fun x => x.writeNear (l.addr / 8) mask v
  | .vert => s.writeVert l.col (l.addr / 8) mask v
  | .dev => s.modHub fun h => h.writeChannel (l.addr / 8) mask v

/-- Fills an SA word: a full one keeps its data and the answer is true, an SA overwrite (R118). A stream or transfer that writes some bytes writes the whole word, the others zero. -/
def State.fillSa (s : State) (l : Loc) (mask : BitVec 8) (v : DWord) (tainted : Bool) : Bool × State :=
  if (s.presence l).isSome then (true, s)
  else
    let w := mergeWord 0 v mask
    let s := (s.writeLoc l.word 0xFF#8 w).setPresence l (some (if tainted then .tainted else .full))
    (false, s.fireWatches l.word w tainted)

/-! Power of shelves (R344, R421). -/

/-- Shelf `h` of a column is on. -/
def Column.shelfOn (x : Column) (h : Nat) : Bool := x.shpw.get (fin 15 h) == 0#2
/-- The vertical byte of a location lies in a shelf that is not on. -/
def State.asleep (s : State) (l : Loc) : Bool := l.space == .vert && !(s.col l.col).shelfOn (vShelf l.addr)

/-- A shelf is asked for a power state (R344): a shelf in retention or off wakes, and stays on after a debug access that is in progress (R413); waking is no state to ask for. -/
def Column.askShelf (x : Column) (h : Nat) (k : BitVec 2) : Column :=
  let now := x.shpw.get (fin 15 h)
  let put (k : BitVec 2) (off : Bool) : Column := { x with shpw := vset x.shpw (fin 15 h) k, wasOff := putBit x.wasOff h (off || x.wasOff.getLsbD h) }
  if k = 0#2 then
    let y : Column := { x with dbg := { x.dbg with back := if (x.dbg.back.map (·.1)) = some (fin 15 h) then none else x.dbg.back } }
    (if now = 0#2 || now = 3#2 then y else { y with shpw := vset x.shpw (fin 15 h) 3, wasOff := putBit x.wasOff h (now == 2#2 || x.wasOff.getLsbD h) })
  else if k = 1#2 then put 1 (now == 2#2)
  else if k = 2#2 then put 2 true
  else x

/-- A shelf is on; one that was off is zeroed first (R421). -/
def Column.shelfUp (x : Column) (h : Nat) : Column :=
  { x with vert := if x.wasOff.getLsbD h then x.vert.zeroRange (shelfBase h) shelfBytes else x.vert, wasOff := putBit x.wasOff h false,
           shpw := vset x.shpw (fin 15 h) 0 }

/-- A shelf that is no longer hosted, filling or a berth shelf enters retention (R421). -/
def Column.shelfRests (x : Column) (h : Nat) : Column := if x.shelfOn h || x.shpw.get (fin 15 h) == 3#2 then x.askShelf h 1 else x

/-- The shelves of a column as its drift controller's states have them: those in use are on, the others rest. -/
def Column.powerShelves (x : Column) : Column :=
  (upTo 16).foldl (fun (x : Column) h => match x.drift.shelves.get (fin 15 h) with
    | .hosted | .berth | .filling _ => if x.shelfOn h then x else x.shelfUp h
    | _ => x.shelfRests h) x

/-- A requester that meets a sleeping shelf wakes it. -/
def State.wakeFor (s : State) (l : Loc) : State := s.modCol l.col fun x => x.askShelf (vShelf l.addr) 0

/-! Ownership of banks and shelves (R350, R351). -/

/-- Whether a request of the column itself finds the target open, closed for a change, or another partition's. -/
inductive Access where
  | open_ | shut | foreign
  deriving DecidableEq, Repr

/-- The state of the bank or shelf at a location. -/
def State.access (s : State) (l : Loc) : Access :=
  let x := s.col l.col
  match l.space with
  | .near =>
    let b := l.addr / 0x1800
    if x.bankForeign b then .foreign else if x.bankShut.getLsbD b then .shut else .open_
  | .vert =>
    let h := vShelf l.addr
    if x.shelfForeign h then .foreign else if x.shelfShut.getLsbD h then .shut else .open_
  | .dev => .open_

/-- A store that a closed or foreign target drops is counted in RSTAT.DROPPED (R351). -/
def State.countDropped (s : State) : State :=
  s.modHub fun h => { h with rstat := putField h.rstat 16 (satInc (field h.rstat 16 16 : BitVec 16) 1) }

/-! Deferral entries (R110, R117). -/

/-- The key of the bank or channel that defers reads of a location: column banks from 32 on, channels 0 to 16. -/
def State.deferKey (s : State) (l : Loc) : Nat :=
  match l.space with
  | .dev => (s.hub.channel? l.addr).getD 16
  | _ => 32 + l.addr / 0x1800

/-- Two locations defer their reads at one bank, or at one channel. -/
def State.sameDefer (s : State) (a b : Loc) : Bool := a.space == b.space && a.col == b.col && s.deferKey a == s.deferKey b

/-- Reads of a column's streams deferred at the bank or channel of a location. -/
def State.streamsDeferred (s : State) (x : Column) (l : Loc) : Nat :=
  sumList (x.elems.toList.map fun e => sumList (e.ctxs.toList.map fun c =>
    match c.strm with
    | none => 0
    | some m => sumList (m.reqs.map fun q => (q.pieces.filter fun p => p.st == .deferred && s.sameDefer p.loc l).length)))

/-- Reads deferred at the bank or channel of a location: those of streams, of transfer engines, of layer-swap engines, of graph walkers and of the Keano cores (R110, R117, R432). -/
def State.deferCount (s : State) (l : Loc) : Nat :=
  let at_ (d : Option Loc) (stalled : Bool) : Bool := !stalled && (match d with | some m => s.sameDefer m l | none => false)
  sumList (s.cols.toList.map fun x => if x.band.isSome then s.streamsDeferred x l else 0) +
  sumList (s.stk.toList.map fun k => (k.te.toList.filter fun t => match t.cur with | some m => at_ m.deferred m.stalled | none => false).length) +
  (s.stk.toList.filter fun k => match k.lse with | some f => at_ f.deferred f.stalled | none => false).length +
  sumList (s.stk.toList.map fun k => (k.graphs.filter fun g => at_ g.deferred false).length) +
  (s.hub.keano.filter fun w => s.sameDefer ⟨.dev, 0, w.pa⟩ l).length

/-! A sequencer's own stores (R204, R218). -/

/-- Bytes of the youngest queued stores, merged over a word that was read at a location (R218). -/
def mergeQueue (q : List QStore) (l : Loc) (v : DWord) : DWord :=
  q.foldl (fun v o => if o.loc.word = l.word then mergeWord v o.data o.mask else v) v

/-- Performs one queued store: at its bank, or into its stack's ordering point (R138). -/
def State.performStore (s : State) (n : Node) (o : QStore) : State :=
  match o.loc.space, n with
  | .near, .hart h => s.modHart h fun x => { x with cpu := { x.cpu with near := x.cpu.near.writeWord (o.loc.addr / 8) o.mask o.data } }
  | .dev, _ => s.modStack n.stack fun k => { k with ord := k.ord ++ [⟨n, o.serial, o.loc.addr, o.mask, o.data, none⟩] }
  | _, _ => s.writeLoc o.loc o.mask o.data

/-- Performs the queued stores of a node that meet `p`, oldest first. -/
def State.drainQueue (s : State) (n : Node) (p : QStore → Bool) : State :=
  let q := (s.cpu n).storeQ
  let s := (q.filter p).foldl (fun s o => s.performStore n o) s
  s.modCpu n fun u => { u with storeQ := q.filter fun o => !p o }

/-- The earlier accesses of a node perform for a scope: its queued stores perform, and beyond `stack` its stores at the ordering point, and those whose value its loads returned, reach the channel (R138, R141). -/
def State.drainFor (s : State) (n : Node) (sc : Scope) : State :=
  let s := s.drainQueue n fun _ => true
  match sc with
  | .elem | .col | .stack => s
  | .pkg | .sys =>
    let seen := (s.cpu n).seen
    (s.flushOrd fun o => (o.node == n && o.ag.isNone) || (o.node.stack == n.stack && seen.contains (o.pa / 8))).modCpu n fun u => { u with seen := [] }

/-- The first cycle in which a store issued now performs: in the near store 2 cycles after its issue and its bank wait of at most 4 (R108, R204); for another target the spec gives none. -/
def State.storeDue (s : State) (l : Loc) : Nat := if l.space == .near then s.now + s.colCycles l.col (2 + Config.bankWait s.fresh % 5) else s.now

/-- Queues a store; with 16 outstanding the oldest performs first (R204). -/
def State.queueStore (s : State) (n : Node) (l : Loc) (mask : BitVec 8) (v : DWord) : State :=
  let s := match (s.cpu n).storeQ with
    | o :: _ => if 16 ≤ (s.cpu n).storeQ.length then s.drainQueue n fun x => x.serial == o.serial else s
    | [] => s
  s.modCpu n fun u => { u with serial := u.serial + 1, storeQ := u.storeQ ++ [⟨u.serial + 1, l, mask, v, s.storeDue l⟩] }

/-- `stat`.TAINT is set (R227). -/
def State.setTaint (s : State) (n : Node) (t : Bool) : State :=
  if t then s.modCpu n fun u => { u with taint := true } else s

end Sys2Proof.Machine
end

