-- ==== Sys2Proof/Machine/Rings.lean ====
section
/-! DEFINITION. The rings that the hub writes for software: event queues (R345, R346), trace and statistics rings (R416 to R418), and the trace records themselves. -/

namespace Sys2Proof.Machine

/-- Reset value of a hub register that is kept by address: `satmo` (R151), `dquant`, `dtherm` and `dstarve` (R360); every other register is zero (assumption log 1). -/
def regReset (a : Nat) : DWord :=
  if a = 0x0E0D40 then BitVec.ofNat 64 (2 ^ 32)
  else if a = 0x0E0100 then 200
  else if a = 0x0E0108 then BitVec.ofNat 64 (105 + 95 * 2 ^ 8 + 2 ^ 16)
  else if 0x0E0180 ≤ a ∧ a < 0x0E0200 then 500
  else 0

/-- A hub register. -/
def Hub.reg (h : Hub) (a : Nat) : DWord := lookupD (regReset a) a h.regs
/-- Writes a hub register. -/
def Hub.setReg (h : Hub) (a : Nat) (v : DWord) : Hub := { h with regs := insertKey a v h.regs }

/-- The physical register address of offset `off` of the page of a partition (R347). -/
def partReg (p : PartId) (off : Nat) : Nat := 0x100000 + 0x1000 * p.val + off

/-- A ring's control word enables it: EN is 1 and LOGN lies in its range (R345, R416). -/
def ringOn (ctl : DWord) (bitsN lo hi : Nat) : Bool :=
  let n := bitsNat ctl (bitsN - 1) 0
  ctl.getLsbD 8 && decide (lo ≤ n) && decide (n ≤ hi)

/-- The event queue of a partition is enabled. -/
def Hub.evOn (h : Hub) (p : PartId) : Bool := ringOn (h.reg (partReg p 0x108)) 4 4 16

/-- Entries of a ring of 2^n that software has not consumed. -/
def ringUsed (head tail n : Nat) : Nat := (tail + 2 ^ n - head % 2 ^ n) % 2 ^ n

/-- Entries free in the event queue: it is full when (TAIL + 1) mod 2^LOGN = HEAD (R346). -/
def Hub.evFree (h : Hub) (p : PartId) : Nat :=
  let n := bitsNat (h.reg (partReg p 0x108)) 3 0
  if h.evOn p then 2 ^ n - 1 - ringUsed (bitsNat (h.reg (partReg p 0x110)) 15 0) (h.evTail.get p).toNat n else 0

/-- Writes the oldest held record of a partition into its event queue, then advances TAIL, then sends MSID to MSIA (R346). Without a record or room nothing happens. -/
def State.writeEvent (s : State) (p : PartId) : State :=
  let h := s.hub
  match h.evHeld.get p with
  | [] => s
  | r :: rest =>
    if h.evFree p = 0 then s
    else
      let n := bitsNat (h.reg (partReg p 0x108)) 3 0
      let tail := (h.evTail.get p).toNat
      let base := bitsNat (h.reg (partReg p 0x100)) 45 12 * 2 ^ 12
      let h := h.poke (base + 64 * tail) r.bytes
      let h := { h with evHeld := vset h.evHeld p rest, evTail := vset h.evTail p (BitVec.ofNat 16 ((tail + 1) % 2 ^ n)) }
      { s with hub := { h with signals := h.signals ++ [.msi (h.reg (partReg p 0x120)) (h.reg (partReg p 0x128) &&& 0xFFFFFFFF#64)] } }

/-! Trace and statistics rings. -/

/-- Tracing is on for a partition. -/
def Hub.traceOn (h : Hub) (p : PartId) : Bool := ringOn (h.reg (partReg p 0x208)) 5 8 20
/-- The statistics ring of a partition is on. -/
def Hub.statOn (h : Hub) (p : PartId) : Bool := ringOn (h.reg (partReg p 0x248)) 5 8 20

/-- Adds to a 32-bit saturating register kept by address. -/
def Hub.count32 (h : Hub) (a k : Nat) : Hub := h.bumpReg a false k

/-- Appends bytes, whole 32-byte units, to a ring; without room the record is dropped and counted at `drop` (R416). -/
def Hub.appendRing (h : Hub) (p : PartId) (base : Nat) (tail : Vector Word 8) (bs : List Byte) : Hub × Vector Word 8 :=
  let n := bitsNat (h.reg (partReg p (base + 8))) 4 0
  let on := ringOn (h.reg (partReg p (base + 8))) 5 8 20
  let t := (tail.get p).toNat
  let units := bs.length / 32
  let used := ringUsed (bitsNat (h.reg (partReg p (base + 16))) 31 0) t n
  if !on || 2 ^ n - 1 < used + units then (h.count32 (partReg p (base + 32)) 1, tail)
  else
    let b0 := bitsNat (h.reg (partReg p base)) 45 12 * 2 ^ 12
    let h := (upTo units).foldl (fun h i => h.poke (b0 + 32 * ((t + i) % 2 ^ n)) ((bs.drop (32 * i)).take 32)) h
    (h, vset tail p (BitVec.ofNat 32 ((t + units) % 2 ^ n)))

/-- The 32-byte header of a record of TYPE 1, 2, 4 or 5 (R417, R418). -/
def traceHeader (type source stage code : Nat) (stamp : BitVec 48) (cyc last : DWord) : List Byte :=
  leBytes 8 (type + 2 * 2 ^ 8 + source % 65536 * 2 ^ 16 + stage % 65536 * 2 ^ 32 + code % 2048 * 2 ^ 48) ++
  leBytes 8 stamp.toNat ++ leBytes 8 cyc.toNat ++ leBytes 8 last.toNat

/-- Offers a record to the sink of a stack: 0 accepted, 1 its 64 records are queued, 2 tracing is off; what is not accepted is counted in TRDROP (R207, R416). -/
def State.offerTrace (s : State) (k : StackId) (p : PartId) (bs : List Byte) : Nat × State :=
  if !s.hub.traceOn p then (2, s.modHub fun h => h.count32 (partReg p 0x220) 1)
  else if 64 ≤ (s.stack k).sinkQ.length then (1, s.modHub fun h => h.count32 (partReg p 0x220) 1)
  else (0, s.modStack k fun x => { x with sinkQ := x.sinkQ ++ [⟨p, bs⟩] })

/-- The sink of a stack writes its oldest record to the partition's trace ring. -/
def State.writeTrace (s : State) (k : StackId) : State :=
  match (s.stack k).sinkQ with
  | [] => s
  | r :: rest =>
    let (h, t) := s.hub.appendRing r.part 0x200 s.hub.trTail r.bytes
    { s with hub := { h with trTail := t } }.modStack k fun x => { x with sinkQ := rest }

/-- Appends a statistics record. -/
def State.writeStat (s : State) (p : PartId) (bs : List Byte) : State :=
  let (h, t) := s.hub.appendRing p 0x240 s.hub.stTail bs
  { s with hub := { h with stTail := t } }

end Sys2Proof.Machine
end

