-- ==== Sys2Proof/Machine/Sondes.lean ====
section
/-! DEFINITION. Sondes: their birth, hops, ends and records (R207, R415, R417). A token carries the id of its sonde above which stack keeps it. -/

namespace Sys2Proof.Machine

/-- What a token carries: the 12-bit id, and the stack whose pool it came from above it. -/
def sondeTag (k : StackId) (id : BitVec 16) : BitVec 16 := BitVec.ofNat 16 (id.toNat % 4096 + k.val * 4096)
/-- The stack of a sonde. -/
def sondeStack (tag : BitVec 16) : StackId := fin 3 (tag.toNat / 4096)
/-- The 12-bit id of a sonde. -/
def sondeId (tag : BitVec 16) : Nat := tag.toNat % 4096

/-- The least id, from `i` on, that a pool has free (R415). -/
def freeSonde (used : List (BitVec 16)) : Nat → Nat → Option (BitVec 16)
  | _, 0 => none
  | i, n + 1 => if used.contains (BitVec.ofNat 16 i) then freeSonde used (i + 1) n else some (BitVec.ofNat 16 i)

/-- One hop of a sonde record (R417). -/
def Hop.bytes (h : Hop) : List Byte :=
  leBytes 8 (h.col.val + h.elem.val * 2 ^ 8 + h.ctx.val * 2 ^ 13 + (if h.xstk then 2 ^ 15 else 0) + h.arrive.toNat * 2 ^ 16) ++
  leBytes 8 h.depart.toNat

/-- A sonde record (R417). -/
def Sonde.record (q : Sonde) (reason : Nat) : List Byte :=
  let n := q.hops.length
  let b := q.birth
  leBytes 8 (3 + (1 + (n + 1) / 2) * 2 ^ 8 + b.at_.col.val * 2 ^ 16 + q.id.toNat % 4096 * 2 ^ 32 + n * 2 ^ 44 + reason * 2 ^ 51 +
    (if q.lost then 2 ^ 55 else 0)) ++
  leBytes 8 q.cyc.toNat ++ leBytes 8 q.lclk.toNat ++
  leBytes 8 (q.ord.toNat + q.vch.toNat * 2 ^ 20 + b.at_.elem.val * 2 ^ 25 + b.at_.ctx.val * 2 ^ 30 + b.port.val * 2 ^ 32 +
    q.stage.toNat * 2 ^ 34) ++
  (q.hops.map Hop.bytes).foldl (· ++ ·) [] ++ (if n % 2 = 1 then List.replicate 16 0 else [])

/-- A sonde ends: its id returns to the pool and its record is offered to its stack's sink (R415, R417). -/
def State.endSonde (s : State) (tag : BitVec 16) (reason : Nat) : State :=
  let k := sondeStack tag
  match (s.stack k).sondes.find? fun q => q.id.toNat == sondeId tag with
  | none => s
  | some q =>
    let s := s.modStack k fun x => { x with sondes := x.sondes.filter fun y => y.id != q.id }
    (s.offerTrace k (s.partOf (.col q.birth.at_.col)) (q.record reason)).2

/-- Ends the sonde of a token, if it carries one. -/
def State.endTokSonde (s : State) (t : Token) (reason : Nat) : State :=
  match t.sonde with
  | some g => s.endSonde g reason
  | none => s

/-- A hop of a sonde at an element context: logged unless class 5 admits no report or the sink is full (R415). Times are nominal cycles, given as the stack's `cyc`. -/
def State.hopSonde (s : State) (tag : BitVec 16) (r : CtxRef) (arrive depart : Nat) : State :=
  let k := sondeStack tag
  let here := stackOf r.col
  let at_ (t : Nat) : BitVec 48 := BitVec.ofNat 48 ((s.cyc here).toNat + t + 2 ^ 64 - s.now)
  let ok := (s.col r.col).admitsL 5 1 && decide ((s.stack here).sinkQ.length < 64)
  let s := if ok then s.modCol r.col fun x => x.chargeL 5 1 else s
  let log (q : Sonde) : Sonde :=
    let prev : StackId := match q.hops.getLast? with
      | some h => stackOf h.col
      | none => stackOf q.birth.at_.col
    if ok then { q with hops := q.hops ++ [⟨r.col, r.elem, r.ctx, prev != here, at_ arrive, at_ depart⟩] } else { q with lost := true }
  let s := s.modStack k fun x => { x with sondes := x.sondes.map fun q => if q.id.toNat = sondeId tag then log q else q }
  match (s.stack k).sondes.find? fun q => q.id.toNat == sondeId tag with
  | some q => if 64 ≤ q.hops.length then s.endSonde tag 3 else s
  | none => s

end Sys2Proof.Machine
end

