-- ==== Sys2Proof/Machine/Routes.lean ====
section
/-! DEFINITION. Switch words and output routes (R188, R302 to R311): their shapes, where a token goes, the free space of an output port, and the emission of a token with its credits (R48 to R50). -/

namespace Sys2Proof.Machine

/-- A switch word's fields (R188). -/
structure SW where
  form : Nat
  elem : Nat
  port : Nat
  cmap : Nat
  x : Nat
  deriving DecidableEq, Repr

/-- The fields of a switch word. -/
def swOf (h : Half) : SW := ⟨bitsNat h 15 12, bitsNat h 11 7, bitsNat h 6 5, bitsNat h 4 3, bitsNat h 2 0⟩

/-- The fields that the form requires to be zero are zero (R303). -/
def SW.ok (w : SW) : Bool :=
  match w.form with
  | 0 | 3 | 4 => w.elem == 0 && w.port == 0 && w.cmap == 0 && w.x == 0
  | 1 | 9 => w.elem == 0 && w.port == 0 && w.cmap == 0 && w.x < 2
  | 2 | 5 | 6 | 10 => true
  | 7 => w.cmap == 0 && w.x == 0
  | 8 => w.elem == 0 && w.port == 0 && w.cmap < 3 && 1 ≤ w.x && w.x ≤ (if w.cmap = 0 then 5 else if w.cmap = 1 then 4 else 3)
  | _ => false

/-- A destination word (R302). -/
def SW.isDest (w : SW) : Bool := w.form == 2 || w.form == 7 || w.form == 9 || (w.form == 1 && w.x == 0)

/-- The head of a route. -/
inductive Head where
  | none
  | dests (ws : List SW)
  | deal (w : SW)
  | gather (w : SW)
  deriving DecidableEq, Repr

/-- A route: the corner turn, the head and the statistics destination. -/
structure Route where
  turn : Option SW
  head : Head
  stat : Option SW
  deriving DecidableEq, Repr

/-- No route. -/
def Route.none : Route := ⟨.none, .none, .none⟩

/-- The end of a route: an optional `stat`, then `null` words (R302). -/
def routeTail (allowStat : Bool) : List SW → Option (Option SW)
  | [] => some .none
  | w :: ws =>
    if w.form = 10 ∧ allowStat then (if ws.all fun v => v.form == 0 then some (some w) else .none)
    else if (w :: ws).all fun v => v.form == 0 then some .none else .none

/-- The head of a route and what follows it. -/
def routeHead : List SW → Option (Head × List SW)
  | [] => .none
  | w :: ws =>
    if w.isDest then some (.dests [w], ws)
    else match w.form, ws with
      | 3, a :: b :: r => if a.isDest && b.isDest then some (.dests [a, b], r) else .none
      | 4, a :: b :: c :: d :: r =>
        if a.isDest && b.isDest && c.isDest && d.isDest then some (.dests [a, b, c, d], r) else .none
      | 5, r => some (.deal w, r)
      | 6, r => some (.gather w, r)
      | _, _ => .none

/-- A route of a permitted shape, without the FO case (R302): a port without switch words has no route, and one of `null` words alone has no head and so no permitted shape. -/
def parseRoute (allowStat : Bool) (ws : List SW) : Option Route :=
  if !(ws.all SW.ok) then .none
  else if ws.isEmpty then some .none
  else
    let (t, ws) := match ws with
      | w :: r => if w.form = 8 then (some w, r) else (.none, ws)
      | [] => (.none, ws)
    match routeHead ws with
    | .none => .none
    | some (h, r) =>
      match routeTail allowStat r with
      | .none => .none
      | some st => some ⟨t, h, st⟩

/-- The route begins with `pass fo` (R311). -/
def isFo (hs : List Half) : Bool :=
  match hs with
  | h :: _ => h == 0x1001#16
  | [] => false

/-- The route of an output port, or of FO where the route begins with `pass fo`: the answer of `routeOf` for such a port is no route (R302, R311). -/
def routeOf (hs : List Half) : Route := if isFo hs then .none else (parseRoute true (hs.map swOf)).getD .none
/-- The FO route. -/
def foRouteOf (hs : List Half) : Route := (parseRoute false ((hs.drop 1).map swOf)).getD .none

/-- The route whose tokens an output port's corner turn takes: the FO route where the port holds one, else its own (R309, R311). -/
def turnRoute (hs : List Half) : Route := if isFo hs then foRouteOf hs else routeOf hs

/-- The shape is permitted (R302, R311). -/
def routeOk (hs : List Half) : Bool :=
  if isFo hs then
    (match parseRoute false ((hs.drop 1).map swOf) with
     | some r => !((match r.head with | .dests ws => ws | _ => []).any fun w => w.form == 1)
     | .none => false)
  else (parseRoute true (hs.map swOf)).isSome

/-- The output port forwards markers: it has a head (R302). -/
def Route.hasHead (r : Route) : Bool := match r.head with | .none => false | _ => true

/-! Where a token goes. -/

/-- A destination of a token: what takes it, the counter it draws on, the latency, and the VCH that the route gives. -/
structure Hop1 where
  dest : Dest
  cred : Feeder
  lat : Nat
  vch : BitVec 5
  deriving DecidableEq, Repr

/-- Outcome of one destination word: a destination, a discard, a trace record, or an exit entry that is not in use. -/
inductive Target1 where
  | go (h : Hop1)
  | discard
  | trace
  | dead
  deriving DecidableEq, Repr

/-- The port that a word with ELEM, PORT and CMAP names from context `c`, where `tagctx` may replace the context (R304). -/
def SW.portRef (w : SW) (col : ColId) (c : CtxId) (tag : Option CtxId) : PortRef :=
  ⟨⟨col, fin 31 w.elem, tag.getD (fin 3 (c.val + w.cmap))⟩, fin 3 w.port⟩

/-- VCH of a word (R304). -/
def SW.vch (w : SW) : BitVec 5 := BitVec.ofNat 5 (4 * w.x + w.port)

/-- The latency of an exit entry (R308). -/
def exitL (e : DWord) : Nat := bitsNat e 39 31
/-- The landing port of an exit entry. -/
def exitPort (e : DWord) : PortRef :=
  ⟨⟨fin 255 (bitsNat e 7 0), fin 31 (bitsNat e 12 8), fin 3 (bitsNat e 21 20)⟩, fin 3 (bitsNat e 14 13)⟩

/-- Where an exit of a column leads (R308, R128). -/
def Column.exitTo (x : Column) (c : ColId) (i : Fin 128) : Target1 :=
  let e := x.exits.get i
  if !e.getLsbD 63 then .dead
  else match x.exitTe.find? fun t => t.1 == i.val with
    | some (_, k, t) => .go ⟨.engine k t, .exit c i, exitL e, field e 15 5⟩
    | none => .go ⟨.port (exitPort e), .exit c i, exitL e, field e 15 5⟩

/-- Where one destination word leads. -/
def Column.follow (x : Column) (c : ColId) (from_ : CtxId) (tag : Option CtxId) (w : SW) : Target1 :=
  match w.form with
  | 2 => let p := w.portRef c from_ tag; .go ⟨.port p, .port p, 1, w.vch⟩
  | 7 => x.exitTo c (fin 127 (w.elem * 4 + w.port))
  | 1 => .go ⟨.frost c, .frost c, 1, 0⟩
  | _ => if w.x = 1 then .trace else .discard

/-- A context of a column. -/
def Column.ctx (x : Column) (e : ElemId) (c : CtxId) : Ctx := (x.elems.get e).ctxs.get c

/-- Replicas of the context that a `deal` word names: its REP as it stands (R306). -/
def Column.dealR (x : Column) (c : CtxId) (w : SW) : Nat := hRep (x.ctx (fin 31 w.elem) (fin 3 (c.val + w.cmap))).hdr

/-- Where replica r of a `deal` is reached: in this column, in the context that `tagctx` may have chosen, or through the exit that the mapper reserved (R304, R306). -/
def Column.dealTo (x : Column) (c : ColId) (e : ElemId) (from_ : CtxId) (o : PortId) (w : SW) (tag : Option CtxId) (r : Nat) : Target1 :=
  if w.elem + r < 32 then
    let p : PortRef := ⟨⟨c, fin 31 (w.elem + r), tag.getD (fin 3 (from_.val + w.cmap))⟩, fin 3 w.port⟩
    .go ⟨.port p, .port p, 1, w.vch⟩
  else match x.spill.find? fun q => q.1 == e.val && q.2.1 == from_.val && q.2.2.1 == o.val && q.2.2.2.1 == r with
    | some q => x.exitTo c (fin 127 q.2.2.2.2)
    | none => .dead

/-- The key of a gather point: the port it feeds. -/
def Gather.key (g : Gather) : Nat := g.dest.at_.elem.val * 16 + g.dest.at_.ctx.val * 4 + g.dest.port.val

/-- Where a `gather` word leads: a slot of the point of its destination, in this column or through a reserved exit (R307). -/
def Column.gatherTo (x : Column) (c : ColId) (e : ElemId) (from_ : CtxId) (o : PortId) (w : SW) : Target1 :=
  match x.spill.find? fun q => q.1 == e.val && q.2.1 == from_.val && q.2.2.1 == o.val with
  | some q =>
    match x.exitTo c (fin 127 q.2.2.2.2) with
    | .go h => match h.dest with
      | .port p => .go { h with dest := .gather p.at_.col (p.at_.elem.val * 16 + p.at_.ctx.val * 4 + p.port.val) q.2.2.2.1 }
      | _ => .dead
    | t => t
  | none =>
    let p := w.portRef c from_ none
    let key := p.at_.elem.val * 16 + p.at_.ctx.val * 4 + p.port.val
    match x.gathers.find? fun g => g.key == key with
    | some g =>
      let j := ((e.val : Int) - g.base).toNat
      .go ⟨.gather c key j, .gather c key j, 1, w.vch⟩
    | none => .dead

/-! Free space (R49, R50, R304 to R311). -/

/-- More than any counter: a destination that never lacks room. -/
def roomy : Nat := 1000000

/-- The value of a counter. -/
def State.freeOf (s : State) : Feeder → Nat
  | .port p => ((s.ctx p.at_).q.get p.port).free
  | .exit c i => (s.col c).exitFree.get i
  | .gather c k j => match (s.col c).gathers.find? fun g => g.key == k with
    | some g => nth 0 g.free j
    | none => 0
  | .turn c k => ((s.col c).turns.get k).free
  | .frost c => (s.col c).fab.free
  | .inj c k => ((s.col c).injPort k).free
  | .free => roomy

/-- A counter changed through `f`. -/
def State.modFree (s : State) (fd : Feeder) (f : Nat → Nat) : State :=
  match fd with
  | .port p => s.modCtx p.at_ fun x => { x with q := vmod x.q p.port fun q => { q with free := f q.free } }
  | .exit c i => s.modCol c fun x => { x with exitFree := vmod x.exitFree i f }
  | .gather c k j => s.modCol c fun x => { x with gathers := x.gathers.map fun g => if g.key = k then { g with free := modNth f j g.free } else g }
  | .turn c k => s.modCol c fun x => { x with turns := vmod x.turns k fun t => { t with free := f t.free } }
  | .frost c => s.modCol c fun x => { x with fab := { x.fab with free := f x.fab.free } }
  | .inj c k => s.modCol c fun x => x.modInj k fun p => { p with free := f p.free }
  | .free => s

/-- The free space at a target; a discard, a trace record and an unused exit never lack room. -/
def State.room (s : State) : Target1 → Nat
  | .go h => s.freeOf h.cred
  | _ => roomy

/-- The corner-turn buffer that an output port owns. -/
def Column.turnOf (x : Column) (p : PortRef) : Option (Fin 4) :=
  match indexOf? (fun t => t.owner == some p) x.turns.toList with
  | some i => some (fin 3 i)
  | none => none

/-- Free space of a head. `tags` are the contexts that `tagctx` may choose. -/
def State.headFree (s : State) (c : ColId) (e : ElemId) (from_ : CtxId) (o : PortId) (h : Head) (tags : List CtxId) : Nat :=
  let x := s.col c
  match h with
  | .none => 0
  | .dests ws => minList roomy (ws.map fun w =>
      if w.form = 2 && !tags.isEmpty then minList roomy (tags.map fun t => s.room (x.follow c from_ (some t) w))
      else s.room (x.follow c from_ none w))
  | .deal w => minList roomy ((upTo (x.dealR from_ w)).map fun r =>
      if tags.isEmpty then s.room (x.dealTo c e from_ o w none r)
      else minList roomy (tags.map fun t => s.room (x.dealTo c e from_ o w (some t) r)))
  | .gather w => s.room (x.gatherTo c e from_ o w)

/-- Free space of an output port of a context (R44, R49). -/
def State.portFree (s : State) (r : CtxRef) (o : PortId) (tags : List CtxId) : Nat :=
  let rt := routeOf ((s.ctx r).routes.get o)
  match rt.turn with
  | some _ => match (s.col r.col).turnOf ⟨r, o⟩ with
    | some k => ((s.col r.col).turns.get k).free
    | none => 0
  | none => s.headFree r.col r.elem r.ctx o rt.head tags

/-! Emission. -/

/-- Counts a dropped token of an element (R46). -/
def State.countDrop (s : State) (c : ColId) (e : ElemId) (k : Nat) : State :=
  s.modElem c e fun x => { x with droptok := satInc x.droptok k }

/-- The L of a counter, for the credit's way back (R50). -/
def State.creditL (s : State) : Feeder → Nat
  | .exit c i => exitL ((s.col c).exits.get i)
  | _ => 1

/-- Returns the credit of a token consumed in cycle `t` (R50). -/
def State.credit (s : State) (fd : Feeder) (t : Nat) : State :=
  match fd with
  | .free => s
  | _ => { s with credits := s.credits ++ [⟨fd, t + s.creditL fd⟩] }

/-- A scroll marker that leaves through an exit carries the lap and stage of the receiving slot's next stage (R74). -/
def State.scrollPayload (s : State) (t : Token) (d : Dest) : Token :=
  if t.marker && t.sub == 6#4 then
    match d with
    | .port p =>
      let x := s.col p.at_.col
      let seq := x.drift.seq
      let i := (indexOf? (fun r : StageRes => r.stage == x.drift.hosted) seq).getD 0
      let next := match seq[i + 1]? with | some r => some r | none => seq.head?
      match next, x.band with
      | some r, some b => { t with payload := BitVec.ofNat 256 (r.stage / (Nat.max b.size 1) % 65536 + r.stage % 65536 * 2 ^ 16) }
      | _, _ => t
    | _ => t
  else t

/-- The counter of a corner-turn buffer as a token is sent to it (R309): a marker behind data tokens cuts their block, and takes every credit that is left, since the buffer accepts no new block while it empties. -/
def Turn.taken (t : Turn) (marker : Bool) : Turn :=
  if !marker then { t with free := t.free - 1, sent := (t.sent + 1) % 2 ^ t.k }
  else if t.sent = 0 then { t with free := t.free - 1 }
  else { t with free := 0, sent := 0, cut := t.free }

/-- The counter that a token draws on goes down (R50). -/
def State.drawFree (s : State) (fd : Feeder) (marker : Bool) : State :=
  match fd with
  | .turn c k => s.modCol c fun x => { x with turns := vmod x.turns k fun t => t.taken marker }
  | _ => s.modFree fd (· - 1)

/-- Sends a token, emitted in cycle `t`, towards a target; `e` is the element that counts a drop (R304 to R310). -/
def State.sendTo (s : State) (c : ColId) (e : ElemId) (ctx : CtxId) (tok : Token) (t : Nat) : Target1 → State
  | .go h =>
    let leaves := match h.cred with | .exit _ _ => true | _ => false
    let tok := if leaves then s.scrollPayload tok h.dest else tok
    let tok := if tok.vchSet || (match h.dest with | .frost _ => true | _ => false) then tok else { tok with vch := h.vch }
    let s := s.drawFree h.cred tok.marker
    { s with flights := s.flights ++ [⟨tok, h.dest, h.cred, t + h.lat⟩] }
  | .discard => if tok.marker then s else (s.countDrop c e 1).endTokSonde tok 0
  | .dead => (s.countDrop c e 1).endTokSonde tok 0
  | .trace =>
    if tok.marker then s
    else
      let n := Node.col c
      let p := s.partOf n
      let k := stackOf c
      let hdr := traceHeader 2 c.val (s.stageOf n) 0 (s.cpu n).lclk (s.cyc k) (tok.header ⟨⟨c, e, ctx⟩, 0⟩)
      ((s.offerTrace k p (hdr ++ leBytes 32 tok.payload.toNat)).2.modCol c fun x => x.chargeL 5 2).endTokSonde tok 0

/-- Only the copy to the first destination carries a sonde (R415). -/
def dropSonde (first : Bool) (t : Token) : Token := if first then t else { t with sonde := none }

/-- Sends a token to every target of a list. -/
def State.sendAll (s : State) (c : ColId) (e : ElemId) (ctx : CtxId) (tok : Token) (t : Nat) : Bool → List Target1 → State
  | _, [] => s
  | first, x :: xs => (s.sendTo c e ctx (dropSonde first tok) t x).sendAll c e ctx tok t false xs

/-- Sends a token from a head. `tag` is the context that `tagctx` chose (R286); at a gather point it stays with the token. -/
def State.sendHead (s : State) (r : CtxRef) (o : PortId) (h : Head) (tag : Option CtxId) (tok : Token) (t : Nat) : State :=
  let x := s.col r.col
  let tok := { tok with tag := match h with | .gather _ => tag | _ => none }
  match h with
  | .none => s
  | .dests ws => s.sendAll r.col r.elem r.ctx tok t true (ws.map fun w => x.follow r.col r.ctx tag w)
  | .deal w =>
    let R := x.dealR r.ctx w
    if tok.marker then
      (s.sendAll r.col r.elem r.ctx tok t true ((upTo R).map fun i => x.dealTo r.col r.elem r.ctx o w none i)).modCtx r
        fun k => { k with deal := vset k.deal o 0 }
    else
      let n := (x.ctx r.elem r.ctx).deal.get o
      (s.sendTo r.col r.elem r.ctx tok t (x.dealTo r.col r.elem r.ctx o w tag (n % R))).modCtx r
        fun k => { k with deal := vset k.deal o (n + 1) }
  | .gather w => s.sendTo r.col r.elem r.ctx tok t (x.gatherTo r.col r.elem r.ctx o w)

/-- Adds one data token to the breakpoint units that watch an output port: the units that hit (R408). -/
def State.countBpts (s : State) (r : CtxRef) (o : PortId) : List Nat × State :=
  let x := s.col r.col
  let watch (b : Bpt) : Bool := b.ctl.getLsbD 63 && bitsNat b.ctl 36 35 == o.val && bitsNat b.ctl 34 33 == r.ctx.val &&
    bitsNat b.ctl 32 28 == r.elem.val
  let bs := vmap (fun b => if watch b then
      let n := satInc b.count 1
      { b with count := n, ctl := if n.toNat = bitsNat b.ctl 27 0 then putBit b.ctl 60 true else b.ctl } else b) x.dbg.bpts
  let hits := (upTo 4).filter fun i => watch (x.dbg.bpts.get (fin 3 i)) && (bs.get (fin 3 i)).count.toNat == bitsNat (bs.get (fin 3 i)).ctl 27 0
  (hits, s.modCol r.col fun x => { x with dbg := { x.dbg with bpts := bs } })

/-- A squall of a column's band starts, unless one is in progress (R409). -/
def State.startSquall (s : State) (c : ColId) : State :=
  match (s.col c).band with
  | none => s
  | some b =>
    let id := s.cyc (stackOf c)
    if s.hub.squalls.any fun q => q.1 == b.task then s
    else
      let s := s.modHub fun h => { h with squalls := h.squalls ++ [(b.task, s.now)] }
      let begin_ (d : Debug) : Debug := { d with squall := some id, squallAt := s.now, arrived := false, inexact := false, sqstop := false }
      { s with cols := vmap (fun y => match y.band with
          | some b' => if b'.task = b.task then { y with dbg := begin_ y.dbg } else y
          | none => y) s.cols }

/-- A breakpoint unit acts: a class-18 message, a squall of the band, or a stop of the context; it only counts without DBG (R408). -/
def State.bptAct (s : State) (r : CtxRef) (tok : Token) (u : Nat) : State :=
  let x := s.col r.col
  match x.band with
  | none => s
  | some b =>
    if !b.dbg then s
    else
      let ctl := (x.dbg.bpts.get (fin 3 u)).ctl
      match bitsNat ctl 62 61 with
      | 1 => s.selfQueue (.col r.col) (selfMsg (.col r.col) 18 2 (BitVec.ofNat 64 u) (BitVec.setWidth 64 tok.ord) none)
      | 2 => s.startSquall r.col
      | 3 => s.modCtx r fun k => { k with stopped := true }
      | _ => s

/-- Sampling of an output port: every 2^k-th data token is born a sonde if an id is free, and SNDROP counts it otherwise (R207, R415). -/
def State.sample (s : State) (r : CtxRef) (o : PortId) (tok : Token) : Token × State :=
  let x := s.col r.col
  match x.sampling.find? fun q => q.port == ⟨r, o⟩ with
  | none => (tok, s)
  | some q =>
    let n := q.n + 1
    let s := s.modCol r.col fun x => { x with sampling := x.sampling.map fun y => if y.port = ⟨r, o⟩ then { y with n := n } else y }
    if n % 2 ^ q.k ≠ 0 || tok.sonde.isSome then (tok, s)
    else
      let k := stackOf r.col
      match freeSonde ((s.stack k).sondes.map (·.id)) 0 4096 with
      | none => (tok, s.modStack k fun y => { y with sndrop := satInc y.sndrop 1 })
      | some id =>
        let sd : Sonde := { id := id, birth := ⟨r, o⟩, cyc := s.cyc k, lclk := x.cpu.lclk, ord := tok.ord, vch := tok.vch, stage := BitVec.ofNat 16 x.drift.hosted, hops := [], lost := false }
        ({ tok with sonde := some (sondeTag k id) }, s.modStack k fun y => { y with sondes := y.sondes ++ [sd] })

/-- EMISSION of a token on an output port of a context in cycle `t`: breakpoint units and sondes see it, the output link is charged, and it goes where the route leads (R43, R50, R352, R408, R415). -/
def State.emitOn (s : State) (r : CtxRef) (o : PortId) (tag : Option CtxId) (tok : Token) (t : Nat) : State :=
  let (hits, s) := if tok.marker then ([], s) else s.countBpts r o
  let (tok, s) := if tok.marker then (tok, s) else s.sample r o tok
  let s := s.modCol r.col fun x => x.chargeL 0 1
  let rt := routeOf ((s.ctx r).routes.get o)
  let s := match rt.turn with
    | some _ => match (s.col r.col).turnOf ⟨r, o⟩ with
      | some k => s.sendTo r.col r.elem r.ctx { tok with tag := tag } t (.go ⟨.turn r.col k, .turn r.col k, 1, tok.vch⟩)
      | none => s
    | none => s.sendHead r o rt.head tag tok t
  hits.foldl (fun s u => s.bptAct r tok u) s

/-- The data port of a stream's tokens (R119). -/
def Stream.dout (m : Stream) : PortId := fin 3 (bitsNat m.d2 15 14)

/-- Forwards a marker on every output port of a context that has a head (R52, R302). -/
def State.forwardMarker (s : State) (r : CtxRef) (m : Token) (t : Nat) : State :=
  (upTo 4).foldl (fun s k =>
    let o := fin 3 k
    let x := s.ctx r
    if (routeOf (x.routes.get o)).hasHead then
      let m := { m with ord := x.ord.get o, vch := 0, vchSet := false, sonde := none }
      let reset := m.sub == 0#4 || m.sub == 2#4
      (s.emitOn r o none m t).modCtx r fun x =>
        { x with ord := vset x.ord o (x.ord.get o + 1), blk := if reset then vset x.blk o 0 else x.blk,
                 strm := x.strm.map fun k => if reset && k.dout == o then { k with blk := 0 } else k }
    else s) s

end Sys2Proof.Machine
end

