-- ==== Sys2Proof/Machine/Slots.lean ====
section
/-! DEFINITION. The slots of the vertical ports: who may use one, and in which order (R71, R72, R112, R113, R294). A slot that its owner leaves is known to be free when its cycle has ended, so a user of free slots takes the slot of the cycle before (assumption log 76). -/

namespace Sys2Proof.Machine

/-- The number of a port's slot in this cycle, or `back` cycles ago (R112). -/
def State.slotNo (s : State) (c : ColId) (port back : Nat) : Nat := port * 4 + ((s.cyc (stackOf c)).toNat + 3 * back) % 4

/-- The slot is reserved. -/
def Column.slotReserved (x : Column) (slot : Nat) : Bool := x.resv.any fun q => q.1 == slot

/-- The slot of cycle `t` has been taken. -/
def Column.slotTaken (x : Column) (port t : Nat) : Bool := (x.vslot.get (fin 3 port)).contains t

/-- The slot of cycle `t` is taken; older ones are forgotten. -/
def State.takeSlot (s : State) (c : ColId) (port t : Nat) : State :=
  s.modCol c fun x => { x with vslot := vmod x.vslot (fin 3 port) fun l => t :: l.filter fun k => decide (s.now ≤ k + 1) }

/-- A port that a running refill of the column waits for (R258). -/
def State.refillAt (s : State) (c : ColId) : Option Nat :=
  match (s.stack (stackOf c)).lse with
  | some f =>
    let go := f.r.col == c && !f.fault && f.paused.isNone && f.deferred.isNone && decide (f.next < f.r.pieces) &&
      (s.col c).shelfOn f.r.shelf
    if go && (s.col c).admitsV 2 (f.r.shelf / 4) then some (f.r.shelf / 4) else none
  | none => none

/-- A port that a debug access of the column waits for (R413). -/
def Column.debugAt (x : Column) : Option Nat :=
  match x.dbg.pending with
  | some _ => (vertDecode (bitsNat x.dbg.dbaddr 27 0)).map vLayer
  | none => none

/-- The users of free slots in the order of R71: the sequencer, restores and saves, the layer-swap engine, debug accesses, stream accesses without a slot of their own. -/
inductive SlotUser where
  | sequencer | drift | refill | debug | stream
  deriving DecidableEq, Repr

/-- The rank of R71, restores and saves together. -/
def SlotUser.rank : SlotUser → Nat
  | .sequencer => 1 | .drift => 2 | .refill => 4 | .debug => 5 | .stream => 6

/-- A page load of the frost fabric still reads in cycle `t` (R164). -/
def Column.pageReads (x : Column) (t : Nat) : Bool := match x.fab.load with | some l => decide (t + 24 < l.due) | none => false

/-- A user of a better rank waits for the slot of cycle `t`. A page load, restore or save in progress has every slot that is not reserved (R72, R164). -/
def State.outranked (s : State) (c : ColId) (port : Nat) (reserved : Bool) (u : SlotUser) (t : Nat) : Bool :=
  let x := s.col c
  (decide (1 < u.rank) && x.vseq == some (port, t)) ||
  (decide (1 < u.rank) && !reserved && x.pageReads t) ||
  (decide (2 < u.rank) && !reserved && decide (t < x.drift.moveTill)) ||
  (decide (4 < u.rank) && s.refillAt c == some port) ||
  (decide (5 < u.rank) && x.debugAt == some port)

/-- The slot of the last cycle fell free, and no user of a better rank waits for it. -/
def State.slotFell (s : State) (c : ColId) (port : Nat) (u : SlotUser) : Bool :=
  decide (0 < s.now) && !(s.col c).slotTaken port (s.now - 1) &&
  !s.outranked c port ((s.col c).slotReserved (s.slotNo c port 1)) u (s.now - 1)

/-- A request of a stream, issued in cycle `born`, is given a slot of a port: one reserved to its context, or, where none is, one that fell free (R112, R294). The cycle whose slot it is, and the state after it. -/
def State.giveSlot (s : State) (r : CtxRef) (born port : Nat) : Option (Nat × State) :=
  let x := s.col r.col
  let mine (q : Nat × Nat × Nat) : Bool := q.2.1 == r.elem.val && q.2.2 == r.ctx.val
  if x.resv.any fun q => mine q && q.1 / 4 == port then
    if (x.resv.any fun q => mine q && q.1 == s.slotNo r.col port 0) && !x.slotTaken port s.now then some (s.now, s.takeSlot r.col port s.now) else none
  else if born < s.now && s.slotFell r.col port .stream then some (s.now - 1, s.takeSlot r.col port (s.now - 1))
  else none

/-- A sequencer's access is given a slot of a port (R71, R113): the slot of this cycle if it is reserved to no one, or else, once it has waited, the slot of the last cycle that fell free. The cycle whose slot it is. -/
def State.seqSlot (s : State) (c : ColId) (port : Nat) : Option Nat :=
  let x := s.col c
  if x.vseq = some (port, s.now - 1) && s.slotFell c port .sequencer then some (s.now - 1)
  else if !x.slotReserved (s.slotNo c port 0) && !x.slotTaken port s.now then some s.now
  else none

/-- A sequencer's access takes its slot; it lengthens a save or restore in progress by up to one cycle (R72). -/
def State.takeSeqSlot (s : State) (c : ColId) (port t : Nat) : State :=
  let s := (s.takeSlot c port t).modCol c fun x => { x with vseq := none }
  if t < (s.col c).drift.moveTill then
    s.tick.modCol c fun x => { x with drift := { x.drift with moveTill := x.drift.moveTill + Config.portWait s.fresh % 2 } }
  else s

end Sys2Proof.Machine
end

