-- ==== Sys2Proof/Machine/Translate.lean ====
section
/-! DEFINITION. Page tables, the walk and the translation buffers (R371 to R375). -/

namespace Sys2Proof.Machine

/-- The state of a leaf entry (R373). -/
inductive PageState where
  | present | transit | compressed | flash | absent
  deriving DecidableEq, Repr

/-- Entry fields (R372). -/
def pteV (e : DWord) : Bool := e.getLsbD 63
def pteLeaf (e : DWord) : Bool := e.getLsbD 62
def pteTaint (e : DWord) : Bool := e.getLsbD 59
def pteTransit (e : DWord) : Bool := e.getLsbD 58
def pteComp (e : DWord) : Bool := e.getLsbD 57
def pteFlash (e : DWord) : Bool := e.getLsbD 56
def pteContig (e : DWord) : Bool := e.getLsbD 55
def pteD (e : DWord) : Bool := e.getLsbD 53
def ptePa (e : DWord) : Nat := bitsNat e 45 12 * 4096

/-- DISC of an entry; none for the reserved code (R372). -/
def pteDisc (e : DWord) : Option Disc :=
  match bitsNat e 61 60 with
  | 0 => some .ro | 1 => some .sa | 2 => some .pl | _ => none

/-- The state that V, FLASH, TRANSIT and COMP give; none for any other combination (R373). -/
def pteState (e : DWord) : Option PageState :=
  match pteV e, pteFlash e, pteTransit e, pteComp e with
  | true, false, false, false => some .present
  | true, false, true, _ => some .transit
  | true, false, false, true => some .compressed
  | false, true, false, false => some .flash
  | false, false, false, false => some .absent
  | _, _, _, _ => none

/-- A leaf's `res0` bits. A compressed image lies at a 64-byte boundary and a flash entry's low bits hold FBA, so those bits are in use there (assumption log 11). -/
def pteRes0 (e : DWord) : Bool :=
  bitsNat e 52 46 == 0 && (pteFlash e || (if pteComp e then bitsNat e 5 0 == 0 else bitsNat e 11 0 == 0))

/-- Entry fields that a CONTIG group agrees in: all but PA, A and D (R371). -/
def pteCommon (e : DWord) : DWord := e &&& 0xFF9FC00000000FFF#64

/-- Where a walk ends: at a leaf, with its entry's address, its level and the size of the page as a power of two. -/
structure Leaf where
  ent : DWord
  addr : Nat
  bits : Nat
  st : PageState
  disc : Disc
  deriving DecidableEq, Repr

/-- How a walk ends. -/
inductive Walk where
  | leaf (l : Leaf)
  /-- a table entry with V = 0 above the leaves: nothing is mapped -/
  | absent
  | bad
  deriving DecidableEq, Repr

/-- A CONTIG group of 16 entries at table address `t`, around index `i`, with pages of 2^b bytes, keeps R371. -/
def contigOk (h : Hub) (t i b : Nat) : Bool :=
  let i0 := i / 16 * 16
  let e0 := h.peekW (t + 8 * i0)
  (upTo 16).all fun k =>
    let e := h.peekW (t + 8 * (i0 + k))
    if pteFlash e0 || pteComp e0 then (pteCommon e >>> 46) == (pteCommon e0 >>> 46)
    else pteCommon e == pteCommon e0 && ptePa e == ptePa e0 + k * 2 ^ b

/-- A leaf entry judged (R373). `b` is the size of one entry's page, as a power of two. -/
def judgeLeaf (h : Hub) (t i b : Nat) (e : DWord) : Walk :=
  let c := pteContig e
  let ok := pteRes0 e && (!c || (b != 30 && contigOk h t i b)) &&
    (!(pteComp e || pteFlash e) || (b == 12 && c))
  match pteState e, pteDisc e with
  | some st, some d => if ok then .leaf ⟨e, t + 8 * i, if c then b + 4 else b, st, d⟩ else .bad
  | _, _ => .bad

/-- The walk from a table at a level (R371 to R373); `n` levels remain. -/
def walkFrom (h : Hub) (va : Nat) : Nat → Nat → Walk
  | 0, _ => .bad
  | n + 1, t =>
    -- n = 3 at level 0, 0 at level 3
    let b := 12 + 9 * n
    let i := va / 2 ^ b % 512
    let e := h.peekW (t + 8 * i)
    if pteLeaf e then (if n = 3 then .bad else judgeLeaf h t i b e)
    else if n = 0 then .bad
    else if bitsNat e 61 46 ≠ 0 || bitsNat e 11 0 ≠ 0 then .bad
    else if !pteV e then .absent
    else walkFrom h va n (ptePa e)

/-- The walk of an address from a root table. -/
def walk (h : Hub) (root va : Nat) : Walk := walkFrom h va 4 root

/-- The physical address that a present leaf gives an address. -/
def Leaf.pa (l : Leaf) (h : Hub) (va : Nat) : Nat :=
  if pteContig l.ent then
    let i0 := l.addr / 128 * 128
    ptePa (h.peekW i0) / 2 ^ l.bits * 2 ^ l.bits + va % 2 ^ l.bits
  else ptePa l.ent / 2 ^ l.bits * 2 ^ l.bits + va % 2 ^ l.bits

/-- Sets A, and D for a write, in an entry: one write at its channel (R373). -/
def markEntry (h : Hub) (addr : Nat) (write : Bool) : Hub :=
  let e := h.peekW addr
  let e := putBit e 54 true
  let e := if write then putBit e 53 true else e
  h.poke addr (leBytes 8 e.toNat)

/-- The table that the walker cache names for an address at the level whose entries map 2^b bytes (R374). -/
def Hub.cachedTable (h : Hub) (asid : BitVec 16) (va b : Nat) : Option Nat :=
  (h.wcache.find? fun e => e.size == b && e.asid == asid && e.va / 2 ^ b == va / 2 ^ b).map (·.pa)

/-- The hub walker's walk: it goes past the levels that its cache holds, and reads the others. With the outcome, the non-leaf entries that it read (R374). -/
def walkVia (h : Hub) (asid : BitVec 16) (va : Nat) : Nat → Nat → Walk × List TlbEntry
  | 0, _ => (.bad, [])
  | n + 1, t =>
    let b := 12 + 9 * n
    match (if n = 0 then none else h.cachedTable asid va b) with
    | some t' => walkVia h asid va n t'
    | none =>
      let i := va / 2 ^ b % 512
      let e := h.peekW (t + 8 * i)
      if pteLeaf e then (if n = 3 then .bad else judgeLeaf h t i b e, [])
      else if n = 0 || bitsNat e 61 46 ≠ 0 || bitsNat e 11 0 ≠ 0 then (.bad, [])
      else if !pteV e then (.absent, [])
      else
        let (w, es) := walkVia h asid va n (ptePa e)
        (w, { asid := asid, va := va / 2 ^ b * 2 ^ b, size := b, pa := ptePa e, disc := .ro, taint := false, d := false } :: es)

/-- What a translation answers. -/
inductive Trans where
  | ok (pa : Nat) (disc : Disc) (taint : Bool)
  /-- the page is in transit, compressed, on flash or absent -/
  | page (st : PageState)
  /-- a bad entry, or translation disabled -/
  | bad
  /-- the physical address lies outside the partition's ranges -/
  | outside
  deriving DecidableEq, Repr

/-- A TLB entry that covers an address. -/
def TlbEntry.covers (e : TlbEntry) (asid : BitVec 16) (va : Nat) (write : Bool) : Bool :=
  e.asid == asid && va / 2 ^ e.size == e.va / 2 ^ e.size && (!write || e.d)

/-- Fills a TLB of `n` entries: an entry for the same page is replaced; a full one gives up an entry that the spec does not name. -/
def tlbFill (s : State) (n : Nat) (q : List TlbEntry) (e : TlbEntry) : List TlbEntry :=
  let q := q.filter fun x => !(x.asid == e.asid && x.va / 2 ^ x.size == e.va / 2 ^ x.size && x.size == e.size)
  if q.length < n then q ++ [e] else dropNth (Config.tlbVictim s.fresh % n) q ++ [e]

/-- TRANSLATION (R373, R374) of a virtual address of an address space for a partition: through the column's TLB where a column asks, the stack's, then the walker, which sets A and D of a present leaf. -/
def State.translate (s : State) (col : Option ColId) (k : StackId) (ptb : DWord) (p : PartId) (va : Nat) (write : Bool) : Trans × State :=
  let asid : BitVec 16 := field ptb 48 16
  let inCol := match col with | some c => (s.col c).tlb.find? fun e : TlbEntry => e.covers asid va write | none => none
  let hit := match inCol with | some e => some e | none => (s.stack k).tlb.find? fun e : TlbEntry => e.covers asid va write
  let fill (s : State) (e : TlbEntry) : State :=
    let s := s.modStack k fun x => { x with tlb := tlbFill s 8192 x.tlb e }
    match col with
    | some c => s.modCol c fun x => { x with tlb := tlbFill s 256 x.tlb e }
    | none => s
  if !ptb.getLsbD 0 then (.bad, s)
  else match hit with
  | some e =>
    let s := match col, inCol with
      | some c, none => s.modCol c fun x => { x with tlb := tlbFill s 256 x.tlb e }
      | _, _ => s
    (.ok (e.pa + va % 2 ^ e.size) e.disc e.taint, s)
  | none =>
    let (w, path) := walkVia s.hub asid va 4 (bitsNat ptb 45 12 * 4096)
    let s := s.modHub fun h => { h with wcache := path.foldl (fun q e => tlbFill s 512 q e) h.wcache }
    match w with
    | .bad => (.bad, s)
    | .absent => (.page .absent, s)
    | .leaf l =>
      if l.st ≠ PageState.present then (.page l.st, s)
      else
        let pa := l.pa s.hub va
        let ok := s.hub.inPmem p pa && ((s.hub.channel? pa).isSome || (sinkStack? pa).isSome)
        let s := s.modHub fun h => markEntry h l.addr write
        if !ok then (.outside, s)
        else
          let e : TlbEntry := { asid := asid, va := va / 2 ^ l.bits * 2 ^ l.bits, size := l.bits, pa := pa / 2 ^ l.bits * 2 ^ l.bits,
                                disc := l.disc, taint := pteTaint l.ent, d := write || pteD l.ent }
          (.ok pa l.disc (pteTaint l.ent), fill s e)

/-- The address space of a column, and the partition that its accesses are checked against. -/
def State.space (s : State) (c : ColId) : DWord × PartId := ((s.col c).ptb, (s.col c).part.getD 0)

/-- Translation for a column (R374). -/
def State.translateCol (s : State) (c : ColId) (va : Nat) (write : Bool) : Trans × State :=
  let (ptb, p) := s.space c
  s.translate (some c) (stackOf c) ptb p va write

/-- A page move that an access demands: decompression (operation 2) or page-in (operation 5) of the 64 KiB group that holds an address (R373, R384, R385). -/
def demandMove (op : Nat) (ptb : DWord) (p : PartId) (va : Nat) : Move :=
  { op := op, asid := field ptb 48 16, root := ptb, va := va / 0x10000 * 0x10000, left := 16, dst := 0, tag := 0, mbox := none,
    force := false, part := p, moved := 0, bytes := 0, skipped := 0, status := 0, taint := false, transit := false, done := false }

/-- An access meets a compressed or an on-flash page: its decompression or page-in starts unless it has (R373). -/
def State.demand (s : State) (st : PageState) (ptb : DWord) (p : PartId) (va : Nat) : State :=
  let same (q : Move) : Bool := q.asid == field ptb 48 16 && q.va == va / 0x10000 * 0x10000 && !q.done
  match st with
  | .compressed => if s.hub.moves.any fun q => q.op == 2 && same q then s
      else s.modHub fun h => { h with moves := h.moves ++ [demandMove 2 ptb p va] }
  | .flash => if s.hub.flash.any fun q => q.op == 5 && same q then s
      else s.modHub fun h => { h with flash := h.flash ++ [demandMove 5 ptb p va] }
  | _ => s

/-- An access other than a sequencer's meets a page in transit, compressed or on flash: it enters the replay table of its stack, unless 1024 entries are held (R378). -/
def State.holdReplay (s : State) (k : StackId) (who : Waiter) (ptb : DWord) (va : Nat) : Option State :=
  if 1024 ≤ (s.stack k).replay.length then none
  else some (s.modStack k fun x => { x with replay := x.replay ++ [⟨who, field ptb 48 16, va⟩] })

/-- Reads bytes of device memory at virtual addresses for the hub's own use (object, records): none where a page is not present. -/
def Hub.readVirt (h : Hub) (ptb : DWord) (va : Nat) : Nat → Option (List Byte)
  | 0 => some []
  | n + 1 =>
    match walk h (bitsNat ptb 45 12 * 4096) va with
    | .leaf l => if l.st = PageState.present then (h.readVirt ptb (va + 1) n).map fun r => h.dev.byte (l.pa h va) :: r else none
    | _ => none

/-- Extents of R375 over a binding: for each of b0 to b3, from offset `o` on, the longest run of whole 64 KiB units that is contiguous and eligible. -/
def extentRun (h : Hub) (ptb : DWord) (base size : Nat) (disc : Disc) (o : Nat) (pa0 : Option Nat) : Nat → Nat
  | 0 => 0
  | n + 1 =>
    if size < o + 0x10000 then 0
    else
      let page (i : Nat) : Option Nat :=
        match walk h (bitsNat ptb 45 12 * 4096) (base + o + 4096 * i) with
        | .leaf l => if l.st == PageState.present && !pteTaint l.ent && l.disc == disc then some (l.pa h (base + o + 4096 * i)) else none
        | _ => none
      match page 0 with
      | none => 0
      | some p =>
        let want := pa0.getD p
        if p ≠ want || p % 0x10000 ≠ 0 || !((upTo 16).all fun i => page i == some (p + 4096 * i)) then 0
        else 1 + extentRun h ptb base size disc (o + 0x10000) (some (p + 0x10000)) n

/-- The four extents of a binding (R375, R296): LEN and PBASE. A run that LEN cannot hold goes on in the next extent. -/
def extentsFrom (h : Hub) (ptb : DWord) (base size : Nat) (disc : Disc) (o : Nat) : Nat → List DWord
  | 0 => []
  | n + 1 =>
    let len := extentRun h ptb base size disc o none (Nat.min (size / 0x10000 + 1) (2 ^ 18 - 1))
    let pa := match walk h (bitsNat ptb 45 12 * 4096) (base + o) with | .leaf l => l.pa h (base + o) | _ => 0
    if len = 0 then List.replicate (n + 1) 0
    else BitVec.ofNat 64 (len % 2 ^ 18 * 2 ^ 46 + pa / 2 ^ 16 % 2 ^ 30 * 2 ^ 16) ::
      extentsFrom h ptb base size disc (o + len * 0x10000) n

end Sys2Proof.Machine
end

