-- ==== Sys2Proof/Machine/Streams.lean ====
section
/-! DEFINITION. Address-generator streams: the descriptor and what it visits (R119 to R122), the issuing words (R291 to R296), the accesses of a request piece by piece (R136), and the tokens of its replies. -/

namespace Sys2Proof.Machine

/-! The descriptor (R119). -/

/-- CNT of a dimension; 0 means 65,536. -/
def Stream.cnt (m : Stream) (k : Nat) : Nat :=
  let c := match k with | 0 => bitsNat m.d0 63 48 | 1 => bitsNat m.d1 63 48 | 2 => bitsNat m.d1 47 32 | _ => bitsNat m.d1 31 16
  if c = 0 then 65536 else c
/-- Signed byte stride of a dimension. -/
def Stream.str (m : Stream) (k : Nat) : Int :=
  signedNat 24 (match k with | 0 => bitsNat m.d2 63 40 | 1 => bitsNat m.d2 39 16 | 2 => bitsNat m.d3 63 40 | _ => bitsNat m.d3 39 16)
def Stream.base (m : Stream) : Nat := bitsNat m.d0 47 0
def Stream.write (m : Stream) : Bool := m.d1.getLsbD 15
/-- SPACE: 0 near, 1 vertical, 2 virtual. -/
def Stream.space (m : Stream) : Nat := bitsNat m.d1 14 13
/-- MODE: 0 plain, 1 unfold, 2 squeeze, 3 expand. -/
def Stream.mode (m : Stream) : Nat := bitsNat m.d1 12 11
def Stream.fmt (m : Stream) : Nat := bitsNat m.d1 10 7
def Stream.blen (m : Stream) : Nat := let b := bitsNat m.d1 6 3; if b = 0 then 16 else b
def Stream.rnd (m : Stream) : Nat := bitsNat m.d1 2 1
def Stream.sat (m : Stream) : Bool := m.d1.getLsbD 0

def Stream.dvch (m : Stream) : BitVec 5 := field m.d2 9 5
def Stream.cout (m : Stream) : PortId := fin 3 (bitsNat m.d2 8 7)
def Stream.cvch (m : Stream) : BitVec 5 := field m.d2 2 5
def Stream.cen (m : Stream) : Bool := m.d2.getLsbD 1
def Stream.sbix (m : Stream) : Nat := bitsNat m.d3 15 8

/-- A stream at `strm` (R119, R245): nothing issued, the first request from the next cycle. -/
def Stream.start (d0 d1 d2 d3 : DWord) (daddr : Word) (now : Nat) : Stream :=
  { d0 := d0, d1 := d1, d2 := d2, d3 := d3, daddr := daddr, halt := .run, stopVa := 0, issuedReqs := 0, allIssued := false,
    nElems := 0, nTaint := 0, firstTaint := none, dropped := 0, reqs := [], out := [], next := now + 1, sqz := [],
    sqzTaint := false, xpd := [], xpdTaint := false, blk := 0, eosDone := false, compDone := false, covered := 0, stamp := 0 }

/-- A format of 8 or 16 bits, as squeeze and expand need (R119). -/
def narrowFmt (f : Nat) : Bool := f ≤ 3 || (7 ≤ f && f ≤ 10)

/-- The descriptor is one that R119 admits; `sbn` is the number of stream bindings. -/
def Stream.descOk (m : Stream) (sbn : Nat) : Bool :=
  !m.d2.getLsbD 0 && bitsNat m.d3 7 0 == 0 && m.space != 3 && m.fmt ≤ 12 &&
  (m.mode != 1 || !m.write) && (m.mode != 2 || !m.write) && (m.mode != 3 || m.write) &&
  (m.mode < 2 || (bitsNat m.d0 63 48 != 0 && narrowFmt m.fmt)) &&
  (m.space != 2 || m.sbix < sbn)

/-- The descriptor agrees with the issuing word (R291). `resv` says that the context holds a reserved vertical slot. -/
def Stream.agrees (m : Stream) (o : EOp) (resv : Bool) : Bool :=
  match o with
  | .agseq | .agidx => !m.write && m.mode == 0 && (m.space == 0 || m.space == 2)
  | .agunf => !m.write && m.mode == 1
  | .agsqz => !m.write && m.mode == 2
  | .agxpd => m.write && m.mode == 3
  | .agreq => !m.write && m.mode == 0 && (m.space == 0 || m.space == 2) && m.cnt 0 ≤ lanesOf m.fmt
  | .agsto => m.write && m.mode == 0
  | .agvrt =>
    let (unit, step) : Int × Int := if m.fmt = 12 then (1, 256) else if m.fmt = 11 then (1, 512) else (((laneW m.fmt / 8 : Nat) : Int), 128)
    !m.write && m.mode == 0 && m.space == 1 && m.str 0 == unit && m.base % 128 == 0 &&
    m.str 1 % step == 0 && m.str 2 % step == 0 && m.str 3 % step == 0 && resv
  | _ => false

/-! What the stream visits (R120, R121). -/

/-- Iterators i0 to i3. -/
abbrev Its := Nat × Nat × Nat × Nat

/-- The iterators of a context. -/
def Ctx.its (x : Ctx) : Its := ((x.it.get 0).toNat, (x.it.get 1).toNat, (x.it.get 2).toNat, (x.it.get 3).toNat)
/-- The iterators as kept. -/
def itVec (i : Its) : Vector Word 4 :=
  ⟨#[BitVec.ofNat 32 i.1, BitVec.ofNat 32 i.2.1, BitVec.ofNat 32 i.2.2.1, BitVec.ofNat 32 i.2.2.2], rfl⟩

/-- The iterators moved on by one from dimension `k`, and how many dimensions have wrapped, counted with the lower ones: 4 when the stream's last element has been passed. -/
def Stream.advance (m : Stream) (k : Nat) (i : Its) : Its × Nat :=
  let (i0, i1, i2, i3) := i
  if k = 0 ∧ i0 + 1 < m.cnt 0 then ((i0 + 1, i1, i2, i3), 0)
  else if i1 + 1 < m.cnt 1 then ((0, i1 + 1, i2, i3), 1)
  else if i2 + 1 < m.cnt 2 then ((0, 0, i2 + 1, i3), 2)
  else if i3 + 1 < m.cnt 3 then ((0, 0, 0, i3 + 1), 3)
  else ((0, 0, 0, 0), 4)

/-- Address of element (i0, i1, i2, i3) as a base and an offset in bytes, or in positions for i4 and l6; none for the padding of an unfold (R120, R121). `c0` holds the image's width and height. -/
def Stream.addrOf (m : Stream) (c0 : Word) (i : Its) : Option (Int × Int) :=
  let (i0, i1, i2, i3) := i
  if m.mode = 1 then
    let sx : Int := bitsNat m.d3 47 40
    let sy : Int := bitsNat m.d3 55 48
    let px : Int := bitsNat m.d3 23 16
    let py : Int := bitsNat m.d3 31 24
    let x : Int := i2 * sx + i0 - px
    let y : Int := i3 * sy + i1 - py
    if 0 ≤ x ∧ x < bitsNat c0 15 0 ∧ 0 ≤ y ∧ y < bitsNat c0 31 16 then some (m.base, x * m.str 0 + y * m.str 1) else none
  else some (m.base, i0 * m.str 0 + i1 * m.str 1 + i2 * m.str 2 + i3 * m.str 3)

/-- Dimensions that make up one run of tokens: dimension 0, or both kernel dimensions of an unfold (R120, R121). -/
def Stream.runDims (m : Stream) : Nat := if m.mode = 1 then 2 else 1

/-- Up to `n` next elements of the current run from iterators `i`: their iterators, and whether the run ends with the last. -/
def Stream.takeRun (m : Stream) : Nat → Its → List Its × Bool
  | 0, _ => ([], false)
  | n + 1, i =>
    let (i', w) := m.advance 0 i
    if m.runDims ≤ w then ([i], true)
    else let (r, e) := m.takeRun n i'; (i :: r, e)

/-- Bytes of an element: the first byte's address, their number, and the bit of the first byte where it starts (R87, R96). -/
def elemBytes (fmt : Nat) (a : Int × Int) : Int × Nat × Nat :=
  if fmt = 12 then (a.1 + a.2 / 2, 1, if a.2 % 2 = 0 then 0 else 4)
  else if fmt = 11 then
    let b := (a.2 % 4).toNat * 6
    (a.1 + a.2 / 4 * 3 + (b / 8 : Nat), (b % 8 + 6 + 7) / 8, b % 8)
  else (a.1 + a.2, laneW fmt / 8, 0)

/-! Where a granule lies. -/

/-- Why a stream stops at an element: a fault, an absent page or bad entry, or a full replay table. -/
inductive Halted where
  | fault (c : Cause) (addr : DWord)
  | page (va : Nat) (bad : Bool)
  | full (va : Nat)
  deriving DecidableEq, Repr

/-- A granule's place: present, or held in the replay table. -/
structure GLoc where
  loc : Loc
  sa : Bool
  taint : Bool
  held : Bool
  deriving DecidableEq, Repr

/-- The binding that a stream of a column names (R365): base, size, discipline. -/
def State.binding (s : State) (c : ColId) (m : Stream) : Nat × Nat × Nat :=
  match s.taskOf c with
  | some t => nth (0, 0, 0) t.sbt m.sbix
  | none => (0, 0, 0)

/-- The physical address that the extents b0 to b3 give an offset (R296). -/
def extentPa (o : Nat) : Nat → List DWord → Option Nat
  | _, [] => none
  | st, e :: es =>
    let len := bitsNat e 63 46 * 0x10000
    if st ≤ o ∧ o < st + len then some (bitsNat e 45 16 * 0x10000 + (o - st)) else extentPa o (st + len) es

/-- The discipline of a code (R365); PL for the reserved one. -/
def discOf (d : Nat) : Disc := if d = 0 then .ro else if d = 1 then .sa else .pl

/-- Numbers an address for a fault. -/
def addrWord (a : Int) : DWord := BitVec.ofInt 64 a

/-- The place of the granule that holds byte `a` of the stream's space (R107, R111, R296, R373, R378). A virtual `a` is a virtual address. -/
def State.granule (s : State) (r : CtxRef) (m : Stream) (a : Int) : Except Halted GLoc × State :=
  let c := r.col
  let g := a / 8 * 8
  if m.space = 0 then
    if a < 0 then (.error (.fault .nearRange (addrWord a)), s)
    else match (s.col c).nearCause a.toNat with
      | some k => (.error (.fault k (addrWord a)), s)
      | none => (.ok ⟨⟨.near, c, (s.col c).nearPhys g.toNat⟩, (s.col c).nearSa a.toNat, false, false⟩, s)
  else if m.space = 1 then
    if a < 0 then (.error (.fault .verticalRange (addrWord a)), s)
    else match vertDecode g.toNat with
      | none => (.error (.fault .verticalRange (addrWord a)), s)
      | some p => (.ok ⟨⟨.vert, c, p⟩, false, false, false⟩, s)
  else
    let (base, _, disc) := s.binding c m
    let va := a.toNat
    match extentPa (va - base) 0 (s.ctx r).b.toList with
    | some pa =>
      if discOf disc = .ro && m.write then (.error (.fault .roWrite (addrWord a)), s)
      else (.ok ⟨⟨.dev, 0, pa / 8 * 8⟩, discOf disc == .sa, false, false⟩, s)
    | none =>
      let (ptb, p) := s.space c
      let (t, s) := s.translateCol c va m.write
      match t with
      | .ok pa d taint =>
        if d = .ro && m.write then (.error (.fault .roWrite (addrWord a)), s)
        else (.ok ⟨⟨.dev, 0, pa / 8 * 8⟩, d == .sa, taint, false⟩, s)
      | .outside => (.error (.fault .access (addrWord a)), s)
      | .bad => (.error (.page va true), s)
      | .page .absent => (.error (.page va false), s)
      | .page st =>
        let s := s.demand st ptb p va
        match s.holdReplay (stackOf c) (.stream r) ptb va with
        | some s => (.ok ⟨⟨.dev, 0, 0⟩, false, false, true⟩, s)
        | none => (.error (.full va), s)

/-! Building a request. -/

/-- Eight bits of a mask or of data at byte `k` of a granule. -/
def atByte (k : Nat) (b : Nat) : DWord := BitVec.ofNat 64 (b % 256 * 2 ^ (8 * k))

/-- Bits of a piece that an access writes, over those that an earlier access of the request wrote there (R136). -/
def Piece.add (p : Piece) (mask data : DWord) : Piece := { p with mask := p.mask ||| mask, data := (p.data &&& ~~~mask) ||| (data &&& mask) }

/-- Adds the byte at address `a`, with its write mask and data, to the pieces of a request: the piece's position, or why it stops. -/
def State.addByte (s : State) (r : CtxRef) (m : Stream) (ps : List Piece) (a : Int) (mask data : Nat) :
    Except Halted (Nat × List Piece) × State :=
  let lg := (a / 8).toNat
  let k := (a % 8).toNat
  match indexOf? (fun p : Piece => decide (0 ≤ a) && p.lg == lg) ps with
  | some i => (.ok (i, modNth (fun p => p.add (atByte k mask) (atByte k data)) i ps), s)
  | none =>
    match s.granule r m a with
    | (.error e, s) => (.error e, s)
    | (.ok g, s) =>
      (.ok (ps.length, ps ++ [⟨lg, g.loc, g.sa, atByte k mask, atByte k data, g.taint, if g.held then .held else .waiting⟩]), s)

/-- Adds the `n` bytes of an element from address `a`. `mask` and `data` hold the element's bits from bit 0 of its first byte. -/
def State.addBytes (s : State) (r : CtxRef) (m : Stream) (ps : List Piece) (a : Int) (mask data : Nat) :
    Nat → Except Halted (List (Nat × Nat) × List Piece) × State
  | 0 => (.ok ([], ps), s)
  | n + 1 =>
    match s.addByte r m ps a (mask % 256) (data % 256) with
    | (.error e, s) => (.error e, s)
    | (.ok (i, ps), s) =>
      match s.addBytes r m ps (a + 1) (mask / 256) (data / 256) n with
      | (.error e, s) => (.error e, s)
      | (.ok (bs, ps), s) => (.ok ((i, (a % 8).toNat) :: bs, ps), s)

/-- Adds one element to a request. For a virtual stream the offset must lie within the binding (R120), and bytes are then virtual addresses. -/
def State.addElem (s : State) (r : CtxRef) (m : Stream) (q : AgReq) (a : Int × Int) (data : Nat) : Except Halted AgReq × State :=
  let (b, n, sh) := elemBytes m.fmt a
  let (base, size, _) := s.binding r.col m
  if m.space = 2 && (decide (b < 0) || decide ((size : Int) ≤ b)) then (.error (.fault .address (addrWord (base + b))), s)
  else
    let b := if m.space = 2 then b + base else b
    let w := memW m.fmt
    -- the last group of an l6 run is filled with zeros (R96)
    let fill := m.fmt = 11 && m.str 0 == 1 && (s.ctx r).its.1 + 1 == m.cnt 0
    let bits := if fill then 24 - (a.2 % 4).toNat * 6 else w
    let n := if fill then (sh + bits + 7) / 8 else n
    match s.addBytes r m q.pieces b ((2 ^ bits - 1) * 2 ^ sh) (data % 2 ^ w * 2 ^ sh) n with
    | (.error e, s) => (.error e, s)
    | (.ok (bs, ps), s) => (.ok { q with pieces := ps, elems := q.elems ++ [⟨bs, sh⟩] }, s)

/-- The iterators of a context and its stream move on after an element. -/
def State.advanceCtx (s : State) (r : CtxRef) (m : Stream) (adv : Nat) (counted : Bool) : State :=
  s.modCtx r fun x =>
    let (i, w) := if adv = 2 then (x.its, 0) else m.advance adv x.its
    { x with dirty := true, it := itVec i, strm := x.strm.map fun m =>
        { m with allIssued := m.allIssued || w == 4, nElems := if counted then m.nElems + 1 else m.nElems } }

/-- Issues the elements that a request still owes, in order; a stop leaves the rest (R296). Elements after the stream's last are discarded. -/
def State.issueItems (s : State) (r : CtxRef) (m : Stream) (q : AgReq) : List ElemTodo → State × AgReq × Option Halted
  | [] => (s, { q with rest := [] }, none)
  | t :: ts =>
    let ended := match (s.ctx r).strm with | some m => m.allIssued | none => true
    if ended then (s, { q with rest := [] }, none)
    else
      let go (s : State) (q : AgReq) := (s.advanceCtx r m t.adv (!t.skip)).issueItems r m q ts
      if t.skip then go s q
      else match t.addr with
        | none => go s { q with elems := q.elems ++ [⟨[], 0⟩] }
        | some a =>
          match s.addElem r m q a t.data with
          | (.error e, s) => (s, { q with rest := t :: ts }, some e)
          | (.ok q, s) => go s q

/-- A stream's fault: a class-19 message at its column, and the stream stops; an absent page or a bad entry is a system event and leaves the stream to be resumed (R116, R120, R378). -/
def State.haltStream (s : State) (r : CtxRef) (e : Halted) : State :=
  let set (h : StreamHalt) (va : Nat) : State :=
    s.modCtx r fun x => { x with strm := x.strm.map fun m => { m with halt := h, stopVa := va } }
  match e with
  | .fault c a => (set .fault 0).unitFault r.col c r.elem.val r.ctx.val a
  | .full va => set .full va
  | .page va bad =>
    let (ptb, p) := s.space r.col
    let asid := bitsNat ptb 63 48
    (set .page va).sysEvent p (if bad then 8 else 1) r.col.val
      (leBytes 8 va ++ leBytes 8 (asid + r.elem.val * 2 ^ 16 + r.ctx.val * 2 ^ 21))

/-- Puts a request at the end of a stream's list. -/
def Ctx.addReq (x : Ctx) (q : AgReq) : Ctx :=
  { x with strm := x.strm.map fun m => { m with reqs := m.reqs ++ [q], issuedReqs := m.issuedReqs + 1 } }

/-- Issues a new request of the elements `items`; `have_` are granules of the vertical store that it needs no slot for. -/
def State.issueReqHaving (s : State) (r : CtxRef) (have_ : List Nat) (runEnd wtaint : Bool) (tord : BitVec 20) (items : List ElemTodo) : State :=
  match (s.ctx r).strm with
  | none => s
  | some m =>
    let q : AgReq := { idx := m.issuedReqs, write := m.write, pieces := [], elems := [], rest := [], start := (s.ctx r).it,
                       runEnd := runEnd, wtaint := wtaint, tord := tord, born := s.now, due := s.now, slots := have_, replied := false }
    let (s, q, e) := s.issueItems r m q items
    let s := s.modCtx r fun x => x.addReq q
    match e with
    | none => s
    | some e => s.haltStream r e

/-- Issues a new request of the elements `items`. -/
def State.issueReq (s : State) (r : CtxRef) (runEnd wtaint : Bool) (tord : BitVec 20) (items : List ElemTodo) : State :=
  s.issueReqHaving r [] runEnd wtaint tord items

/-- A stream that stopped at a page issues what it left (R378, R379). -/
def State.resumeStream (s : State) (r : CtxRef) : State :=
  match (s.ctx r).strm with
  | none => s
  | some m =>
    if m.halt ≠ .page && m.halt ≠ .full then s
    else
      let s := s.modCtx r fun x => { x with strm := x.strm.map fun m => { m with halt := .run } }
      match m.reqs.getLast? with
      | none => s
      | some q =>
        let (s, q, e) := s.issueItems r m q q.rest
        let s := s.modCtx r fun x => { x with strm := x.strm.map fun m => { m with reqs := m.reqs.dropLast ++ [q] } }
        match e with
        | none => s
        | some e => s.haltStream r e

/-! Issuing words (R291 to R295). -/

/-- The read items of a list of iterators. -/
def Stream.readItems (m : Stream) (c0 : Word) (l : List Its) : List ElemTodo :=
  l.map fun i => ⟨m.addrOf c0 i, 0, false, 0⟩

/-- The elements that `agvrt` reads with its next granule: those whose last bit lies in the granule of the next element's last bit (R294). -/
def Stream.granuleRun (m : Stream) (c0 : Word) : Nat → Nat → Its → List Its × Bool
  | 0, _, _ => ([], false)
  | n + 1, g, i =>
    let last (i : Its) : Nat := match m.addrOf c0 i with
      | some a => let (b, k, _) := elemBytes m.fmt a; ((b + k - 1) / 128).toNat
      | none => 0
    if last i ≠ g then ([], false)
    else
      let (i', w) := m.advance 0 i
      if 1 ≤ w then ([i], true) else let (r, e) := m.granuleRun c0 n g i'; (i :: r, e)

/-- Granule of an element's last bit. -/
def Stream.granuleOf (m : Stream) (c0 : Word) (i : Its) : Nat :=
  match m.addrOf c0 i with
  | some a => let (b, k, _) := elemBytes m.fmt a; ((b + k - 1) / 128).toNat
  | none => 0

/-- One lane of a token converted to a stream's format (R123): the code, its events, and whether an input was flushed. -/
def storeLane (m : Stream) (src : Nat) (scale : BitVec 8) (draw code : Nat) : Nat × Ev × Bool :=
  let v := if isIntFmt src then valOf src code else (valOf src code).scale scale
  let (x, ev) := cvtTo m.fmt (rmOf m.rnd draw) m.sat v
  (x, ev, isSubCode src code)

/-- The format in which the lanes of operand A of a write word are read: the VCT entry's for a token, i8 for a packed entry (R87); a register holds lanes of the stream's own format. -/
def laneFmt (vct : Vector Half 32) (t : Option Token) (own : Nat) : Nat :=
  match t with
  | some t => let f := vctFmt (vctOf vct t.vch); if f = 12 then 0 else f
  | none => if own = 12 then 0 else own

/-- The token that an operand code takes next. -/
def Fire.head (f : Fire) (c : Nat) : Option Token := if isPort c then (f.toks.get (fin 3 (c - 8))).head? else none

/-- A token's lanes for `agsto`: every valid lane, stored when active (R295), with conversion where the lanes' format differs from the stream's (R123); into an i4 stream every i8 lane is narrowed (R87). The counters count the events of the stored lanes, and never `tainted`, which is counted of result tokens (assumption log 74). -/
def stoLanes (f : Fire) (e : EW) (m : Stream) : List (Bool × Nat) × Fire :=
  let t := f.head e.a
  let src := laneFmt f.vct t m.fmt
  let w := laneW src
  let (x, f) := operand f e e.a w
  let n := 256 / w
  let conv := src != m.fmt
  let (draws, lf) := if conv && m.rnd = 3 then lfsrDraws (max n (lanesOf m.fmt)) f.ctx.lfsr else ([], f.ctx.lfsr)
  let f := { f with ctx := { f.ctx with lfsr := lf, conv := f.ctx.conv || conv } }
  let valid := (upTo n).filter fun i => x.laneOk w i
  let lanes := valid.map fun i =>
    let r : Nat × Ev × Bool := if conv then storeLane m src x.scale (nth 0 draws i) (x.lane w i) else (x.lane w i, Ev.none, false)
    (maskBit f e.pm i, r)
  let stat := lanes.foldl (fun st l => if conv && l.1 then statAdd st l.2.2.1 l.2.2.2 else st) f.ctx.stat
  (lanes.map fun l => (l.1, l.2.1), { f with ctx := { f.ctx with stat := stat } })

/-- Write items: the lanes of a token in the stream's order, from iterators `i` (R120, R295). -/
def Stream.writeItems (m : Stream) (c0 : Word) : List (Bool × Nat) → Its → List ElemTodo
  | [], _ => []
  | (on, v) :: ls, i => ⟨m.addrOf c0 i, v, !on, 0⟩ :: m.writeItems c0 ls (m.advance 0 i).1

/-- What one token of pairs adds to a run (R122): the pairs kept, the pairs dropped, and whether the terminator came. The previous coordinate is that of the last pair kept, and pairs behind the terminator in its token are discarded without count (assumption log 75). -/
def takePairs (cnt : Nat) : List (Nat × Nat) → List (Nat × Nat) → Nat → List (Nat × Nat) × Nat × Bool
  | [], acc, d => (acc, d, false)
  | (v, k) :: ps, acc, d =>
    if k = 0xFFFF && v = 0 then (acc, d, true)
    else
      let prev : Option Nat := acc.getLast?.map (·.1)
      if cnt ≤ k || (match prev with | some p => decide (k ≤ p) | none => false) then takePairs cnt ps acc (d + 1)
      else takePairs cnt ps (acc ++ [(k, v)]) d

/-- The items of a whole run written by an expand: listed coordinates hold their value, the others zero (R122). -/
def Stream.runItems (m : Stream) (c0 : Word) (i : Its) (acc : List (Nat × Nat)) : List ElemTodo :=
  (upTo (m.cnt 0)).map fun k => ⟨m.addrOf c0 (k, i.2.1, i.2.2.1, i.2.2.2), lookupD 0 k acc, false, 0⟩

/-- Lanes of n32 that an index operand gives: those that are valid and active (R293). -/
def idxLanes (f : Fire) (e : EW) : List Nat × Fire :=
  let (x, f) := operand f e e.a 32
  (((upTo 8).filter fun j => x.laneOk 32 j && maskBit f e.pm j).map fun j => x.lane 32 j, f)

/-- `agidx` items: addresses from the index lanes; iterators as each element's predecessors leave them (R293). -/
def Stream.idxItems (m : Stream) : List Nat → Its → List ElemTodo
  | [], _ => []
  | l :: ls, i =>
    let off : Int := l * m.str 0 + i.2.1 * m.str 1 + i.2.2.1 * m.str 2 + i.2.2.2 * m.str 3
    ⟨some (m.base, off), 0, false, 0⟩ :: m.idxItems ls (m.advance 0 i).1

/-- Tokens that a write word consumes after its stream's last element are discarded and counted (R295). -/
def State.discardToks (s : State) (r : CtxRef) (f : Fire) : State :=
  s.countDrop r.col r.elem (sumList (f.toks.toList.map (·.length)))

/-- AN ISSUING WORD EXECUTES (R291 to R295): the operand is read from the firing, and the request is issued. -/
def State.issueWord (s : State) (r : CtxRef) (e : EW) (f : Fire) : Fire × (State → State) :=
  match f.ctx.strm with
  | none => (f, id)
  | some m =>
    let c0 := f.ctx.c.get 0
    let i := f.ctx.its
    match opOf e with
    | .agseq | .agunf =>
      let (l, e) := m.takeRun (lanesOf m.fmt) i
      (f, fun s => s.issueReq r e false 0 (m.readItems c0 l))
    | .agsqz =>
      let (l, e) := m.takeRun 8 i
      (f, fun s => s.issueReq r e false 0 (m.readItems c0 l))
    | .agvrt =>
      let g := m.granuleOf c0 i
      let (l, e) := m.granuleRun c0 300 g i
      -- the granule before, where an l6 code began, was read with the request before (R294)
      (f, fun s => s.issueReqHaving r (if g = 0 then [] else [g - 1]) e false 0 (m.readItems c0 l))
    | .agidx =>
      let (ls, f) := idxLanes f e
      (f, fun s => s.issueReq r false false 0 (m.idxItems ls i))
    | .agreq =>
      let (x, f) := operand f e e.a 32
      let (base, _, _) := s.binding r.col m
      let a : Int := if m.space = 2 then (x.lane 32 0 + x.lane 32 1 % 65536 * 2 ^ 32 : Nat) - (base : Int) else x.lane 32 0
      let n := m.cnt 0
      (f, fun s => s.issueReq r true false 0 ((upTo n).map fun k => ⟨some (a, k * m.str 0), 0, false, if k + 1 = n then 1 else 2⟩))
    | .agsto =>
      if m.allIssued then (f, fun s => s.discardToks r f) else
      let t := f.head e.a
      let taint := f.tokTaint || f.accTaint
      let (ls, f) := stoLanes f e m
      (f, fun s =>
        let o : BitVec 20 := match t with | some t => t.ord | none => 0
        let s := if taint then s.modCtx r fun x => { x with strm := x.strm.map fun m =>
          { m with nTaint := m.nTaint + 1, firstTaint := some (m.firstTaint.getD o) } } else s
        s.issueReq r false taint o (m.writeItems c0 ls i))
    | .agxpd =>
      if m.allIssued then (f, fun s => s.discardToks r f) else
      let t := f.head e.a
      let taint := f.tokTaint
      let (x, f) := operand f e e.a 32
      let ps := ((upTo 8).filter fun j => x.laneOk 32 j).map fun j => (x.lane 32 j % 65536, x.lane 32 j / 65536)
      let (acc, d, fin_) := takePairs (m.cnt 0) ps m.xpd 0
      let acc := acc.map fun p => (p.1, (narrowInt (laneW m.fmt) false false p.2).1)
      (f, fun s =>
        let o : BitVec 20 := match t with | some t => t.ord | none => 0
        let s := s.modCtx r fun x => { x with strm := x.strm.map fun m =>
          { m with dropped := m.dropped + d, xpd := if fin_ then [] else acc, xpdTaint := !fin_ && (m.xpdTaint || taint),
                   nTaint := if taint then m.nTaint + 1 else m.nTaint,
                   firstTaint := if taint then some (m.firstTaint.getD o) else m.firstTaint } }
        s.issueReq r fin_ (m.xpdTaint || taint) o (if fin_ then m.runItems c0 i acc else []))
    | _ => (f, id)

/-- Tokens that a read word owes (R292). -/
def owes (o : EOp) (fmt : Nat) : Nat :=
  match o with
  | .agseq | .agunf | .agidx | .agreq => 1
  | .agsqz => 2
  | .agvrt => if fmt = 12 then 8 else if fmt = 11 then 6 else 4
  | _ => 0

/-- Tokens owed and not yet emitted (R292). -/
def Stream.owed (m : Stream) (o : EOp) : Nat :=
  m.out.length + (m.reqs.filter fun q => !q.write && !q.replied).length * owes o m.fmt

/-! Completion tokens (R140). -/

/-- K of c6. -/
def c6K (c6 : Word) : Nat := let k := bitsNat c6 15 8; if k = 0 then 256 else k
/-- OPORT of c6. -/
def c6Port (c6 : Word) : PortId := fin 3 (bitsNat c6 2 1)
/-- Completion tokens that issued requests have made due: whole runs not yet covered. -/
def Stream.compOwed (m : Stream) (c6 : Word) : Nat := (m.issuedReqs - m.covered) / c6K c6

/-! Performing (R136, R138, R117). -/

/-- Bytes that a bit mask touches. -/
def bytesOf (m : DWord) : BitVec 8 :=
  BitVec.ofNat 8 (sumList ((upTo 8).map fun i => if bitsNat m (8 * i + 7) (8 * i) = 0 then 0 else 2 ^ i))

/-- The word as stored at a location, for a write of part of a byte. -/
def State.storedWord (s : State) (k : StackId) (l : Loc) : DWord :=
  match l.space with
  | .near => ((s.col l.col).cpu.near.readWord (l.addr / 8)).1
  | .vert => ((s.col l.col).vert.readWord (l.addr / 8)).1
  | .dev => mergeOrd (s.stack k).ord (l.addr / 8) (s.hub.dev.rawWord (l.addr / 8))

/-- Data to write at the bytes of a mask, with the bits of a byte that the mask leaves out kept. -/
def keepBits (old data mask : DWord) : DWord := (old &&& ~~~mask) ||| (data &&& mask)

/-- The pieces of request `k` of a context's stream changed at `p`. -/
def State.setPiece (s : State) (r : CtxRef) (k p : Nat) (st : PieceState) : State :=
  s.modCtx r fun x => { x with strm := x.strm.map fun m =>
    { m with reqs := modNth (fun q => { q with pieces := modNth (fun y => { y with st := st }) p q.pieces }) k m.reqs } }

/-- A write that is dropped counts as tainted in the stream's completion token (R351). -/
def State.countDroppedStore (s : State) (r : CtxRef) (q : AgReq) : State :=
  s.countDropped.modCtx r fun x => { x with strm := x.strm.map fun m =>
    { m with nTaint := m.nTaint + 1, firstTaint := some (m.firstTaint.getD q.tord) } }

/-- A whole 32-byte token stored to a statistics aperture is one record; fewer bytes are dropped and counted (R418). Performed with the request's first piece. -/
def State.storeStat (s : State) (r : CtxRef) (k : StackId) (q : AgReq) : State :=
  let p := s.partOf (.col r.col)
  let full := q.pieces.length == 4 && q.pieces.all (fun y => y.mask == BitVec.allOnes 64) && (q.pieces.headD ⟨0, ⟨.dev, 0, 0⟩, false, 0, 0, false, .waiting⟩).loc.addr % 32 == 0
  if full then
    s.modHub fun h => { h with statQ := h.statQ ++ [(k, p, r.col, (q.pieces.map fun y => leBytes 8 y.data.toNat).foldl (· ++ ·) [])] }
  else s.modHub fun h => h.count32 (partReg p 0x260) 1


/-- A held piece's page is present again: its location is filled in. Nothing happens while it is not. -/
def State.unhold (s : State) (r : CtxRef) (k p : Nat) (write : Bool) (y : Piece) : State :=
  let (t, s) := s.translateCol r.col (y.lg * 8) write
  let put (f : Piece → Piece) : State := s.modCtx r fun x => { x with strm := x.strm.map fun m =>
    { m with reqs := modNth (fun q => { q with pieces := modNth f p q.pieces }) k m.reqs } }
  match t with
  | .ok pa d taint =>
    if d = .ro && write then s.haltStream r (.fault .roWrite (BitVec.ofNat 64 (y.lg * 8)))
    else put fun y => { y with loc := ⟨.dev, 0, pa / 8 * 8⟩, sa := d == .sa, taint := y.taint || taint, st := .waiting }
  | .outside => s.haltStream r (.fault .access (BitVec.ofNat 64 (y.lg * 8)))
  | .bad => s.haltStream r (.page (y.lg * 8) true)
  | .page .absent => s.haltStream r (.page (y.lg * 8) false)
  | .page _ => s

/-- The state in which a piece of request `k` may use its vertical port: its granule has been given a slot, or is given one now, and class 0 pays for it (R112, R113, R352). The reply is due 24 of the column's cycles after the slot. -/
def State.slotFor (s : State) (r : CtxRef) (k : Nat) (q : AgReq) (y : Piece) : Option State :=
  if !q.lacksSlot y || s.access y.loc == .shut then some s
  else
    let port := vLayer y.loc.addr
    match s.giveSlot r q.born port with
    | none => none
    | some (t, s) =>
      let due := t + s.colCycles r.col 24
      some ((s.modCtx r fun x => { x with strm := x.strm.map fun m =>
        { m with reqs := modNth (fun q => { q with slots := (y.lg / 16) :: q.slots, due := Nat.max q.due due }) k m.reqs } }).modCol r.col
        fun x => x.chargeV 0 port 1)

/-- PERFORMS piece `p` of request `k` (position in the list) of a context's stream, if it can (R117, R118, R136, R138, R351). -/
def State.performPiece (s : State) (r : CtxRef) (k p : Nat) : State :=
  match (s.ctx r).strm with
  | none => s
  | some m =>
    match m.reqs[k]? with
    | none => s
    | some q =>
      match q.pieces[p]? with
      | none => s
      | some y =>
        let st := stackOf r.col
        let addr : DWord := BitVec.ofNat 64 (y.lg * 8)
        match y.st with
        | .done _ _ => s
        | .held => s
        | _ =>
          if s.asleep y.loc then s.wakeFor y.loc
          else match s.slotFor r k q y with
          | none => s
          | some s =>
          if q.write then
            match s.access y.loc with
            | .shut | .foreign => (s.setPiece r k p (.done 0 false)).countDroppedStore r q
            | .open_ =>
              match (if y.loc.space == .dev then sinkStack? y.loc.addr else none) with
              | some a => (if p = 0 then s.storeStat r a q else s).setPiece r k p (.done 0 false)
              | none =>
                let data := keepBits (s.storedWord st y.loc) y.data y.mask
                if y.sa then
                  let (full, s) := s.fillSa y.loc (bytesOf y.mask) y.data (y.taint || q.wtaint)
                  let s := s.setPiece r k p (.done 0 false)
                  if full then s.haltStream r (.fault .saOverwrite addr) else s
                else
                  let s := match y.loc.space with
                    | .dev => s.modStack st fun z : Stack =>
                        { z with ord := z.ord ++ [(⟨.col r.col, 0, y.loc.addr, bytesOf y.mask, data, some (r.elem, m.daddr, q.idx)⟩ : OrdStore)] }
                    | _ => s.writeLoc y.loc (bytesOf y.mask) data
                  s.setPiece r k p (.done 0 false)
          else
            match s.access y.loc with
            | .shut => s
            | .foreign => s.setPiece r k p (.done 0 true)
            | .open_ =>
              let full := decide (16 ≤ s.deferCount y.loc)
              if y.st == .stalled && full then s
              else if y.sa && (s.presence y.loc).isNone then
                if y.st == .deferred then s else s.setPiece r k p (if full then .stalled else .deferred)
              else
                let (v, s) := s.readLoc (some st) y.sa y.loc
                s.setPiece r k p (.done v.1 (v.2 || y.taint))

/-- A piece performs; one whose page was away takes its location first. -/
def State.heldPerforms (s : State) (r : CtxRef) (k p : Nat) : State :=
  match (s.ctx r).strm.bind fun m => m.reqs[k]?.bind fun q => q.pieces[p]?.map fun y => (q.write, y) with
  | some (w, y) => if y.st == .held then (s.unhold r k p w y).performPiece r k p else s.performPiece r k p
  | none => s

/-! Replies (R120, R292 to R294). -/

/-- Every piece of a request has performed, and nothing is left to issue. -/
def AgReq.allDone (q : AgReq) : Bool :=
  q.rest.isEmpty && q.pieces.all fun p => match p.st with | .done _ _ => true | _ => false

/-- Data and taint of a piece. -/
def Piece.val (p : Piece) : DWord × Bool :=
  match p.st with
  | .done v t => (v, t)
  | _ => (0, false)

/-- The code of an element from its pieces, and its taint. -/
def AgReq.code (q : AgReq) (w : Nat) (e : ElemRef) : Nat × Bool :=
  let p (i : Nat) : DWord × Bool := match q.pieces[i]? with | some p => p.val | none => (0, false)
  let bs := e.bytes.map fun b => (bitsNat (p b.1).1 (8 * b.2 + 7) (8 * b.2), (p b.1).2)
  ((leNat (bs.map fun b => BitVec.ofNat 8 b.1)) / 2 ^ e.sh % 2 ^ w, bs.any (·.2))

/-- A code as it goes into a lane: i4 sign-extended, anything else as it stands (R87, R96). -/
def laneCode (fmt x : Nat) : Nat := if fmt = 12 then (signedNat 4 x % (256 : Nat)).toNat else x

/-- Tokens of at most `n` lanes of width `w` from codes in order; no code gives one token of one zero lane when `empty`. -/
def packTokens (w n : Nat) : Nat → List (Nat × Bool) → List Token
  | 0, _ => []
  | k + 1, cs =>
    if cs.isEmpty then []
    else
      let l := cs.take n
      dataToken (BitVec.ofNat 256 (packLanes w (l.map (·.1)))) (BitVec.ofNat 5 (l.length - 1)) (l.any (·.2)) ::
        packTokens w n k (cs.drop n)

/-- A value is removed by a squeeze: all bits zero, or −0 in a floating format (R122). -/
def squeezed (fmt x : Nat) : Bool := x == 0 || (isFloatFmt fmt && x == 2 ^ (laneW fmt - 1))

/-- The value field of a squeezed lane: an 8-bit value is sign-extended, or zero-extended for n8 (R122). -/
def sqzValue (fmt x : Nat) : Nat :=
  if laneW fmt = 8 && fmt != 1 then (signedNat 8 x % (65536 : Nat)).toNat else x % 65536

/-- Squeezed lanes appended to the buffer; a token leaves with every eighth, and with the terminator of the run (R294). -/
def sqzAppend : List Word → Bool → List (Word × Bool) → List Token × List Word × Bool
  | buf, bt, [] => ([], buf, bt)
  | buf, bt, (x, t) :: r =>
    let buf := buf ++ [x]
    let bt := bt || t
    if 8 ≤ buf.length then
      let (ts, b, t') := sqzAppend [] false r
      (dataToken (BitVec.ofNat 256 (packLanes 32 (buf.map (·.toNat)))) 7 bt :: ts, b, t')
    else sqzAppend buf bt r

/-- The tokens of a request's reply, and the squeeze buffer after it. -/
def Stream.replyTokens (m : Stream) (q : AgReq) : List Token × List Word × Bool :=
  let cs := q.elems.map fun e => q.code (memW m.fmt) e
  let w := laneW m.fmt
  if m.mode = 2 then
    let i0 := (q.start.get 0).toNat
    let pairs := mapFrom (fun k (c : Nat × Bool) => (c, k)) i0 cs
    let kept := pairs.filter fun p => !squeezed m.fmt p.1.1
    let lanes := kept.map fun p => (BitVec.ofNat 32 (sqzValue m.fmt p.1.1 + p.2 % 65536 * 65536), p.1.2)
    -- taint of a removed value goes with the next token that leaves
    let lost := (pairs.filter fun p => squeezed m.fmt p.1.1).any fun p => p.1.2
    let lanes := if q.runEnd then lanes ++ [(0xFFFF0000#32, false)] else lanes
    let (ts, b, bt) := sqzAppend m.sqz (m.sqzTaint || lost) lanes
    if q.runEnd && !b.isEmpty then
      (ts ++ [dataToken (BitVec.ofNat 256 (packLanes 32 (b.map (·.toNat)))) (BitVec.ofNat 5 (b.length - 1)) bt], [], false)
    else (ts, b, bt)
  else
    let cs := cs.map fun c => (laneCode m.fmt c.1, c.2)
    let ts := packTokens w (lanesOf m.fmt) (cs.length + 1) cs
    (if ts.isEmpty then [dataToken 0 0 false] else ts, m.sqz, m.sqzTaint)

/-- The oldest read request that has performed becomes reply tokens (R113, R292). -/
def Stream.formReply (m : Stream) (now : Nat) : Stream :=
  match indexOf? (fun q : AgReq => !q.write && !q.replied) m.reqs with
  | none => m
  | some k =>
    match m.reqs[k]? with
    | none => m
    | some q =>
      if q.allDone && decide (q.due ≤ now) then
        let (ts, b, bt) := m.replyTokens q
        { m with out := m.out ++ ts, sqz := b, sqzTaint := bt, reqs := modNth (fun q => { q with replied := true }) k m.reqs }
      else m

/-- Accesses of a request have performed for `sys`: its own, and every store it may have read from a stack's ordering point (R138). -/
def State.reqForSys (s : State) (r : CtxRef) (m : Stream) (q : AgReq) : Bool :=
  q.allDone &&
  !((s.stack (stackOf r.col)).ord.any fun o =>
    o.ag == some (r.elem, m.daddr, q.idx) ||
    (!q.write && q.pieces.any fun p => p.loc.space == .dev && p.loc.addr / 8 == o.pa / 8))

/-- A pending barrier counts the tainted requests that it waits for, and forgets those that have performed (R241, R248). -/
def Barr.forget (b : Barr) (key : Nat) (done : Nat → Bool) (tainted : Nat → Bool) : Barr :=
  let mine (q : Nat × Nat) : Bool := q.1 == key && done q.2
  { b with reqs := b.reqs.filter fun q => !mine q, tainted := b.tainted + (b.reqs.filter fun q => mine q && tainted q.2).length }

/-- A request carried TAINT or read it. -/
def AgReq.tainted (q : AgReq) : Bool := q.wtaint || q.pieces.any fun p => p.val.2

/-- Requests that nothing waits for any more leave the list; a barrier of the column sees the requests that have performed for `sys`. -/
def State.pruneReqs (s : State) (r : CtxRef) : State :=
  let reqs : List (Nat × Bool × Bool) := match (s.ctx r).strm with | some m => m.reqs.map (fun (q : AgReq) => (q.idx, s.reqForSys r m q, q.tainted)) | none => []
  let done (i : Nat) : Bool := reqs.all fun q => q.1 != i || q.2.1
  let tainted (i : Nat) : Bool := reqs.any fun q => q.1 == i && q.2.2
  let s := s.modCol r.col fun x => { x with barr := x.barr.map fun b => b.forget (r.elem.val * 4 + r.ctx.val) done tainted }
  s.modCtx r fun x => { x with strm := x.strm.map fun m =>
    let oen := (x.c.get 6).getLsbD 0
    { m with reqs := m.reqs.filter fun q =>
        !((q.replied || (q.write && s.reqForSys r m q)) && (!oen || decide (q.idx < m.covered))) } }

/-- The stream has no work left: everything issued or stopped, performed and emitted (R120, R124, R140, R245). -/
def Stream.finishedBy (m : Stream) (oen : Bool) : Bool :=
  (m.allIssued || m.halt == .stopped) && m.reqs.isEmpty && m.out.isEmpty &&
  (m.eosDone || (m.write && m.halt != .stopped)) && (!m.cen || m.compDone) && (!oen || decide (m.issuedReqs ≤ m.covered))

/-- A stream that has finished is active no longer. -/
def State.endStream (s : State) (r : CtxRef) : State :=
  (s.pruneReqs r).modCtx r fun x =>
    match x.strm with
    | some m => if m.finishedBy ((x.c.get 6).getLsbD 0) then { x with strm := none } else x
    | none => x

end Sys2Proof.Machine
end

