-- ==== Sys2Proof/Machine/Firing.lean ====
section
/-! DEFINITION. Firings: when one is permitted (R44 to R47, R284, R288, R292, R298), the arbiter (R29), and what a firing does (R27, R43, R50, R288, R300, R301). -/

namespace Sys2Proof.Machine

/-- The firing program of a context. -/
def Ctx.words (x : Ctx) : List EW := ewsOf (x.prog.toList.take (hLen x.hdr))

/-- The word of a merge context (R284). -/
def Ctx.mergeWord (x : Ctx) : Option EW :=
  match x.words with
  | [e] => if opOf e == .merge then some e else none
  | _ => none

/-- The two words of a systolic context (R298). -/
def Ctx.syWords (x : Ctx) : Option (EW × EW) :=
  match x.words with
  | [w, r] => if opOf w == .sywld && opOf r == .syrun then some (w, r) else none
  | _ => none

/-- The two words suit the context's mode (R298, R299). -/
def Ctx.syOk (x : Ctx) (w r : EW) : Bool := r.t == x.syFmt.toNat && w.a != r.a && w.a != r.b

/-- The word that a systolic context executes next (R298). -/
def Ctx.syNext (x : Ctx) (w r : EW) : EW := if x.wcnt > 0 then w else r

/-- The port of an operand or output code. -/
def portOf (c : Nat) : PortId := fin 3 (c - 8)

/-- Data tokens of a queue ahead of any marker. -/
def dataAhead : List QTok → Nat
  | [] => 0
  | t :: ts => if t.tok.marker then 0 else dataAhead ts + 1

/-- The marker at the head of a queue, if one is there. -/
def PortQ.marker? (q : PortQ) : Option Token :=
  match q.toks with
  | t :: _ => if t.tok.marker then some t.tok else none
  | [] => none

/-- The port takes part in marker alignment: it is consumed, and is neither a merge's feedback port (R57) nor the weight port of a systolic context (R334). -/
def Ctx.aligns (x : Ctx) (k : PortId) : Bool :=
  decide (0 < hCi x.hdr k) &&
  (match x.mergeWord with | some e => portOf e.b != k | none => true) &&
  (hRole x.hdr != .sy || match x.syWords with | some (w, _) => portOf w.a != k | none => true)

/-- The ports. -/
def ports : List PortId := [0, 1, 2, 3]

/-- A port of a source context at whose head a marker stands that the sequencer injected (R52). -/
def Ctx.injected (x : Ctx) : Option PortId := if hSource x.hdr then ports.find? fun k => (x.q.get k).marker?.isSome else none

/-- Some aligning port is held at a marker, or a source context at one that was injected (R52). -/
def Ctx.isHeld (x : Ctx) : Bool := (ports.any fun k => x.aligns k && (x.q.get k).marker?.isSome) || x.injected.isSome

/-- Data tokens that the next firing takes from a port: its consume count, in a systolic context only where the chosen word names the port (R298). -/
def Ctx.takes (x : Ctx) (k : PortId) : Nat :=
  if hRole x.hdr = .sy then
    match x.syWords with
    | some (w, r) =>
      let e := x.syNext w r
      if (isPort e.a && portOf e.a == k) || (isPort e.b && portOf e.b == k) then hCi x.hdr k else 0
    | none => hCi x.hdr k
  else hCi x.hdr k

/-- The contexts that a `tagctx` word of the program may choose for output k (R304). -/
def Ctx.tags (x : Ctx) (k : PortId) : List CtxId :=
  match x.words.find? fun e => opOf e == .tagctx && e.d == 8 + k.val with
  | some e => if e.mod % 2 = 0 then [fin 3 e.imm] else [0, 1, 2, 3]
  | none => []

/-- Whether a context may fire now, or the stall counter that a cycle adds to and the port blamed (R47): 0 ALIGN, 1 INEMPTY, 2 OFULL, 3 VSLOT, 4 LOSTARB. -/
inductive Perm where
  | ok
  | stall (i : Fin 5) (blame : Option PortId)
  deriving DecidableEq, Repr

/-- The channel that the next element of a virtual stream reaches through its extents. -/
def State.agChannel (s : State) (r : CtxRef) (m : Stream) : Option Nat :=
  let x := s.ctx r
  if m.space ≠ 2 then none
  else match m.addrOf (x.c.get 0) x.its with
    | some a => let (b, _, _) := elemBytes m.fmt a
      if b < 0 then none else match extentPa b.toNat 0 x.b.toList with
        | some pa => s.hub.channel? pa
        | none => none
    | none => none

/-- The budgets allow the next request of a stream (R354): the reply tokens on the output link, a vertical slot, or a burst of the channel. -/
def State.agAdmits (s : State) (r : CtxRef) (m : Stream) (o : EOp) : Bool :=
  let c := s.col r.col
  c.admitsL 0 (owes o m.fmt) &&
  (m.space != 1 || (upTo 4).any fun p => c.admitsV 0 p) &&
  (match s.agChannel r m with
   | some ch => s.hub.admits (8 + ch) (s.partOf (.col r.col)) 0
   | none => true)

/-- A write word of an AG context goes on to consume tokens after its stream's last element, and discards them (R295). -/
def Ctx.discards (x : Ctx) (m : Stream) : Bool := m.halt == .run && m.allIssued && m.write && !hSource x.hdr

/-- Permission of an AG context's issuing word beyond its inputs and its program's outputs (R291, R292, R294, R295, R296, R140). -/
def State.permitAg (s : State) (r : CtxRef) (o : EOp) : Perm :=
  let x := s.ctx r
  match x.strm with
  | none => .stall 1 none
  | some m =>
    let c6 := x.c.get 6
    if m.halt = .page || m.halt = .full || m.halt = .inval then .stall 3 none
    else if x.discards m then .ok
    else if m.halt ≠ .run || m.allIssued || (m.issuedReqs = 0 && s.now < m.next) then .stall 1 none
    else if 0 < owes o m.fmt && s.portFree r m.dout [] < m.owed o + owes o m.fmt then .stall 2 none
    else if c6.getLsbD 0 && s.portFree r (c6Port c6) [] < m.compOwed c6 + 1 then .stall 2 none
    else if m.reqs.any AgReq.wantsSlot || !s.agAdmits r m o then .stall 3 none
    else .ok

/-- Permission of a merge context (R44, R57, R288). A held outer marker counts ALIGN in every cycle in which no token moves (R47). -/
def State.permitMerge (s : State) (r : CtxRef) (e : EW) : Perm :=
  let x := s.ctx r
  let fb := x.q.get (portOf e.b)
  let outer := x.q.get (portOf e.a)
  let c4 := x.c.get 4
  let lets := decide (0 < dataAhead outer.toks) && decide (bitsNat c4 31 16 < bitsNat c4 15 0)
  if 0 < dataAhead fb.toks || lets then
    (if 1 ≤ s.portFree r (portOf e.d) [] && (s.col r.col).admitsL 0 1 then .ok
     else .stall (if outer.marker?.isSome then 0 else 2) none)
  else if outer.marker?.isSome then .stall 0 none
  else if 0 < dataAhead outer.toks then .stall 4 none
  else .stall 1 (some (min (portOf e.a) (portOf e.b)))

/-- The port on which a stream's reply tokens leave, whose free space the tokens owed decide in place of the produce count (R292). -/
def Ctx.owedPort (x : Ctx) : Option PortId :=
  match x.strm, issuingWord (x.prog.toList.take (hLen x.hdr)) with
  | some m, some e => if 0 < owes (opOf e) m.fmt then some m.dout else none
  | _, _ => none

/-- The next word of a systolic context loads a weight, and emits nothing (R298). -/
def Ctx.loadsWeight (x : Ctx) : Bool := hRole x.hdr == .sy && decide (0 < x.wcnt)

/-- Outputs of a program have the free space it needs (R44, R284, R292, R298). -/
def State.outputsFree (s : State) (r : CtxRef) : Bool :=
  let x := s.ctx r
  x.loadsWeight || ports.all fun k =>
    let need := Nat.max (hPo x.hdr k) (if x.words.any fun e => steerPort e k.val then 1 else 0)
    need = 0 || x.owedPort == some k || need ≤ s.portFree r k (x.tags k)

/-- Tokens that a firing may emit on the output link (R354). -/
def Ctx.produces (x : Ctx) : Nat := if x.loadsWeight then 0 else sumList (ports.map fun k => hPo x.hdr k)

/-- The stream of an AG context is stopped at a page, or paused by an invalidation: its issuing word counts VSLOT in every cycle (R296). -/
def Ctx.paged (x : Ctx) : Bool :=
  (issuingWord (x.prog.toList.take (hLen x.hdr))).isSome &&
  match x.strm with | some m => m.halt == .page || m.halt == .full || m.halt == .inval | none => false

/-- Whether a live context may fire now (R44 to R47). -/
def State.permit (s : State) (r : CtxRef) : Perm :=
  let x := s.ctx r
  let role := hRole x.hdr
  match (if role = .sy then none else x.mergeWord) with
  | some e => if s.now < x.fwd then .stall 0 none else s.permitMerge r e
  | none =>
    let bad : Perm := .stall 1 (match x.words with | e :: _ => if isPort e.a then some (portOf e.a) else none | [] => none)
    let sy := x.syWords
    if x.paged then .stall 3 none
    else if s.now < x.fwd || x.isHeld then .stall 0 none
    else if role = .sy && (match sy with | some (w, q) => !x.syOk w q | none => true) then bad
    else if role ≠ .sy && x.words.any (fun e => isSyWord (opOf e)) then bad
    else match ports.find? fun k => decide (dataAhead (x.q.get k).toks < x.takes k) with
    | some k => .stall 1 (some k)
    | none =>
      if role ≠ .ag && hSource x.hdr && x.sect = 0#32 then .stall 1 none
      else
        let out := s.outputsFree r
        let adm := (s.col r.col).admitsL 0 x.produces
        match issuingWord (x.prog.toList.take (hLen x.hdr)) with
        | some e =>
          match s.permitAg r (opOf e) with
          | .ok => if !out then .stall 2 none else if !adm then .stall 3 none else .ok
          | .stall 3 b => if !out && (match x.strm with | some m => m.halt == .run | none => true) then .stall 2 none else .stall 3 b
          | p => p
        | none => if !out || !adm then .stall 2 none else .ok

/-- The column starts firings: no pre-emption or forced scroll has stopped it, and the part is awake (R83, R366, R426). -/
def State.fires (s : State) (c : ColId) : Bool := (s.col c).pre == .none && s.hub.pwr == .run && (s.col c).drift.forced.isNone &&
  (match (s.col c).drift.op with | some o => o.begun.isNone | none => true)

/-- The stage record that a slot hosts. -/
def Drift.cur (d : Drift) : Option StageRes := d.seq.find? fun r => r.stage == d.hosted

/-- A context may fire in a drift slot that has a next stage: the hosted stage uses it; its partner holds another stage (R63). -/
def Drift.fires (d : Drift) (e : ElemId) (c : CtxId) : Bool :=
  !d.on || decide (d.seq.length ≤ 1) || (match d.cur with | some r => r.ctxs.contains (e, c) | none => true)

/-- A context is a candidate of the arbiter. -/
def State.candidate (s : State) (r : CtxRef) : Bool :=
  (s.ctx r).isLive s.now && (s.col r.col).drift.fires r.elem r.ctx && !(s.ctx r).stopped && s.fires r.col && s.permit r == .ok

/-! The arbiter (R29). -/

/-- Cycles that a context's firing has been permitted without starting. -/
def Ctx.waited (x : Ctx) (now : Nat) : Nat :=
  match x.since with
  | some t => now - t
  | none => 0

/-- The member of a list with the greatest value, the first on a tie. -/
def argMax {α : Type} (f : α → Int) : α → List α → α
  | b, [] => b
  | b, x :: xs => if f b < f x then argMax f x xs else argMax f b xs

/-- Arbitration among candidates `cs`, which are in ascending order: the chosen context, and the element after it. -/
def Elem.arbitrate (el : Elem) (now : Nat) (cs : List CtxId) : Option (CtxId × Elem) :=
  let wait (c : CtxId) : Nat := (el.ctxs.get c).waited now
  let forced := cs.filter fun c => decide (15 ≤ el.skip.get c) || decide (8 * cs.length ≤ wait c)
  let k := vmapIdx (fun i x => if cs.contains (fin 3 i) then x + (el.w.get (fin 3 i) : Int) else x) el.k
  let pick := match forced with
    | f :: fs => some (argMax (fun c => (wait c : Int)) f fs)
    | [] => match cs with
      | c :: r => some (argMax (fun c => k.get c) c r)
      | [] => none
  match pick with
  | none => none
  | some x =>
    let total : Nat := sumList (cs.map fun c => el.w.get c)
    let skip := vmapIdx (fun i n => if fin 3 i = x then 0 else if cs.contains (fin 3 i) then n + 1 else n) el.skip
    some (x, { el with k := vmod k x (fun y => y - (total : Int)), skip := skip })

/-- The arbiter's epoch (R29): weights from the queues, credits and skip counts zero. -/
def Elem.epoch (el : Elem) : Elem :=
  { el with w := vmap (fun x : Ctx => 1 + sumList (x.q.toList.map fun q => q.toks.length)) el.ctxs, k := vfill 4 0, skip := vfill 4 0 }

/-! Consuming. -/

/-- Takes `n` tokens from the head of an input queue and returns their credits (R50). -/
def State.takeToks (s : State) (p : PortRef) (n : Nat) : List QTok × State :=
  let q := (s.ctx p.at_).q.get p.port
  let l := q.toks.take n
  let s := s.modCtx p.at_ fun x => { x with q := vset x.q p.port { q with toks := q.toks.drop n } }
  (l, l.foldl (fun s t => s.credit t.cred s.now) s)

/-- Block-scale loads of consumed tokens, in consumption order (R43). -/
def scaleLoads (vct : Vector Half 32) (sc : Vector (BitVec 8) 16) : List Token → Vector (BitVec 8) 16
  | [] => sc
  | t :: ts => scaleLoads vct (if t.bfirst then vset sc (fin 15 (vctScr (vctOf vct t.vch))) t.scale else sc) ts

/-- Tokens that a firing consumes, by port. -/
def State.consume (s : State) (r : CtxRef) (n : PortId → Nat) : Vector (List QTok) 4 × State :=
  let (a, s) := s.takeToks ⟨r, 0⟩ (n 0)
  let (b, s) := s.takeToks ⟨r, 1⟩ (n 1)
  let (c, s) := s.takeToks ⟨r, 2⟩ (n 2)
  let (d, s) := s.takeToks ⟨r, 3⟩ (n 3)
  (⟨#[a, b, c, d], rfl⟩, s)

/-- The firing's working state from what it consumed (R43, R192). -/
def State.fireOf (s : State) (r : CtxRef) (qs : Vector (List QTok) 4) : Fire :=
  let el := s.elem r.col r.elem
  let all := (qs.toList.flatMap fun l => l).map (·.tok)
  { ctx := s.ctx r, vct := el.vct, sc := scaleLoads el.vct el.sc all, droptok := el.droptok,
    toks := vmap (fun l : List QTok => l.map (·.tok)) qs, tokTaint := all.any (·.taint), accTaint := false, out := [] }

/-- The column of a slot of a column's band. -/
def State.slotCol (s : State) (c : ColId) (slot : Nat) : Option ColId :=
  match s.taskOf c with
  | some t => t.cols[slot]?
  | none => none

/-! UCIe links (scope table): ring links 0 to 3 join stacks 0–1, 1–3, 3–2 and 2–0, and links 4 to 7 join stacks 0 to 3 to the hub (the numbers: assumption log 102). -/

/-- A stack's place in the ring 0–1–3–2–0. -/
def ringPlace (k : StackId) : Nat := nth 0 [0, 1, 3, 2] k.val

/-- The two ways round the ring between two stacks, as the links they take. -/
def ringWays (a b : StackId) : List (List Nat) :=
  let d := (ringPlace b + 4 - ringPlace a) % 4
  [(upTo d).map fun i => (ringPlace a + i) % 4, (upTo (4 - d)).map fun i => (ringPlace b + i) % 4]

/-- Crossings between two stacks at the least. -/
def ringDist (a b : StackId) : Nat := if a = b then 0 else ((ringWays a b).map List.length).foldl Nat.min 4

/-- The route that a placement fixes between two slots (R48): its hops, and its stack crossings, none where the stacks agree and at least the links between them where they differ (R14). A pair that the placement does not name has one hop (assumption log 84). -/
def MapperPlan.route (p : MapperPlan) (i j : Nat) (a b : ColId) : Nat × Nat :=
  let (h, x) := match p.hops.find? fun q => q.1 == i && q.2.1 == j with
    | some q => q.2.2
    | none => (1, 1)
  (h, if stackOf a = stackOf b then 0 else Nat.max x (ringDist (stackOf a) (stackOf b)))

/-- The pairs of slots that follow each other in a band (R14). -/
def neighbours (drift : Bool) (cols : List ColId) : List (Nat × Nat × ColId × ColId) :=
  (upTo cols.length).filterMap fun i =>
    let j := if i + 1 = cols.length then 0 else i + 1
    match cols[i]?, cols[j]? with
    | some a, some b => if stackOf a == stackOf b || (j = 0 && !drift) then none else some (i, j, a, b)
    | _, _ => none

/-- The ways that the route between two slots of a band may take: those of as many crossings as it has. -/
def MapperPlan.ways (p : MapperPlan) (q : Nat × Nat × ColId × ColId) : List (List Nat) :=
  let x := (p.route q.1 q.2.1 q.2.2.1 q.2.2.2).2
  (ringWays (stackOf q.2.2.1) (stackOf q.2.2.2)).filter fun l => l.length == x

/-- L of a route (R48). -/
def routeL (r : Nat × Nat) : Nat := 2 * r.1 + 36 * r.2

/-- One-way latency L between two columns of a band (R48): 1 within a column. -/
def State.latency (s : State) (a b : ColId) : Nat :=
  if a = b then 1
  else match s.taskOf a with
    | none => 2
    | some t =>
      let i := (indexOf? (· == a) t.cols).getD 0
      let j := (indexOf? (· == b) t.cols).getD 0
      match t.place with
      | none => 2
      | some p => routeL (p.toMapperPlan.route i j a b)

/-- An exit steer's decrement on its way to the merge that c5 names (R55, R287). -/
def State.exitDec (s : State) (r : CtxRef) (c5 : Word) (t : Nat) : State :=
  match s.slotCol r.col (bitsNat c5 7 0) with
  | none => s.countDrop r.col r.elem 1
  | some c => { s with decs := s.decs ++ [⟨⟨c, fin 31 (bitsNat c5 12 8), fin 3 (bitsNat c5 14 13)⟩, r, t + s.latency r.col c⟩] }

/-- Sondes that a firing consumed (R415): the lowest id goes on with the firing's first token on its lowest port, logging a hop; the others end. Answers the emissions with the mark. -/
def State.moveSondes (s : State) (r : CtxRef) (qs : List QTok) (es : List (Nat × Emission)) (store : Bool) : List (Nat × Emission) × State :=
  let tags := qs.filterMap fun q => q.tok.sonde.map fun g => (g, q.arr)
  match tags with
  | [] => (es, s)
  | t :: ts =>
    let best := argMax (fun t : BitVec 16 × Nat => -(sondeId t.1 : Int)) t ts
    let s := (tags.filter fun t => t.1 != best.1).foldl (fun s t => s.endSonde t.1 2) s
    let low : Option Nat := es.foldl (fun (m : Option Nat) e => if e.2.tok.marker then m else
      match m with | none => some e.2.port.val | some x => some (Nat.min x e.2.port.val)) none
    match indexOf? (fun e : Nat × Emission => !e.2.tok.marker && low == some e.2.port.val) es with
    | some i =>
      let j := (es[i]?.map (·.1)).getD 0
      let s := s.hopSonde best.1 r best.2 (s.now + j)
      let alive := (s.stack (sondeStack best.1)).sondes.any fun q => q.id.toNat == sondeId best.1
      (modNth (fun e => (e.1, { e.2 with tok := { e.2.tok with sonde := if alive then some best.1 else none } })) i es, s)
    | none => (es, (s.hopSonde best.1 r best.2 s.now).endSonde best.1 (if store then 0 else 1))

/-- After how many cycles word `j` of a firing of `len` words executes, one word in each of the column's own cycles (R27, R422). -/
def State.wordOff (s : State) (c : ColId) (len j : Nat) : Nat := j + s.stretchOf c len * j / Nat.max len 1

/-- What every firing leaves (R27): the element is busy for the words' cycles, the context is written back, and the emissions leave in their words' cycles. -/
def State.finishFire (s : State) (r : CtxRef) (f : Fire) (len : Nat) (qs : Vector (List QTok) 4) (es : List (Nat × Emission)) : State :=
  let all := qs.toList.flatMap fun l => l
  let store := match issuingWord (f.ctx.prog.toList.take (hLen f.ctx.hdr)) with
    | some e => opOf e == .agsto || opOf e == .agxpd
    | none => false
  let off := s.wordOff r.col len
  let (es, s) := s.moveSondes r all (es.map fun e => (off e.1, e.2)) store
  let s := s.modElem r.col r.elem fun el =>
    { el with ctxs := vset el.ctxs r.ctx { f.ctx with since := none, dirty := true }, sc := f.sc, droptok := f.droptok,
              busy := s.now + off len, last := r.ctx, vctDirty := el.vctDirty || all.any (·.tok.bfirst) }
  let s := es.foldl (fun s e =>
    let s := s.emitOn r e.2.port e.2.ctx e.2.tok (s.now + e.1)
    if e.2.exit then s.exitDec r (f.ctx.c.get 5) (s.now + e.1) else s) s
  match (s.col r.col).band with
  | some b => s.modTask b.task fun t => { t with fired := s.now, waited := 0 }
  | none => s

/-- The words of a program, one a cycle: the emissions with their cycles, the firing after them, and the request of an issuing word. -/
def State.runWords (s : State) (r : CtxRef) : Nat → List EW → Fire → List (Nat × Emission) × Fire × (State → State)
  | _, [], f => ([], f, id)
  | j, e :: es, f =>
    if isAgWord (opOf e) then
      let (f, g) := s.issueWord r e f
      ([], f, g)
    else
      let f' := execEword { f with out := [] } e
      let (o, f'', g) := s.runWords r (j + 1) es f'
      (f'.out.map (fun x => (j, x)) ++ o, f'', g)

/-- Hub meters of the bursts that a request's device pieces touch, class 0 (R352). -/
def State.chargeBursts (s : State) (r : CtxRef) : State :=
  match (s.ctx r).strm with
  | none => s
  | some m => match m.reqs.getLast? with
    | none => s
    | some q =>
      let bursts := (q.pieces.filter fun p => p.loc.space == .dev && p.st == .waiting).map fun p => p.loc.addr / 64
      let p := s.partOf (.col r.col)
      bursts.eraseDups.foldl (fun s b => match s.hub.channel? (b * 64) with
        | some ch => s.modHub fun h => h.charge (8 + ch) p 0 1
        | none => s) s

/-- A firing of an ordinary program. -/
def State.fireProg (s : State) (r : CtxRef) : State :=
  let x := s.ctx r
  let (qs, s) := s.consume r fun k => x.takes k
  let f := s.fireOf r qs
  let f := if hRole x.hdr ≠ .ag && hSource x.hdr then { f with ctx := { f.ctx with sect := f.ctx.sect - 1 } } else f
  let (es, f, g) := s.runWords r 0 x.words f
  let s := s.finishFire r f (hLen x.hdr) qs es
  if hRole x.hdr = .ag then (g s).chargeBursts r else s

/-- A firing of a merge (R288): the feedback port first. -/
def State.fireMerge (s : State) (r : CtxRef) (e : EW) : State :=
  let x := s.ctx r
  let fb := portOf e.b
  let fromFb := decide (0 < dataAhead (x.q.get fb).toks)
  let k := if fromFb then fb else portOf e.a
  let (qs, s) := s.consume r fun p => if p = k then 1 else 0
  let f := s.fireOf r qs
  let w := laneW e.t
  let (v, f) := operand f e (8 + k.val) w
  let c4 := f.ctx.c.get 4
  let f := if fromFb then f else { f with ctx := { f.ctx with c := vset f.ctx.c 4 (putField c4 16 (BitVec.ofNat 16 (bitsNat c4 31 16 + 1))) } }
  let valid := topValid 0 ((upTo (256 / w)).map fun i => LaneRes.of (v.laneOk w i) 0)
  let f := emitTok { f with out := [] } (portOf e.d) v.val valid none false false
  s.finishFire r f 1 qs (f.out.map fun o => (0, o))

/-- Lane `i` of width `w` of a payload whose low `bits` bits are valid: zero where the lane does not lie wholly in them (R263). -/
def lowLane (payload bits w i : Nat) : Nat := if (i + 1) * w ≤ bits then laneOf payload w i else 0

/-- Lane `i` of a run of tokens of format t, in order (R301); lanes above VALID are zero. -/
def runLane (vct : Vector Half 32) (t : Nat) (ts : List Token) (i : Nat) : Nat :=
  match ts[i / lanesOf t]? with
  | some k => lowLane k.payload.toNat (tokBits vct k) (laneW t) (i % lanesOf t)
  | none => 0

/-- Weight w(i, k) (R301). -/
def weightLane (ws : Vector Weight 8) (t p i k : Nat) : Nat :=
  let w := ws.get (fin 7 (p * k + i / lanesOf t))
  lowLane w.payload.toNat w.bits (laneW t) (i % lanesOf t)

/-- f32 sum in order, one rounding each (R301). -/
def sumF32 (s : Nat) : List Fv → Nat
  | [] => s
  | x :: xs => sumF32 (FFmt.f32.roundA (Fv.add (FFmt.f32.val s) x)) xs

/-- Output s(k) of a systolic step (R301). -/
def sysOut (t : Nat) (n : Nat) (sX sW : BitVec 8) (pairs : List (Nat × Nat)) : Nat :=
  if isIntFmt t then
    (((signedNat 32 n) + dotInt t pairs) % (2 ^ 32 : Nat)).toNat
  else if t = 6 then sumF32 n (pairs.map fun p => Fv.mul (FFmt.f32.val p.1) (FFmt.f32.val p.2))
  else FFmt.f32.roundA (Fv.add (FFmt.f32.val n) (FFmt.f32.val (FFmt.f32.roundA (blockValue t sX sW pairs))))

/-- A preload of a column ends when every context of its region has loaded its count: a class-13 message of KIND 1 (R244, R300). -/
def State.preloadDone (s : State) (c : ColId) : State :=
  match (s.col c).wpre with
  | none => s
  | some p =>
    if p.ctxs.all fun q => ((s.col c).ctx q.1 q.2).wcnt == 0 then
      (s.modCol c fun x => { x with wpre := none }).selfQueue (.col c)
        (selfMsg (.col c) 13 1 (s.cyc (stackOf c)) (BitVec.ofNat 64 p.loaded) none)
    else s

/-- A firing of a systolic context: `sywld` or `syrun` (R298 to R301). -/
def State.fireSy (s : State) (r : CtxRef) (w e : EW) : State :=
  let x := s.ctx r
  let (qs, s) := s.consume r fun k => x.takes k
  let f := s.fireOf r qs
  let el := s.elem r.col r.elem
  if x.wcnt > 0 then
    match f.toks.get (portOf w.a) with
    | [] => s
    | t :: _ =>
      let wt : Weight := ⟨t.payload, tokBits f.vct t, t.taint⟩
      let f := { f with ctx := { f.ctx with wcnt := f.ctx.wcnt - 1, wk := f.ctx.wk + 1 } }
      let s := s.modElem r.col r.elem fun y => { y with weights := vset y.weights (fin 7 (x.wk % 8)) wt, wscr := BitVec.ofNat 4 (vctScr (vctOf f.vct t.vch)) }
      let count (p : Wpre) : Wpre := if p.ctxs.contains (r.elem, r.ctx) = true then { p with loaded := p.loaded + 1 } else p
      let s := s.modCol r.col fun c => { c with wpre := c.wpre.map count }
      (s.finishFire r f 1 qs []).preloadDone r.col
  else
    let (m, p, q) := sysShape e.t
    let west := f.toks.get (portOf e.a)
    let north : Option Token := if isPort e.b = true then (f.toks.get (portOf e.b)).head? else none
    let scX (t : Token) : BitVec 8 := f.sc.get (fin 15 (vctScr (vctOf f.vct t.vch)))
    let sX := (west.getLast?.map scX).getD 127#8
    let sW := f.sc.get (fin 15 el.wscr.toNat)
    let outs := (upTo q).map fun k =>
      let n := match north with | some t => lowLane t.payload.toNat (tokBits f.vct t) 32 k | none => 0
      sysOut e.t n sX sW ((upTo m).map fun i => (runLane f.vct e.t west i, weightLane el.weights e.t p i k))
    let wtaint := (upTo (p * q)).any fun i => (el.weights.get (fin 7 i)).taint
    let f1 := emitTok { f with out := [], accTaint := wtaint } (portOf e.d) (packLanes 32 outs) (q - 1) none false false
    let south := f1.out.map fun o => (0, o)
    let oE := fin 3 (e.imm % 4)
    let east (f : Fire) : Fire × List (Nat × Emission) :=
      if e.imm / 4 = 1 then
        west.foldl (fun (a : Fire × List (Nat × Emission)) t =>
          let t' := { t with ord := a.1.ctx.ord.get oE, vch := 0, vchSet := false, sonde := none }
          ({ a.1 with ctx := { a.1.ctx with ord := vmod a.1.ctx.ord oE (· + 1) } }, a.2 ++ [(0, ⟨oE, t', none, false⟩)])) (f, [])
      else (f, [])
    let (f2, es) := east f1
    s.finishFire r f2 1 qs (south ++ es)

/-- A FIRING of a context (R27). -/
def State.fire (s : State) (r : CtxRef) : State :=
  let x := s.ctx r
  match (if hRole x.hdr = .sy then none else x.mergeWord) with
  | some e => s.fireMerge r e
  | none =>
    if hRole x.hdr = .sy then
      match x.syWords with
      | some (w, e) => s.fireSy r w e
      | none => s
    else s.fireProg r

/-- The element arbitrates and a firing starts, if a context is permitted and no firing executes (R27, R29). -/
def State.fireElem (s : State) (c : ColId) (e : ElemId) : State :=
  let el := s.elem c e
  if s.now < el.busy then s
  else
    let cs := ([0, 1, 2, 3] : List CtxId).filter fun k => s.candidate ⟨c, e, k⟩
    match el.arbitrate s.now cs with
    | none => s
    | some (k, el') => (s.modElem c e fun _ => el').fire ⟨c, e, k⟩

/-- `ELEMENT_FIRING`. -/
def execElementFiring (c : ColId) (e : ElemId) (s : State) : Out := .next (s.fireElem c e)

/-- The epoch boundary of a stack's columns, as its cyc<7:0> becomes 0 (R29). -/
def State.epochs (s : State) : State :=
  if s.stk.toList.all fun k => k.cyc.toNat % 256 != 0 then s
  else { s with cols := vmapIdx (fun i x => if (s.cyc (fin 3 (i / 64))).toNat % 256 = 0 && x.band.isSome then { x with elems := vmap Elem.epoch x.elems } else x) s.cols }

/-- `ARBITER_EPOCH`: at cyc<7:0> = 0 of the stack, every element of its columns that starts no firing before it in the cycle (R29). -/
def execArbiterEpoch (k : StackId) (s : State) : Out :=
  if (s.cyc k).toNat % 256 ≠ 0 then .next s
  else
    let epoch (e : Elem) : Elem := if e.busy ≤ s.now then e.epoch else e
    .next { s with cols := vmapIdx (fun i x => if i / 64 = k.val && x.band.isSome then { x with elems := vmap epoch x.elems } else x) s.cols }

/-- The merge that a decrement is for admits an outer token in this cycle, and its occupancy is 0 (R288). -/
def State.admitsFirst (s : State) (d : Decrement) : Bool :=
  let x := s.ctx d.merge
  decide (s.now ≤ d.due) && decide ((s.elem d.merge.col d.merge.elem).busy ≤ s.now) && s.candidate d.merge && bitsNat (x.c.get 4) 31 16 = 0

/-- `MERGE_DECREMENT` (R287, R288). A decrement that would take the occupancy below 0 comes after an admission of its cycle. -/
def execMergeDecrement (i : Nat) (s : State) : Out :=
  match s.decs[i]? with
  | none => .next s
  | some d =>
    if s.now < d.due || s.admitsFirst d then .next s
    else
      let s := { s with decs := dropNth i s.decs }
      let x := s.ctx d.merge
      if x.st == .live && x.mergeWord.isSome then
        let occ := bitsNat (x.c.get 4) 31 16
        if occ = 0 then .next (s.countDrop d.merge.col d.merge.elem 1)
        else .next (s.modCtx d.merge fun x => { x with dirty := true, c := vmod x.c 4 fun c4 => putField c4 16 (BitVec.ofNat 16 (occ - 1)) })
      else .next (s.countDrop d.from_.col d.from_.elem 1)

/-- `CREDIT_RETURN` (R50). -/
def execCreditReturn (i : Nat) (s : State) : Out :=
  match s.credits[i]? with
  | none => .next s
  | some k => if s.now < k.due then .next s else .next ({ s with credits := dropNth i s.credits }.modFree k.feeder (· + 1))

end Sys2Proof.Machine
end

