-- ==== Sys2Proof/Machine/Handlers.lean ====
section
/-! DEFINITION. The dispatch of messages to handlers (R18 to R24) and the fetch of an instruction (R203, R206, R215). -/

namespace Sys2Proof.Machine

/-- A pending message may be dispatched: its class is armed and not masked. -/
def Cpu.eligible (u : Cpu) (m : PendMsg) : Bool := u.armed m.cls.toNat && !u.masked m.cls.toNat

/-- The highest priority among the eligible messages. -/
def Cpu.topPrio (u : Cpu) : Nat := maxList ((u.pend.filter u.eligible).map fun m => u.prio m.cls.toNat)

/-- An eligible message has a lower priority than the top. -/
def Cpu.someLower (u : Cpu) : Bool := (u.pend.filter u.eligible).any fun m => decide (u.prio m.cls.toNat < u.topPrio)

/-- The message that R20 chooses, as its position, and the starvation counter after it. -/
def Cpu.choose (u : Cpu) : Option (Nat × Nat) :=
  let low (m : PendMsg) : Bool := u.eligible m && decide (u.prio m.cls.toNat < u.topPrio)
  let top (m : PendMsg) : Bool := u.eligible m && u.prio m.cls.toNat == u.topPrio
  if u.starve = 63 && u.someLower then (indexOf? low u.pend).map fun i => (i, 0)
  else (indexOf? top u.pend).map fun i => (i, if u.someLower then u.starve + 1 else 0)

/-- g4 at dispatch (R21). -/
def PendMsg.g4 (m : PendMsg) : DWord :=
  BitVec.ofNat 64 ((m.len.toNat + 1) * 2 ^ 28 + m.seq.toNat * 2 ^ 16 + (if m.src.snc then 2 ^ 13 else 0) +
    m.cls.toNat * 2 ^ 8 + m.src.id.toNat)

/-- The local address of the message area of a class (R22). -/
def areaBase (cls : Nat) : Nat := 0x16C00 + 256 * cls

/-- Lamport clock at a dispatch (R419). -/
def lamport (own : BitVec 48) (v : Option (BitVec 48)) : BitVec 48 :=
  match v with
  | none => own
  | some v => if own.toNat < v.toNat + 1 then v + 1 else own

/-- Writes bytes at local addresses of a node's near store, byte by byte through the interleave. -/
def State.putNear (s : State) (n : Node) (a : Nat) : List Byte → State
  | [] => s
  | b :: bs =>
    let p := s.nearPhys n a
    let mask := byteMask (p % 8) 1
    let v := BitVec.ofNat 64 (b.toNat * 2 ^ (8 * (p % 8)))
    let s := match n with
      | .col c => s.modCol c fun x => x.writeNear (p / 8) mask v
      | .hart _ => s.modCpu n fun u => { u with near := u.near.writeWord (p / 8) mask v }
    s.putNear n (a + 1) bs

/-- The sequencer neither issues nor dispatches: HALT, the debug state, a pre-emption that has halted it, or a part that sleeps. -/
def State.seqStopped (s : State) (n : Node) : Bool :=
  (s.cpu n).halt || (s.hub.pwr != .run) || match n with
  | .hart _ => false
  | .col c =>
    let x := s.col c
    (x.dbg.dhalt && !x.dbg.stepping) || (match x.pre with | .none | .stopped => false | .halted | .drained | .saved => true)

/-- A commit window of the node's slot is open (R76). -/
def State.inWindow (s : State) : Node → Bool
  | .hart _ => false
  | .col c => match (s.col c).drift.phase with
    | .window last _ _ => decide (s.now ≤ last)
    | _ => false

/-- The node is a column whose task is loading: its handler table has not gone live (R35). -/
def State.stillLoading (s : State) : Node → Bool
  | .hart _ => false
  | .col c => match s.taskOf c with | some t => t.st == .loading | none => false

/-- A dispatch is due: the sequencer is idle in user mode, its task has loaded, no commit window is open, and R20 finds a message. -/
def State.canDispatch (s : State) (n : Node) : Bool :=
  !(s.cpu n).busy && !(s.cpu n).sup && !s.seqStopped n && !s.inWindow n && !s.stillLoading n && (s.cpu n).choose.isSome

/-- Messages that wait at the units of a node take the entries that are free, oldest first (R19). -/
def State.admitSelf (s : State) (n : Node) : State :=
  match (s.cpu n).selfq with
  | [] => s
  | m :: r => if (s.cpu n).pendCount < 64 then (s.modCpu n fun u => { u with selfq := r }).arrive n m else s

/-- DISPATCH OF A MESSAGE (R20 to R22, R127): the payload goes into the class's area, g1 to g5, `task` and the pc are loaded, and the first instruction issues 3 cycles later. -/
def State.dispatch (s : State) (n : Node) : State :=
  match (s.cpu n).choose with
  | none => s
  | some (i, starve) =>
    match (s.cpu n).pend[i]? with
    | none => s
    | some m =>
      let s := s.modCpu n fun u => { u with pend := dropNth i u.pend, starve := starve }
      let s := s.putNear n (areaBase m.cls.toNat) m.area
      let s := s.modCpu n fun u =>
        let u := ((u.setReg 1 m.g1).setReg 2 m.g2).setReg 3 m.g3
        let u := (u.setReg 4 m.g4).setReg 5 (BitVec.ofNat 64 (areaBase m.cls.toNat + 24))
        { u with
          pc := match m.handler with | some (a, _) => BitVec.ofNat 64 (a.toNat * 4) | none => u.entry m.cls.toNat,
          xid := match m.handler with | some (_, x) => x | none => u.xid,
          task := BitVec.ofNat 14 ((if m.src.snc then 2 ^ 13 else 0) + m.cls.toNat * 2 ^ 8 + m.src.id.toNat),
          lclk := lamport u.lclk m.stamp, busy := true, dirty := true, taint := u.taint || m.taint, ready := s.now + s.nodeCycles n 3 }
      s.admitSelf n

/-- The cause with which a fetch at an address fails, if it does (R206, R215, R342). -/
def State.fetchCause (s : State) (n : Node) (a : DWord) : Option Cause :=
  let sup := (s.cpu n).sup
  let region := bitsNat a 63 60
  if bitsNat a 1 0 ≠ 0 then some .misaligned
  else if region = 0 then
    if sup then some .access
    else if 2 ^ 17 ≤ a.toNat then some .nearRange else s.nearCause n a.toNat
  else if region = 2 then
    if !sup then some .access else if bitsNat a 59 14 ≠ 0 then some .address else none
  else some .address

/-- FETCH of the word at the pc: queued stores to its bytes perform first; an uncorrectable word reads as zero (R203). -/
def State.fetch (s : State) (n : Node) : Res (Word × State) :=
  let a := s.pc n
  match s.fetchCause n a with
  | some c => .error (.trap ⟨c, none, a⟩)
  | none =>
    if bitsNat a 63 60 = 2 then
      let r := (s.hub.fw.readWord (bitsNat a 13 3)).1
      .ok (field r (8 * (a.toNat % 8)) 32, s)
    else
      let p := s.nearPhys n a.toNat
      let s := s.drainQueue n fun o => o.loc.space == .near && o.loc.addr / 8 == p / 8
      match n with
      | .hart h => .ok (field ((s.hart h).cpu.near.readWord (p / 8)).1 (8 * (p % 8)) 32, s)
      | .col c =>
        match s.access ⟨.near, c, p⟩ with
        | .shut => .error .wait
        | .foreign => .ok (0, s)
        | .open_ =>
          let (r, x) := (s.col c).readNear (p / 8)
          .ok (field r.1 (8 * (p % 8)) 32, s.modCol c fun _ => x)

end Sys2Proof.Machine
end

