-- ==== Sys2Proof/Machine/Align.lean ====
section
/-! DEFINITION. Markers: alignment (R52, R53, R57), statistics tokens (R59, R60), shadow swaps (R54), and the landing of tokens (R46, R48, R390). -/

namespace Sys2Proof.Machine

/-! The hosted stage of a drift slot. -/

/-- The next stage of a slot (R62). -/
def Drift.next (d : Drift) : Option StageRes :=
  match indexOf? (fun r : StageRes => r.stage == d.hosted) d.seq with
  | some i => match d.seq[i + 1]? with
    | some r => some r
    | none => d.seq.head?
  | none => none

/-- The stage that follows a hosted one: the next, or, in a slot that hosts one stage only, itself (R61, R62). -/
def Drift.after (d : Drift) (r : StageRes) : StageRes := d.next.getD r

/-- The slot scrolls: it hosts two stages or more, and not every one of them is final (R61, R84). -/
def Drift.scrolls (d : Drift) : Bool := d.on && decide (2 ≤ d.seq.length) && !(d.seq.all fun r => r.final)

/-- A context's outputs that lead out of the column: an `exit` word, or an exit reserved for a replica. -/
def Ctx.exits (x : Ctx) : Bool :=
  x.routes.toList.any fun hs => match (routeOf hs).head with
    | .dests ws => ws.any fun w => w.form == 7
    | _ => false

/-- The context has an output with a head. -/
def Ctx.forwards (x : Ctx) : Bool := x.routes.toList.any fun hs => (routeOf hs).hasHead

/-- The contexts of the hosted stage on which a wave's departure from the slot depends: those with exit routes, or, without one, those that forward nothing (R75, R83). -/
def Column.lastCtxs (x : Column) : List (ElemId × CtxId) :=
  let all := match x.drift.cur with | some r => r.ctxs | none => []
  let ex := all.filter fun q => (x.ctx q.1 q.2).exits
  if ex.isEmpty then all.filter fun q => !(x.ctx q.1 q.2).forwards else ex

/-- A wave's end has been forwarded by a context of the slot; a wave that every such context has forwarded is open no longer (R83). -/
def Column.waveEnd (x : Column) (w : BitVec 48) (e : ElemId) (c : CtxId) : Column :=
  let key (e : ElemId) (c : CtxId) : Nat := e.val * 4 + c.val
  let mark (q : BitVec 48 × List Nat) : BitVec 48 × List Nat := if q.1 = w then (q.1, insertNat (key e c) q.2) else q
  let gone (q : BitVec 48 × List Nat) : Bool := q.1 == w && x.lastCtxs.all fun k => q.2.contains (key k.1 k.2)
  { x with drift := { x.drift with waves := (x.drift.waves.map mark).filter fun q => !gone q } }

/-! Statistics tokens (R59, R60). -/

/-- The context is a converting one (R59): a word of it converts, or a store of it has met a token of another format than the stream's (R123). -/
def Ctx.converts (x : Ctx) : Bool :=
  x.conv || x.words.any fun e =>
    match opOf e with
    | .vfcvt | .vlcvt | .vlqnt | .vfscl => true
    | _ => false

/-- The `stat` word of a context. -/
def Ctx.statWord (x : Ctx) : Option SW := x.routes.toList.findSome? fun hs => (routeOf hs).stat

/-- Where the statistics token of a context goes, if a marker calls for one. -/
def State.statDest (s : State) (r : CtxRef) (m : Token) : Option SW :=
  let x := s.ctx r
  if (m.sub == 1#4 || m.sub == 2#4) && x.converts then x.statWord else none

/-- Emits the statistics token and clears the counters (R60). -/
def State.emitStat (s : State) (r : CtxRef) (m : Token) (w : SW) : State :=
  let x := s.ctx r
  let lanes := x.stat.toList.map (·.toNat) ++ [m.payload.toNat % 2 ^ 32]
  let t := { dataToken (BitVec.ofNat 256 (packLanes 32 lanes)) 7 false with ord := x.statOrd }
  let s := s.modCtx r fun x => { x with stat := vfill 7 0, statOrd := x.statOrd + 1 }
  let p := w.portRef r.col r.ctx none
  (s.modCol r.col fun c => c.chargeL 0 1).sendTo r.col r.elem r.ctx t s.now (.go ⟨.port p, .port p, 1, w.vch⟩)

/-! Shadow swap (R54). -/

/-- Context `a` with the configuration and the working state of `b`. The queue banks, the weight count, the stall and statistics counters and what stops a context stay with the context. -/
def Ctx.takeCfg (a b : Ctx) : Ctx :=
  { a with st := b.st, liveAt := b.liveAt, load := b.load, conv := b.conv, hdr := b.hdr, prog := b.prog, seed := b.seed, lfsr := b.lfsr, v := b.v, acc := b.acc,
           accTaint := b.accTaint, m := b.m, c := b.c, routes := b.routes, ord := b.ord, statOrd := b.statOrd, blk := b.blk,
           deal := b.deal, sect := b.sect, it := b.it, b := b.b, strm := b.strm, syFmt := b.syFmt, dirty := b.dirty }

/-- The contexts `c` and `k` of an element exchange configuration and working state; accesses held for their streams, and the corner-turn buffers and the FO route of their ports, follow. -/
def State.swapCtx (s : State) (r : CtxRef) (k : CtxId) : State :=
  let o : CtxRef := { r with ctx := k }
  let a := s.ctx r
  let b := s.ctx o
  let s := s.modElem r.col r.elem fun e => { e with ctxs := vset (vset e.ctxs r.ctx (a.takeCfg b)) k (b.takeCfg a) }
  let other (w : Waiter) : Waiter := if w = .stream r then .stream o else if w = .stream o then .stream r else w
  let ka := r.elem.val * 4 + r.ctx.val
  let kb := r.elem.val * 4 + k.val
  let flip (q : Nat × Nat) : Nat × Nat := (if q.1 = ka then kb else if q.1 = kb then ka else q.1, q.2)
  let port (p : PortRef) : PortRef := if p.at_ = r then { p with at_ := o } else if p.at_ = o then { p with at_ := r } else p
  let s := s.modCol r.col fun x =>
    { x with barr := x.barr.map fun b => { b with reqs := b.reqs.map flip }, turns := vmap (fun t => { t with owner := t.owner.map port }) x.turns,
             fab := { x.fab with fo := x.fab.fo.map port } }
  s.modStack (stackOf r.col) fun x => { x with replay := x.replay.map fun q => { q with who := other q.who } }

/-- Tokens that wait in the queue bank at ports that the context does not consume are dropped, but for markers that a source context forwards (R46, R52). -/
def State.dropUnconsumed (s : State) (r : CtxRef) : State :=
  ports.foldl (fun s k =>
    if hCi (s.ctx r).hdr k = 0 then
      let q := (s.ctx r).q.get k
      let stays (y : QTok) : Bool := hSource (s.ctx r).hdr && y.tok.marker && (match y.cred with | .inj _ _ => true | _ => false)
      let s := s.modCtx r fun x => { x with q := vset x.q k { q with toks := q.toks.filter stays } }
      (q.toks.filter fun y => !stays y).foldl (fun s y => ((s.countDrop r.col r.elem 1).credit y.cred s.now).endTokSonde y.tok 0) s
    else s) s

/-- THE EXCHANGE that a swap marker brings takes place as the next cycle begins: context and shadow change over, and what waits at ports that the new configurations do not consume is dropped (R46, R54). -/
def State.swapNow (s : State) (r : CtxRef) : State :=
  if (s.ctx r).swap then
    let k := hShadow (s.ctx r).hdr
    let o : CtxRef := { r with ctx := k }
    let s := ((s.modCtx r fun x => { x with swap := false }).swapCtx r k).dropUnconsumed r
    if (s.ctx o).st == .live then s.dropUnconsumed o else s
  else s

/-- The context swaps when a marker of this subtype aligns in it (R54). In a slot of a drift band that has stopped scrolling a scroll marker swaps nothing (R84). -/
def State.swapsOn (s : State) (r : CtxRef) (m : Token) : Bool :=
  let x := s.ctx r
  hShadow x.hdr != r.ctx && m.sub.toNat == hSwsub x.hdr &&
  !(m.sub == 6#4 && (s.col r.col).drift.on && !(s.col r.col).drift.scrolls)

/-! Alignment (R52). -/

/-- No firing of the context is executing. -/
def State.atRest (s : State) (r : CtxRef) : Bool := decide ((s.elem r.col r.elem).busy ≤ s.now) || (s.elem r.col r.elem).last != r.ctx

/-- The marker at which every consuming port of a context is held, or that the sequencer has injected into a source context (R52). -/
def Ctx.heldAt (x : Ctx) : Option Token :=
  match ports.filter x.aligns with
  | [] => match x.injected with
    | some k => (x.q.get k).marker?
    | none => none
  | k :: ks => match (x.q.get k).marker? with
    | none => none
    | some m => if ks.all fun j => match (x.q.get j).marker? with | some n => m.sameMarker n | none => false then some m else none

/-- A scroll marker for a stage that comes in, in a band of `b` slots (R74). -/
def scrollMarker (stage b : Nat) : Token := markerToken 6 (BitVec.ofNat 256 (stage / Nat.max b 1 % 65536 + stage % 65536 * 2 ^ 16))

/-- The scroll marker that the drift controller has placed in a source context of an open slot, or that `dscrl` asks of it (R75, R256). -/
def State.placedScroll (s : State) (r : CtxRef) : Option Token :=
  let x := s.ctx r
  let d := (s.col r.col).drift
  match d.cur, (s.col r.col).band with
  | some n, some b =>
    if !hSource x.hdr then none
    else if x.scroll then some (scrollMarker n.stage b.size)
    else if x.cue then some (scrollMarker (d.after n).stage b.size)
    else none
  | _, _ => none

/-- Every output of a context that has a head has a slot free. -/
def State.outsFree (s : State) (r : CtxRef) : Bool :=
  let x := s.ctx r
  ports.all fun o => !(routeOf (x.routes.get o)).hasHead || decide (1 ≤ s.portFree r o (x.tags o))

/-- The marker whose alignment completes in a context now (R52, R54, R57, R60, R75). -/
def State.alignsAt (s : State) (r : CtxRef) : Option Token :=
  let x := s.ctx r
  let d := (s.col r.col).drift
  if !x.isLive s.now || s.now < x.fwd || x.stopped || !s.fires r.col || d.forced.isSome || !s.atRest r then none
  else match (match x.heldAt with | some m => some m | none => s.placedScroll r) with
    | none => none
    | some m =>
      let merge := x.mergeWord.isNone || bitsNat (x.c.get 4) 31 16 == 0
      let stat := match s.statDest r m with
        | some w => decide (1 ≤ s.freeOf (.port (w.portRef r.col r.ctx none)))
        | none => true
      let cued := x.heldAt.isNone && !x.scroll
      let swap := cued || !s.swapsOn r m || (s.ctx { r with ctx := hShadow x.hdr }).st != .loading
      let scroll := cued || m.sub != 6#4 || !d.scrolls || x.scroll
      if merge && stat && swap && scroll && s.outsFree r then some m else none

/-- What an alignment does to the context's own state: the carry of each `rdscan` and the counter of a `count` restart (R287, R297), and are written then (R70). -/
def Ctx.onMarker (x : Ctx) (m : Token) : Ctx :=
  let start := m.sub == 0#4
  let x := if start && x.words.any (fun e => opOf e == .count) then
      { x with dirty := true, c := vmod x.c 3 fun v => putField v 0 (0 : BitVec 16) } else x
  let carry (x : Ctx) (e : EW) : Ctx :=
    let k := fin 1 (e.imm % 2)
    { x with dirty := true, acc := vmod x.acc k fun a => vset a 0 0, accTaint := vmod x.accTaint k fun t => putBit t 0 false }
  let scans := if start || m.sub == 2#4 then x.words.filter fun e => opOf e == .rdscan else []
  scans.foldl carry x

/-- The wave number of a wave marker (R51). -/
def Token.wave (t : Token) : BitVec 48 := field t.payload 0 48
/-- LASTW of a wave-end marker. -/
def Token.lastOfTrain (t : Token) : Bool := t.payload.getLsbD 64

/-- A wave marker has aligned in a context of a drift slot (R75, R83). -/
def State.noteWave (s : State) (r : CtxRef) (m : Token) : State :=
  if m.sub == 0#4 then s.modCtx r fun x => { x with wave := true }
  else if m.sub == 1#4 then
    let s := s.modCtx r fun x => { x with wave := true, lastw := x.lastw || m.lastOfTrain }
    if (s.col r.col).drift.on then s.modCol r.col fun c => c.waveEnd m.wave r.elem r.ctx else s
  else s

/-- A scroll ends at a context: its marks of the train are gone (R75). -/
def State.scrolled (s : State) (r : CtxRef) : State := s.modCtx r fun x => { x with wave := false, lastw := false, scroll := false }

/-- ALIGNMENT COMPLETES at a marker (R52): the statistics token, one marker consumed from each port, the marker forwarded, and what the marker makes the context do. -/
def State.alignDone (s : State) (r : CtxRef) (m : Token) : State :=
  let x := s.ctx r
  let d := (s.col r.col).drift
  let s := match s.statDest r m with
    | some w => s.emitStat r m w
    | none => s
  let held := ports.filter fun k => (x.aligns k && (x.q.get k).marker?.isSome) || x.injected == some k
  let s := held.foldl (fun s k => (s.takeToks ⟨r, k⟩ 1).2) s
  let flag (q : PortQ) : PortQ := if m.sub == 0#4 then { q with wave := true } else if m.sub == 1#4 then { q with wave := false } else q
  let s := s.modCtx r fun y => { y with q := vmapIdx (fun k q => if x.aligns (fin 3 k) then flag q else q) y.q }
  let swap := s.swapsOn r m
  let s := (s.forwardMarker r m s.now).modCtx r fun y => { y.onMarker m with fwd := s.now + 1, swap := swap }
  let s := s.noteWave r m
  let s := if m.sub != 6#4 then s
    else if x.scroll then s.scrolled r
    else if x.heldAt.isNone then s.modCtx r fun y => { y with cue := false, early := d.scrolls, swap := false }
    else s
  if m.sub == 5#4 && (s.col r.col).dbg.squall.isSome then s.modCtx r fun y => { y with stopped := true } else s

/-! Discards and mismatches (R53, R57). -/

/-- While some consuming port is held, data tokens that stand ahead of the marker on the other ports are discarded (R53). -/
def State.alignDiscard (s : State) (r : CtxRef) : State :=
  if (s.ctx r).isHeld && (s.ctx r).isLive s.now then
    ports.foldl (fun s k =>
      let x := s.ctx r
      let n := dataAhead (x.q.get k).toks
      if x.aligns k && n > 0 then
        let (qs, s) := s.takeToks ⟨r, k⟩ n
        let s := s.modElem r.col r.elem fun e => { e with aldisc := satInc e.aldisc n }
        qs.foldl (fun s q => s.endTokSonde q.tok 0) s
      else s) s
  else s

/-- Markers at the head of a merge's feedback port are consumed and discarded (R57). -/
def State.dropFeedback (s : State) (r : CtxRef) : Nat → State
  | 0 => s
  | n + 1 =>
    match (s.ctx r).mergeWord with
    | none => s
    | some e =>
      let k := portOf e.b
      if ((s.ctx r).q.get k).marker?.isSome then (s.takeToks ⟨r, k⟩ 1).2.dropFeedback r n else s

/-- Two ports of a context are held at unequal markers: the column receives the fault once (R53, R399). -/
def State.noteMismatch (s : State) (r : CtxRef) : State :=
  let x := s.ctx r
  let ms := (ports.filter x.aligns).filterMap fun k => (x.q.get k).marker?
  match ms with
  | [] => s
  | m :: rest =>
    match rest.find? fun n => !m.sameMarker n with
    | none => s
    | some n =>
      if x.mismatch then s
      else (s.modCtx r fun x => { x with mismatch := true }).unitFault r.col .markerMismatch r.elem.val r.ctx.val
        (BitVec.ofNat 64 (m.sub.toNat + n.sub.toNat * 16))

/-- What follows from the heads of a context's queues, short of alignment. -/
def State.heads (s : State) (r : CtxRef) : State :=
  let n := sumList ((s.ctx r).q.toList.map fun q => q.toks.length)
  let s := (s.dropFeedback r n).alignDiscard r
  if (s.ctx r).isLive s.now then s.noteMismatch r else s

/-- `MARKER_ALIGN` at a context: discards, a mismatch, or the alignment. -/
def execMarkerAlign (c : ColId) (e : ElemId) (x : CtxId) (s : State) : Out :=
  let r : CtxRef := ⟨c, e, x⟩
  let s := if (s.ctx r).stopped || !s.fires c then s else s.heads r
  match s.alignsAt r with
  | some m =>
    let s := s.alignDone r m
    .next (s.modCtx r fun x => { x with mismatch := false })
  | none => .next s

/-! Landing (R46, R48, R396). -/

/-- A token that is dropped where it lands: counted at the element, credited as consumed (R46). -/
def State.dropLanding (s : State) (p : PortRef) (q : QTok) : State :=
  ((s.countDrop p.at_.col p.at_.elem 1).credit q.cred s.now).endTokSonde q.tok 0

/-- A landing token belongs to a wave that a forced scroll discards (R83): the last wave marker of its port decides for data. -/
def State.flushed (s : State) (f : Forced) (p : PortRef) (t : Token) : Bool :=
  let q := (s.ctx p.at_).q.get p.port
  let last := (q.toks.reverse.find? fun k => k.tok.marker && (k.tok.sub == 0#4 || k.tok.sub == 1#4)).map fun k => k.tok.sub
  if t.marker && t.sub == 0#4 then f.openW.contains t.wave
  else last.isNone && q.wave

/-- A token that a forced scroll discards: counted and credited (R83). -/
def State.flush (s : State) (p : PortRef) (q : QTok) : State :=
  let t := q.tok
  let count (f : Forced) : Forced := { f with tokens := if t.marker then f.tokens else f.tokens + 1 }
  let s := s.modCol p.at_.col fun x => { x with drift := { x.drift with forced := x.drift.forced.map count } }
  let s := if t.marker && (t.sub == 0#4 || t.sub == 1#4) then
      s.modCtx p.at_ fun x => { x with q := vmod x.q p.port fun k => { k with wave := t.sub == 0#4 } } else s
  (s.credit q.cred s.now).endTokSonde t 0

/-- A checkpoint marker of a pre-emption (R366). -/
def Token.isCheckpoint (t : Token) : Bool := t.marker && t.sub == 4#4 && t.payload.toNat % 2 ^ 64 == 2 ^ 64 - 1

/-- A token lands at an input port of a context. -/
def State.landPort (s : State) (p : PortRef) (q : QTok) : State :=
  let x := s.ctx p.at_
  let col := s.col p.at_.col
  let t := q.tok
  if t.isCheckpoint && col.pre != .none then s.credit q.cred s.now
  else if t.marker && decide (8 ≤ t.sub.toNat) then s.dropLanding p q
  else match x.st with
    | .empty | .parked => s.dropLanding p q
    | st =>
      let own := hSource x.hdr && t.marker && (match q.cred with | .inj _ _ => true | _ => false)
      if st == .live && hCi x.hdr p.port == 0 && !own then s.dropLanding p q
      else
        match (match col.drift.forced with | some f => if s.flushed f p t then some f else none | none => none) with
        | some _ => s.flush p q
        | none =>
          let s := s.modCtx p.at_ fun x => { x with q := vmod x.q p.port fun k => { k with toks := k.toks ++ [q] } }
          let opens := col.drift.on && t.marker && t.sub == 0#4 && !(col.drift.waves.any fun w => w.1 == t.wave)
          let s := if opens then s.modCol p.at_.col fun c => { c with drift := { c.drift with waves := c.drift.waves ++ [(t.wave, [])] } } else s
          if col.pre == .none && !x.stopped then s.heads p.at_ else s

/-- A token lands in a slot of a gather point (R307). -/
def State.landGather (s : State) (c : ColId) (key slot : Nat) (q : QTok) : State :=
  match (s.col c).gathers.find? fun g => g.key == key with
  | none => (s.credit q.cred s.now).countDrop c (fin 31 (key / 16)) 1
  | some _ => s.modCol c fun x => { x with gathers := x.gathers.map fun g =>
      if g.key = key then { g with slots := modNth (fun _ => some (q, s.now)) slot g.slots } else g }

/-- A token lands in a corner-turn buffer (R309). -/
def Turn.land (t : Turn) (q : QTok) : Turn := { t with inq := t.inq ++ [q], due := Nat.max t.due (q.arr + 1) }

/-- A token comes to the place it was sent to. -/
def State.land (s : State) (d : Dest) (q : QTok) : State :=
  match d with
  | .port p => s.landPort p q
  | .frost c => s.modCol c fun x => { x with fab := { x.fab with q := x.fab.q ++ [q] } }
  | .gather c k j => s.landGather c k j q
  | .turn c k => s.modCol c fun x => { x with turns := vmod x.turns k fun t => t.land q }
  | .engine k t => s.modStack k fun x => { x with te := vmod x.te t fun e => { e with packets := e.packets ++ [q] } }

/-- The first flight towards its destination lands once it is due (R39, R48). -/
def State.landFlight (s : State) (i : Nat) : State :=
  match s.flights[i]? with
  | none => s
  | some f =>
    if s.now < f.due || ((s.flights.take i).any fun g => g.dest == f.dest) then s
    else { s with flights := dropNth i s.flights }.land f.dest ⟨f.tok, f.cred, f.due⟩

/-- `TOKEN_LAND`. -/
def execTokenLand (i : Nat) (s : State) : Out :=
  .next (match s.flights[i]? with
    | none => s
    | some f => (s.awoken f.dest.col? f.due).landFlight i)

/-- `FLIT_HEADER_DROP`: a flit with a bad header is lost at a hop, and its credit goes back (R390). -/
def execFlitHeaderDrop (f : FlitRef) (s : State) : Out :=
  let count (s : State) : State := s.modHub fun h => h.count32 0x0E0AD8 1
  match f with
  | .token i => match s.flights[i]? with
    | none => .next s
    | some f => .next (((count { s with flights := dropNth i s.flights }).credit f.cred s.now).endTokSonde f.tok 0)
  | .control i => if i < s.ctl.length then .next (count { s with ctl := dropNth i s.ctl }) else .next s
  | .message i => match s.msgs[i]? with
    | none => .next s
    | some m =>
      let s := count { s with msgs := dropNth i s.msgs }
      let granted := m.msg.sub != 3#4 && m.msg.sub != 4#4 && m.msg.sub != 6#4
      let n : Node := match m.dst with | .col c => .col c | .hart h => .hart h
      .next (if granted then (s.modCpu n fun u => { u with grants := u.grants - 1 }).admitSelf n else s)

end Sys2Proof.Machine
end

