-- ==== Sys2Proof/Machine/Operands.lean ====
section
/-! DEFINITION. The operand forms of the sequencer's instructions: registers, the 32-bit variant, immediates, branch targets, effective addresses and register triples (R177, R208, R211). -/

namespace Sys2Proof.Machine

/-- Source register of the sequencer in focus. -/
def State.g (s : State) (r : BitVec 5) : DWord := s.reg s.focus r

/-- The instruction ends: g(d) is written and the pc moves on. -/
def State.ret (s : State) (d : BitVec 5) (v : DWord) : State := s.done s.focus d v

/-- The instruction ends without a result. -/
def State.skip (s : State) : State := s.step4 s.focus

/-- An operation of R208 at its width: 32 bits, sign-extended, with W = 1, else 64 bits. -/
def atWidth (w : BitVec 1) (f : (n : Nat) → BitVec n → BitVec n → BitVec n) (x y : DWord) : DWord :=
  if w = 1#1 then (f 32 (BitVec.setWidth 32 x) (BitVec.setWidth 32 y)).signExtend 64 else f 64 x y

/-- An R-format operation of R208. -/
def aluR (d a b : BitVec 5) (w : BitVec 1) (f : (n : Nat) → BitVec n → BitVec n → BitVec n) (s : State) : Out :=
  .next (s.ret d (atWidth w f (s.g a) (s.g b)))

/-- A unary operation of R208. -/
def aluU (d a : BitVec 5) (w : BitVec 1) (f : Nat → Nat → Nat) (s : State) : Out :=
  .next (s.ret d (atWidth w (fun n x _ => BitVec.ofNat n (f n x.toNat)) (s.g a) 0))

/-- An I-format operation: imm is sign-extended to 64 bits (R177, R212). -/
def aluI (d a : BitVec 5) (i : BitVec 16) (f : DWord → DWord → DWord) (s : State) : Out :=
  .next (s.ret d (f (s.g a) (i.signExtend 64)))

/-- A truth value as a number. -/
def flagBit (n : Nat) (b : Bool) : BitVec n := if b then BitVec.ofNat n 1 else 0

/-- The f32 value of a register (R211). -/
def State.gf (s : State) (r : BitVec 5) : Fv := FFmt.f32.val (bitsNat (s.g r) 31 0)

/-- An f32 result, rounded once to nearest-even, in the low half of a register (R91, R211). -/
def f32Word (v : Fv) : DWord := BitVec.ofNat 64 (FFmt.f32.roundA v)

/-- A binary f32 operation. -/
def fpuR (d a b : BitVec 5) (f : Fv → Fv → Fv) (s : State) : Out := .next (s.ret d (f32Word (f (s.gf a) (s.gf b))))

/-- An f32 comparison: false when either operand is NaN. -/
def fpuC (d a b : BitVec 5) (f : Fv → Fv → Bool) (s : State) : Out :=
  .next (s.ret d (flagBit 64 (!(s.gf a).isNan && !(s.gf b).isNan && f (s.gf a) (s.gf b))))

/-- The target of a branch or jump with an offset in words (R177). -/
def relTarget {w : Nat} (pc : DWord) (o : BitVec w) : DWord := pc + (o.signExtend 64) * 4

/-- A branch (R214). -/
def branchTo (a b : BitVec 5) (o : BitVec 16) (c : DWord → DWord → Bool) (s : State) : Out :=
  if c (s.g a) (s.g b) then .next (s.setPc s.focus (relTarget (s.pc s.focus) o)) else .next s.skip

/-- The effective address of an M-format instruction (R177, R216). -/
def memAddr (a : BitVec 5) (o : BitVec 13) (s : State) : DWord := s.g a + o.signExtend 64

/-- g(a), g(a+1) and g(a+2) (R238, R239). -/
def triple (a : BitVec 5) (s : State) : DWord × DWord × DWord := (s.g a, s.g (a + 1), s.g (a + 2))

/-- Checks a structured value's `res0` bits: bits `hi` down to `lo` of `x` are zero, else the fault "operand" (R232). -/
def res0 {w : Nat} (x : BitVec w) (hi lo : Nat) : Res Unit := if bitsNat x hi lo = 0 then .ok () else fault .operand

/-- A field within its stated range, else the fault "operand" (R232). -/
def inRange (b : Bool) : Res Unit := if b then .ok () else fault .operand

end Sys2Proof.Machine
end

