-- ==== Sys2Proof/Machine/Alu.lean ====
section
/-! DEFINITION. Integer, bitfield and immediate forms (R208 to R210, R212, R213). -/

namespace Sys2Proof.Machine

/-- Division by zero gives all ones, and the most negative number over −1 itself (R209). -/
def sdivR (n : Nat) (x y : BitVec n) : BitVec n := if y = 0 then BitVec.allOnes n else x.sdiv y
/-- Unsigned division (R209). -/
def udivR (n : Nat) (x y : BitVec n) : BitVec n := if y = 0 then BitVec.allOnes n else x / y
/-- Signed remainder with the dividend's sign; over zero the dividend (R209). -/
def sremR (n : Nat) (x y : BitVec n) : BitVec n := if y = 0 then x else x.srem y
/-- Unsigned remainder (R209). -/
def uremR (n : Nat) (x y : BitVec n) : BitVec n := if y = 0 then x else x % y
/-- The high half of the signed product. -/
def mulhS (n : Nat) (x y : BitVec n) : BitVec n := BitVec.ofInt n (x.toInt * y.toInt / 2 ^ n)
/-- The high half of the unsigned product. -/
def mulhU (n : Nat) (x y : BitVec n) : BitVec n := BitVec.ofNat n (x.toNat * y.toNat / 2 ^ n)

/-- `add`. -/
def execAdd (d a b : BitVec 5) (w : BitVec 1) (s : State) : Out := aluR d a b w (fun _ x y => x + y) s
/-- `sub`. -/
def execSub (d a b : BitVec 5) (w : BitVec 1) (s : State) : Out := aluR d a b w (fun _ x y => x - y) s
/-- `and`. -/
def execAnd (d a b : BitVec 5) (w : BitVec 1) (s : State) : Out := aluR d a b w (fun _ x y => x &&& y) s
/-- `or`. -/
def execOr (d a b : BitVec 5) (w : BitVec 1) (s : State) : Out := aluR d a b w (fun _ x y => x ||| y) s
/-- `xor`. -/
def execXor (d a b : BitVec 5) (w : BitVec 1) (s : State) : Out := aluR d a b w (fun _ x y => x ^^^ y) s
/-- `andn`. -/
def execAndn (d a b : BitVec 5) (w : BitVec 1) (s : State) : Out := aluR d a b w (fun _ x y => x &&& ~~~y) s
/-- `shl`: the amount is taken modulo the width. -/
def execShl (d a b : BitVec 5) (w : BitVec 1) (s : State) : Out := aluR d a b w (fun n x y => x <<< (y.toNat % n)) s
/-- `shr`. -/
def execShr (d a b : BitVec 5) (w : BitVec 1) (s : State) : Out := aluR d a b w (fun n x y => x >>> (y.toNat % n)) s
/-- `sra`. -/
def execSra (d a b : BitVec 5) (w : BitVec 1) (s : State) : Out := aluR d a b w (fun n x y => x.sshiftRight (y.toNat % n)) s
/-- `rol`. -/
def execRol (d a b : BitVec 5) (w : BitVec 1) (s : State) : Out := aluR d a b w (fun n x y => x.rotateLeft (y.toNat % n)) s
/-- `slt`. -/
def execSlt (d a b : BitVec 5) (w : BitVec 1) (s : State) : Out := aluR d a b w (fun n x y => flagBit n (x.slt y)) s
/-- `sltu`. -/
def execSltu (d a b : BitVec 5) (w : BitVec 1) (s : State) : Out := aluR d a b w (fun n x y => flagBit n (x.ult y)) s
/-- `min`. -/
def execMin (d a b : BitVec 5) (w : BitVec 1) (s : State) : Out := aluR d a b w (fun _ x y => if x.slt y then x else y) s
/-- `max`. -/
def execMax (d a b : BitVec 5) (w : BitVec 1) (s : State) : Out := aluR d a b w (fun _ x y => if x.slt y then y else x) s
/-- `minu`. -/
def execMinu (d a b : BitVec 5) (w : BitVec 1) (s : State) : Out := aluR d a b w (fun _ x y => if x.ult y then x else y) s
/-- `maxu`. -/
def execMaxu (d a b : BitVec 5) (w : BitVec 1) (s : State) : Out := aluR d a b w (fun _ x y => if x.ult y then y else x) s
/-- `mul`. -/
def execMul (d a b : BitVec 5) (w : BitVec 1) (s : State) : Out := aluR d a b w (fun _ x y => x * y) s
/-- `mulh`. -/
def execMulh (d a b : BitVec 5) (w : BitVec 1) (s : State) : Out := aluR d a b w mulhS s
/-- `mulhu`. -/
def execMulhu (d a b : BitVec 5) (w : BitVec 1) (s : State) : Out := aluR d a b w mulhU s
/-- `div`. -/
def execDiv (d a b : BitVec 5) (w : BitVec 1) (s : State) : Out := aluR d a b w sdivR s
/-- `divu`. -/
def execDivu (d a b : BitVec 5) (w : BitVec 1) (s : State) : Out := aluR d a b w udivR s
/-- `rem`. -/
def execRem (d a b : BitVec 5) (w : BitVec 1) (s : State) : Out := aluR d a b w sremR s
/-- `remu`. -/
def execRemu (d a b : BitVec 5) (w : BitVec 1) (s : State) : Out := aluR d a b w uremR s
/-- `clz`. -/
def execClz (d a : BitVec 5) (w : BitVec 1) (s : State) : Out := aluU d a w clzNat s
/-- `ctz`. -/
def execCtz (d a : BitVec 5) (w : BitVec 1) (s : State) : Out := aluU d a w ctzNat s
/-- `popc`. -/
def execPopc (d a : BitVec 5) (w : BitVec 1) (s : State) : Out := aluU d a w popNat s
/-- `sel`: all 64 bits of g(d) are tested. -/
def execSel (d a b : BitVec 5) (w : BitVec 1) (s : State) : Out :=
  aluR d a b w (fun _ x y => if s.g d ≠ 0 then x else y) s

/-- Width of a bitfield (R210). -/
def bfWidth (l : BitVec 6) : Nat := if l = 0#6 then 64 else l.toNat

/-- `extr`. -/
def execExtr (d a : BitVec 5) (p l : BitVec 6) (s : State) : Out :=
  .next (s.ret d (signExt (bfWidth l) (s.g a >>> p.toNat)))
/-- `extru`. -/
def execExtru (d a : BitVec 5) (p l : BitVec 6) (s : State) : Out :=
  .next (s.ret d (zeroExt (bfWidth l) (s.g a >>> p.toNat)))
/-- `ins`. -/
def execIns (d a : BitVec 5) (p l : BitVec 6) (s : State) : Out :=
  let mask : DWord := BitVec.ofNat 64 (2 ^ bfWidth l - 1)
  .next (s.ret d ((s.g d &&& ~~~(mask <<< p.toNat)) ||| ((s.g a &&& mask) <<< p.toNat)))

/-- `addi`. -/
def execAddi (d a : BitVec 5) (i : BitVec 16) (s : State) : Out := aluI d a i (· + ·) s
/-- `andi`. -/
def execAndi (d a : BitVec 5) (i : BitVec 16) (s : State) : Out := aluI d a i (· &&& ·) s
/-- `ori`. -/
def execOri (d a : BitVec 5) (i : BitVec 16) (s : State) : Out := aluI d a i (· ||| ·) s
/-- `xori`. -/
def execXori (d a : BitVec 5) (i : BitVec 16) (s : State) : Out := aluI d a i (· ^^^ ·) s
/-- `slti`. -/
def execSlti (d a : BitVec 5) (i : BitVec 16) (s : State) : Out := aluI d a i (fun x y => flagBit 64 (x.slt y)) s
/-- `sltui`. -/
def execSltui (d a : BitVec 5) (i : BitVec 16) (s : State) : Out := aluI d a i (fun x y => flagBit 64 (x.ult y)) s
/-- `shli`. -/
def execShli (d a : BitVec 5) (n : BitVec 6) (s : State) : Out := .next (s.ret d (s.g a <<< n.toNat))
/-- `shri`. -/
def execShri (d a : BitVec 5) (n : BitVec 6) (s : State) : Out := .next (s.ret d (s.g a >>> n.toNat))
/-- `srai`. -/
def execSrai (d a : BitVec 5) (n : BitVec 6) (s : State) : Out := .next (s.ret d ((s.g a).sshiftRight n.toNat))
/-- `lui`. -/
def execLui (d : BitVec 5) (i : BitVec 16) (s : State) : Out := .next (s.ret d (i.signExtend 64 <<< 16))
/-- `addpc`. -/
def execAddpc (d : BitVec 5) (i : BitVec 16) (s : State) : Out := .next (s.ret d (relTarget (s.pc s.focus) i))

end Sys2Proof.Machine
end

