-- ==== Sys2Proof/Machine/Access.lean ====
section
/-! DEFINITION. Where an address leads: a sequencer's (R206) and an engine's (R374, R378), and the metering of an engine's bursts (R352). -/

namespace Sys2Proof.Machine

/-! Sequencer addresses. -/

/-- Where a sequencer address leads (R206). -/
inductive Place where
  /-- the node's near store, at a physical byte; whether it lies in a single-assignment block -/
  | near (l : Loc) (sa : Bool)
  /-- the supervisor code window, at a byte -/
  | window (a : Nat)
  /-- a device register, at an address of the register region -/
  | reg (a : Nat)
  /-- device memory, with the page's discipline and taint -/
  | dev (l : Loc) (disc : Disc) (taint : Bool)
  deriving DecidableEq, Repr

/-- The fault of a page that is not simply present (R206, R373). -/
def Trans.cause : Trans → Option Cause
  | .ok _ _ _ => none
  | .page _ => some .pageFault
  | .bad => some .translation
  | .outside => some .access

/-- Device memory at a sequencer address: through the column's address space, or at the physical address for an engine hart (R149, R206, R374). -/
def State.placeDev (s : State) (n : Node) (a : DWord) (write : Bool) : Except Trap Place × State :=
  let va := bitsNat a 47 0
  if bitsNat a 59 48 ≠ 0 then (.error (.at_ .address a), s)
  else match n with
    | .hart _ =>
      if (s.hub.channel? va).isSome then (.ok (.dev ⟨.dev, 0, va⟩ .pl false), s) else (.error (.at_ .access a), s)
    | .col c =>
      match s.translateCol c va write with
      | (.ok pa d t, s) => (.ok (.dev ⟨.dev, 0, pa⟩ d t), s)
      | (t, s) => (.error (.at_ (t.cause.getD .pageFault) a), s)

/-- Where the address of an aligned access of a node leads, or its fault (R206). -/
def State.place (s : State) (n : Node) (a : DWord) (write : Bool) : Except Trap Place × State :=
  match bitsNat a 63 60 with
  | 0 => match s.nearCause n a.toNat with
    | some c => (.error (.at_ c a), s)
    | none =>
      let col : ColId := match n with | .col c => c | .hart _ => 0
      (.ok (.near ⟨.near, col, s.nearPhys n a.toNat⟩ (s.nearSa n a.toNat)), s)
  | 2 =>
    if !(s.cpu n).sup || write then (.error (.at_ .access a), s)
    else if bitsNat a 59 14 ≠ 0 then (.error (.at_ .address a), s)
    else (.ok (.window (bitsNat a 13 0)), s)
  | 4 => if bitsNat a 59 48 ≠ 0 then (.error (.at_ .address a), s) else (.ok (.reg (bitsNat a 47 0)), s)
  | 8 => s.placeDev n a write
  | _ => (.error (.at_ .address a), s)

/-- The same with the alignment check first (R108, R206). -/
def State.placeAt (s : State) (n : Node) (a : DWord) (bytes : Nat) (write : Bool) : Except Trap Place × State :=
  if a.toNat % bytes ≠ 0 then (.error (.at_ .misaligned a), s) else s.place n a write

/-- What an instruction answers when it may have changed the state before its fault. -/
def faultOut (s : State) (t : Trap) : Out := .next (s.seqFault s.focus t)

/-! Engine addresses. -/

/-- Why an engine's access does not perform now. -/
inductive EStop where
  /-- a fault of the access: the engine's work ends with status 2 -/
  | fault
  /-- it waits: a replay-table entry, a budget, a bank that is closed, a full deferral table -/
  | wait
  /-- its page is absent, or its entry bad (R378) -/
  | page (va : Nat) (bad : Bool)
  /-- an empty SA word defers it (R117) -/
  | defer (l : Loc)
  deriving DecidableEq, Repr

/-- Entries of a requester leave a stack's replay table. -/
def State.unreplay (s : State) (k : StackId) (who : Waiter) : State :=
  s.modStack k fun x => { x with replay := x.replay.filter fun q => q.who != who }

/-- Translation for an engine of a stack (R374, R378): a page in transit, compressed or on flash holds the access in the replay table. -/
def State.engineVa (s : State) (k : StackId) (who : Waiter) (ptb : DWord) (p : PartId) (va : Nat) (write : Bool) :
    Except EStop (Nat × Disc × Bool) × State :=
  if 2 ^ 48 ≤ va then (.error .fault, s)
  else match s.translate none k ptb p va write with
    | (.ok pa d t, s) =>
      let s := s.unreplay k who
      if write && d == .ro then (.error .fault, s) else (.ok (pa, d, t), s)
    | (.outside, s) => (.error .fault, s)
    | (.bad, s) => (.error (.page va true), s)
    | (.page .absent, s) => (.error (.page va false), s)
    | (.page st, s) =>
      if (s.stack k).replay.any fun q => q.who == who then (.error .wait, s)
      else match (s.demand st ptb p va).holdReplay k who ptb va with
        | some s => (.error .wait, s)
        | none => (.error .wait, s)

/-- The system event of an engine that stops at a page (R378); `party` is 1 for a transfer, 2 for the spill engine, 3 for an engine. -/
def State.enginePage (s : State) (h : HartId) (p : PartId) (ptb : DWord) (va : Nat) (bad : Bool) (party : Nat) : State :=
  s.sysEvent p (if bad then 8 else 1) (sourceNo (.hart h)) (leBytes 8 va ++ leBytes 8 (bitsNat ptb 63 48 + party * 2 ^ 24))

/-- The metered resource of a device address: GDDR7 channel c as 8 + c, LPDDR6 as 24. -/
def Hub.meterOf (h : Hub) (pa : Nat) : Nat := match h.channel? pa with | some 16 => 24 | some c => 8 + c | none => 24

/-- The burst or vertical slot that a location lies in, as one number. -/
def Loc.burst (l : Loc) : Nat :=
  match l.space with
  | .near => 0
  | .vert => (l.col.val * 2 ^ 28 + l.addr / 128) * 2 + 1
  | .dev => l.addr / 64 * 2

/-- Admits and charges the burst or slot of a location to a class, unless it is the one used last; none where it is not admitted (R352, R354). A vertical granule takes a slot of its port that fell free (R71, R112); R71 does not rank transfer engines, which come after its other users (assumption log 81). -/
def State.admitBurst (s : State) (u : SlotUser) (p : PartId) (cls : Nat) (l : Loc) (last : Option Nat) : Option (Option Nat × State) :=
  match l.space with
  | .near => some (last, s)
  | .vert =>
    if last = some l.burst then some (last, s)
    else if (s.col l.col).admitsV cls (vLayer l.addr) && s.slotFell l.col (vLayer l.addr) u then
      some (some l.burst, (s.takeSlot l.col (vLayer l.addr) (s.now - 1)).modCol l.col fun x => x.chargeV cls (vLayer l.addr) 1)
    else none
  | .dev =>
    if last = some l.burst || (sinkStack? l.addr).isSome then some (last, s)
    else
      let r := s.hub.meterOf l.addr
      if s.hub.admits r p cls then some (some l.burst, s.modHub fun h => h.charge r p cls 1) else none

/-- The weight of an engine of a partition (R348): 0 TE, 1 LSE, 2 GW, 3 flash paging, 4 migration, 5 spill. -/
def Hub.engWeight (h : Hub) (p : PartId) (engine : Nat) : Nat :=
  bitsNat (h.reg (0x0F0060 + 0x1000 * p.val)) (4 * engine + 3) (4 * engine)

end Sys2Proof.Machine
end

