-- ==== Sys2Proof/Machine/Flags.lean ====
section
/-! DEFINITION. The status words of a sequencer as the control registers show them: `stat`, `mode`, `ecause`, `band`, `dbgctl`, and the old masks of the handler table. The part has no arithmetic flags (R203, R227, R230, R405). -/

namespace Sys2Proof.Machine

/-- One bit at a place. -/
def bitAt' (b : Bool) (i : Nat) : Nat := if b then 2 ^ i else 0

/-- `mode` (R230). -/
def Cpu.modeWord (u : Cpu) : DWord := BitVec.ofNat 64 (bitAt' u.halt 2 + bitAt' u.psup 1 + bitAt' u.sup 0)

/-- A write to `mode`: HALT is read only to the sequencer (R230). -/
def Cpu.putMode (u : Cpu) (v : DWord) : Cpu := { u with psup := v.getLsbD 1, sup := v.getLsbD 0 }

/-- The band's place of a node, if a task holds it. -/
def State.bandOf (s : State) : Node → Option BandPos
  | .hart _ => none
  | .col c => (s.col c).band

/-- All 16 watches of a node are held (R222). -/
def State.watchesFull (s : State) : Node → Bool
  | .hart _ => false
  | .col c => decide (16 ≤ (s.col c).watches.length + (s.col c).fired.length)

/-- `stat` (R227). -/
def State.statWord (s : State) (n : Node) : DWord :=
  let dbg := match s.bandOf n with | some b => b.dbg | none => false
  let drift := match s.bandOf n with | some b => b.drift | none => false
  BitVec.ofNat 64 (bitAt' dbg 3 + bitAt' drift 2 + bitAt' (s.watchesFull n) 1 + bitAt' (s.cpu n).taint 0)

/-- `band` (R227): slot, B, lap and DRIFT. -/
def State.bandWord (s : State) (n : Node) : DWord :=
  match n, s.bandOf n with
  | .col c, some b => BitVec.ofNat 64 (b.slot % 65536 + b.size % 65536 * 2 ^ 16 +
      (s.col c).drift.lap.toNat * 2 ^ 32 + bitAt' b.drift 48)
  | _, _ => 0

/-- `dbgctl` (R405). -/
def Debug.ctlWord (d : Debug) : DWord := BitVec.ofNat 64 (bitAt' d.dhalt 17 + bitAt' d.brken 16 + d.brkcnt.toNat)

/-- A write to `dbgctl`: DHALT is read only. -/
def Debug.putCtl (d : Debug) (v : DWord) : Debug := { d with brken := v.getLsbD 16, brkcnt := field v 0 16 }

/-- The masks M of the handler table as a bitmap (R239). -/
def Cpu.maskBits (u : Cpu) : DWord := BitVec.ofNat 64 (sumList ((upTo 20).map fun c => bitAt' (u.masked c) c))

/-- M of every class of a set is made `b` (R239). -/
def Cpu.setMasks (u : Cpu) (set : DWord) (b : Bool) : Cpu :=
  { u with hte := vmapIdx (fun c h => if set.getLsbD c then putBit h 30 b else h) u.hte, dirty := true }

end Sys2Proof.Machine
end

