-- ==== Sys2Proof/Machine/Structs.lean ====
section
/-! DEFINITION. Structures that an instruction reads from the near store (R232), and the fault cases of their addresses. -/

namespace Sys2Proof.Machine

/-- The first fault that a structure of `n` bytes at a local address meets: misaligned, or outside the near store or the drift window (R232). -/
def State.structCause (s : State) (nd : Node) (a : DWord) (n align : Nat) : Res Unit :=
  if a.toNat % align ≠ 0 then faultAt .misaligned a
  else match s.nearCause nd a.toNat with
    | some c => faultAt c a
    | none =>
      let e := a.toNat + n - 1
      match s.nearCause nd e with
      | some c => faultAt c (BitVec.ofNat 64 e)
      | none => .ok ()

/-- Reads one 8-byte word of a node's near store at a local address: the node's own queued stores to it perform first (R218). -/
def State.nearWord (s : State) (nd : Node) (a : Nat) : (DWord × Bool) × State :=
  let p := s.nearPhys nd (a / 8 * 8)
  let s := s.drainQueue nd fun o => o.loc.space == .near && o.loc.addr / 8 == p / 8
  match nd with
  | .hart h => ((s.hart h).cpu.near.readWord (p / 8), s)
  | .col c =>
    if (s.col c).bankForeign (p / 0x1800) then ((0, true), s)
    else
      let (r, x) := (s.col c).readNear (p / 8)
      ((r.1, r.2 || ((s.col c).nearSa a && s.presence ⟨.near, c, p⟩ == some .tainted)), s.modCol c fun _ => x)

/-- Reads `n` consecutive words from a local address, and whether any byte was tainted. -/
def State.nearWords (s : State) (nd : Node) (a : Nat) : Nat → List DWord × Bool × State
  | 0 => ([], false, s)
  | n + 1 =>
    let (r, s) := s.nearWord nd a
    let (ws, t, s) := s.nearWords nd (a + 8) n
    (r.1 :: ws, r.2 || t, s)

/-- A word of the structure lies in a bank that is closed for a change of owner: the reader waits (R351). -/
def State.structShut (s : State) (nd : Node) (a n : Nat) : Bool :=
  match nd with
  | .hart _ => false
  | .col c => (upTo n).any fun i => s.access ⟨.near, c, s.nearPhys nd (a + 8 * i)⟩ == .shut

/-- Reads a checked structure of `n` words (R232). -/
def State.readStruct (s : State) (nd : Node) (a : DWord) (n align : Nat) : Res (List DWord × Bool × State) :=
  match s.structCause nd a (8 * n) align with
  | .error e => .error e
  | .ok _ => if s.structShut nd a.toNat n then .error .wait else .ok (s.nearWords nd a.toNat n)

/-- The 256-bit payload of four words. -/
def vecOf (ws : List DWord) : Vec :=
  BitVec.ofNat 256 ((nth 0 ws 0).toNat + (nth 0 ws 1).toNat * 2 ^ 64 + (nth 0 ws 2).toNat * 2 ^ 128 + (nth 0 ws 3).toNat * 2 ^ 192)

/-- The four words of a payload. -/
def vecWords (v : Vec) : List DWord := [field v 0 64, field v 64 64, field v 128 64, field v 192 64]

/-- The bytes of words, low byte first. -/
def wordsBytes (ws : List DWord) : List Byte := ws.flatMap fun w => leBytes 8 w.toNat

/-- A word of a list, zero past its end. -/
def wordAt (ws : List DWord) (i : Nat) : DWord := nth 0 ws i

end Sys2Proof.Machine
end

