-- ==== Sys2Proof/Machine/Tasks.lean ====
section
/-! DEFINITION. Tasks: the fields of the launch record (R9), and the messages held for a task that is not running (R35, R386, R387). -/

namespace Sys2Proof.Machine

/-- `n` bytes of the launch record at an offset, as a number. -/
def Task.fieldAt (t : Task) (off n : Nat) : Nat := leNat ((t.record.drop off).take n)
/-- A 64-bit word of the launch record. -/
def Task.word (t : Task) (off : Nat) : DWord := BitVec.ofNat 64 (t.fieldAt off 8)
/-- WAKE, NOPRE, DBG and IRQ. -/
def Task.wake (t : Task) : Bool := (t.word 0x30).getLsbD 9
def Task.nopre (t : Task) : Bool := (t.word 0x30).getLsbD 8
def Task.dbg (t : Task) : Bool := (t.word 0x30).getLsbD 10
def Task.irq (t : Task) : Bool := (t.word 0x30).getLsbD 11
/-- DRIFT, DCTX, SMASK and B. -/
def Task.drift (t : Task) : Bool := (t.word 0x38).getLsbD 20
def Task.dctx (t : Task) : Nat := bitsNat (t.word 0x38) 22 21
def Task.smask (t : Task) : Nat := bitsNat (t.word 0x38) 19 16
def Task.b (t : Task) : Nat := bitsNat (t.word 0x38) 15 0
/-- N, the stage count. -/
def Task.n (t : Task) : Nat := bitsNat (t.word 0xD0) 15 0
/-- ESLOT, ECLASS and EPAY. -/
def Task.eslot (t : Task) : Nat := t.fieldAt 0x70 2
def Task.eclass (t : Task) : Nat := t.fieldAt 0x72 1 % 32
def Task.epay (t : Task) : List Byte := (t.record.drop 0x78).take 24
/-- MBOX, VEC, SAVE, SAVESZ, SPILL and SPILLSZ. -/
def Task.mbox (t : Task) : Nat := t.fieldAt 0x90 6
def Task.vec (t : Task) : Word := BitVec.ofNat 32 (t.fieldAt 0x98 4)
def Task.save (t : Task) : Nat := t.fieldAt 0xB0 8
def Task.saveSz (t : Task) : Nat := t.fieldAt 0xB8 8
def Task.spillAt (t : Task) : Nat := t.fieldAt 0xC0 8
def Task.spillSz (t : Task) : Nat := t.fieldAt 0xC8 8

/-- Records that the spill ring holds (R386). -/
def Task.spillCap (t : Task) : Nat := (t.spillSz - 64) / 320

/-- Messages for the task go to its spill area: it is not running, or earlier ones are still held there (R35). -/
def Task.spills (t : Task) : Bool :=
  match t.st with
  | .running => !t.spill.isEmpty
  | .ended => false
  | _ => true

/-- The spill area takes one more message. -/
def Task.spillRoom (t : Task) : Bool := decide (t.spill.length < t.spillCap) && t.spillStop.isNone

/-- Holds a message for a slot of a task that is not running; a full ring refuses it and reports event 3 once per filling (R387). A message to a task with WAKE asks the dispatcher to restore it (R35). -/
def State.spillMsg (s : State) (t : Task) (slot : Nat) (m : Msg) : Option State :=
  if t.spillRoom then
    let full := decide (t.spillCap ≤ t.spill.length + 1)
    let wakes := t.wake && t.st == .suspended
    let s := s.modTask t.id fun t =>
      { t with spill := t.spill ++ [⟨slot, m, false⟩], spillFull := full, st := if wakes then .preempted else t.st }
    let s := if wakes then s.modHub fun h => { h with queues := vmod h.queues (fin 15 t.level) fun q => q ++ [t.id] } else s
    some (if full && !t.spillFull then s.sysEvent t.part 3 0x12B (leBytes 8 t.addr) else s)
  else none

end Sys2Proof.Machine
end

