-- ==== Sys2Proof/Machine/Messages.lean ====
section
/-! DEFINITION. Messages: sending (R235 to R238), departure and landing (R19, R40, R144), the landing transforms (R131, R132), compression (R133), and the handler forms (R239, R240). -/

namespace Sys2Proof.Machine

/-! The coder of R133. A coded stream is a list of bits, low bit first. -/

/-- The `n` low bits of a number, low bit first. -/
def bitsOf : Nat → Nat → List Bool
  | 0, _ => []
  | n + 1, x => (x % 2 == 1) :: bitsOf n (x / 2)

/-- The number that bits spell, low bit first. -/
def natOfBits : List Bool → Nat
  | [] => 0
  | b :: bs => (if b then 1 else 0) + 2 * natOfBits bs

/-- The dictionary with a literal entered at the pointer. -/
def Dict.enter (d : Dict) (w : DWord) : Dict := { d with words := vset d.words d.ptr w, ptr := d.ptr + 1 }

/-- One word coded by the first row of R133 that applies. -/
def Dict.code (d : Dict) (prev w : DWord) : List Bool × Dict :=
  if w = 0 then ([false, false], d)
  else if w = prev then ([true, true], d)
  else match indexOf? (· == w) d.words.toList with
    | some i => ([true, false] ++ bitsOf 5 i, d)
    | none => ([false, true] ++ bitsOf 64 w.toNat, d.enter w)

/-- Words coded in order. -/
def Dict.codeAll (d : Dict) (prev : DWord) : List DWord → List Bool × Dict
  | [] => ([], d)
  | w :: ws =>
    let (b, d) := d.code prev w
    let (bs, d) := d.codeAll w ws
    (b ++ bs, d)

/-- The coded stream of a payload, and the table after it. -/
def Dict.encode (d : Dict) (ws : List DWord) : List Bool × Dict :=
  let (bs, d') := d.codeAll 0 ws
  (bitsOf 5 (ws.length - 1) ++ bs, d')

/-- Entries of a coded stream decoded in order. -/
def Dict.decodeAll (d : Dict) (prev : DWord) : Nat → List Bool → List DWord × Dict
  | 0, _ => ([], d)
  | n + 1, bs =>
    let two := natOfBits (bs.take 2)
    let r := bs.drop 2
    let (w, d, r) : DWord × Dict × List Bool :=
      match two with
      | 0 => (0, d, r)
      | 1 => (d.words.get (fin 31 (natOfBits (r.take 5))), d, r.drop 5)
      | 2 => let v : DWord := BitVec.ofNat 64 (natOfBits (r.take 64)); (v, d.enter v, r.drop 64)
      | _ => (prev, d, r)
    let (ws, d) := d.decodeAll w n r
    (w :: ws, d)

/-- A coded stream decoded: the payload, and the table after it. -/
def Dict.decode (d : Dict) (bs : List Bool) : List DWord × Dict :=
  d.decodeAll 0 (natOfBits (bs.take 5) + 1) (bs.drop 5)

/-- Bits of a payload's words. -/
def wordBits (ws : List DWord) : List Bool := ws.flatMap fun w => bitsOf 64 w.toNat

/-- Words of a payload of `n` tokens that hold a coded stream, the rest zero. -/
def bitWords (n : Nat) (bs : List Bool) : List DWord := (upTo (4 * n)).map fun i => BitVec.ofNat 64 (natOfBits ((bs.drop (64 * i)).take 64))

/-! Keys of a pair. -/

/-- 9-bit key of a sender (R19). -/
def Sender.key (x : Sender) : Nat := x.id.toNat + (if x.snc then 256 else 0)
/-- The node that a target is. -/
def Target.node : Target → Node
  | .col c => .col c
  | .hart h => .hart h
/-- Key of a receiver. -/
def Target.key (t : Target) : Nat := t.node.sender.key

/-- The dictionary that a sender holds at a receiver: its slot and its copy (R133). -/
def Cpu.dictTo (u : Cpu) (t : Target) : Option (Nat × Dict) :=
  match t with
  | .hart _ => none
  | .col c => (u.dictTx.find? fun d => d.1 / 16 == c.val).map fun d => (d.1 % 16, d.2)

/-! Departure. -/

/-- A message as it leaves for one receiver: its sequence number, and its coded form where that is shorter (R40, R133). -/
def Cpu.pack (u : Cpu) (m : Msg) (comp : Bool) (t : Target) : Msg × Cpu :=
  let m := { m with seq := lookupD 0 t.key u.seqTx }
  let u := { u with seqTx := insertKey t.key (m.seq + 1) u.seqTx }
  match (if comp then u.dictTo t else none), t with
  | some (slot, d), .col c =>
    let key := c.val * 16 + slot
    if d.plain then (m, { u with dictTx := insertKey key { d with plain := false } u.dictTx })
    else
      let (bs, d') := d.encode m.words
      let toks := Nat.max 1 (ceilDiv bs.length 256)
      if m.len.toNat + 1 ≤ toks then (m, u)
      else
        ({ m with words := bitWords toks bs, len := BitVec.ofNat 3 (toks - 1), comp := true, dslot := BitVec.ofNat 4 slot },
         { u with dictTx := insertKey key d' u.dictTx })
  | _, _ => (m, u)

/-- A message of this transform needs an entry at its receiver (R131). -/
def Msg.needsEntry (m : Msg) : Bool := m.sub != 3#4 && m.sub != 4#4 && m.sub != 6#4

/-- The accesses that a queued message follows have performed for `band` scope: its node's stores, and those that its loads returned (R137, R138, R237). -/
def State.sendReady (s : State) (n : Node) (after : Nat) : Bool :=
  let oneStack := match n with
    | .hart _ => false
    | .col c => match s.taskOf c with
      | some t => t.cols.all fun k => stackOf k == stackOf c
      | none => true
  !((s.cpu n).storeQ.any fun q => decide (q.serial ≤ after)) &&
  (oneStack || !((s.stack n.stack).ord.any fun o => o.node == n && o.ag.isNone && decide (o.serial ≤ after)) && !s.seenWaits n (s.cpu n).seen)

/-- The latency of a message between two nodes; between a column and a unit the spec gives none, and a message then lands from the next cycle on. -/
def State.msgLatency (s : State) (a : Node) (b : Target) : Nat :=
  match a, b with
  | .col x, .col y => s.latency x y
  | _, _ => 1

/-- What happens to a message at its receiver now: it goes, it is held for a task that is not running, it is lost because no task holds the column, or it waits (R19, R35). -/
inductive Fate where
  | go
  | spill (t : Task) (slot : Nat)
  | lost
  | wait

/-- The fate of a message to a target. -/
def State.fate (s : State) (t : Target) (m : Msg) : Fate :=
  let room := !m.needsEntry || decide ((s.cpu t.node).pendCount < 64)
  match t with
  | .hart _ => if room then .go else .wait
  | .col c =>
    match s.taskOf c with
    | none => .lost
    | some k =>
      if k.spills then (if k.spillRoom then .spill k ((indexOf? (· == c) k.cols).getD 0) else .wait)
      else if room then .go else .wait

/-- A message goes on its way with its entry reserved. The tokens of a message follow one another, and it arrives with its last, in a cycle after that of the one before it from its sender (R19). -/
def State.launch (s : State) (t : Target) (m : Msg) (lat : Nat) : State :=
  let s := if m.needsEntry then s.modCpu t.node fun u => { u with grants := u.grants + 1 } else s
  let ahead := (s.msgs.filter fun f => f.dst == t && f.msg.src == m.src).map (·.due + 1)
  { s with msgs := s.msgs ++ [⟨t, m, Nat.max (s.now + lat + m.len.toNat) (maxList ahead)⟩] }

/-- A list without the first occurrence of a target. -/
def dropTarget (t : Target) : List Target → List Target
  | [] => []
  | x :: r => if x = t then r else x :: dropTarget t r

/-- The copy of entry `i` that leaves next: to the first of its receivers that no earlier entry goes to and that need not wait (R237). -/
def State.nextCopy (s : State) (u : Cpu) (i : Nat) (o : OutMsg) : Option Target :=
  o.dests.find? fun t => !((u.outq.take i).any fun e => e.dests.contains t) && (match s.fate t o.msg with | .wait => false | _ => true)

/-- The next copy of entry `i` of a node's outbound queue leaves (R19, R35, R237). -/
def departQueued (n : Node) (i : Nat) (s : State) : Out :=
  let u := s.cpu n
  match u.outq[i]? with
  | none => .next s
  | some o =>
    if o.dests.isEmpty then .next (s.modCpu n fun u => { u with outq := dropNth i u.outq })
    else match s.nextCopy u i o with
    | none => .next s
    | some t =>
      let shorten (u : Cpu) : Cpu :=
        { u with outq := if o.dests.length ≤ 1 then dropNth i u.outq else modNth (fun o => { o with dests := dropTarget t o.dests }) i u.outq }
      if !s.sendReady n o.after || s.hub.pwr != .run then .next s
      else
        let leave (s : State) (m : Msg) : State :=
          match n with
          | .col c => s.modCol c fun x => x.chargeL 1 (m.len.toNat + 1)
          | .hart _ => s
        match s.fate t o.msg with
        | .wait => .next s
        | .lost => .next ((s.modCpu n shorten).dropMsg t.node)
        | .spill k slot =>
          let (m, u') := u.pack o.msg false t
          match s.spillMsg k slot m with
          | some s' => .next (leave (s'.modCpu n fun _ => shorten u') m)
          | none => .next s
        | .go =>
          let (m, u') := u.pack o.msg o.comp t
          .next (leave ((s.modCpu n fun _ => shorten u').launch t m (s.msgLatency n t)) m)

/-! Landing. -/

/-- The message as the receiver decodes it, with its tables and sequence numbers; none where it is dropped (R133). A gap in the sequence counts the missing messages as dropped, resets the slot and asks the sender to reset its copy (R390). -/
def State.decodeMsg (s : State) (n : Node) (m : Msg) : Option Msg × State :=
  let u := s.cpu n
  let k := m.src.key
  let gap := lookupD 0 k u.seqRx != m.seq
  let missing := (m.seq - lookupD 0 k u.seqRx).toNat
  let mine (d : Dict) : Bool := d.peer == some k
  let dicts := if gap then vmap (fun d => if mine d then { Dict.empty with peer := d.peer, plain := true } else d) u.dictRx else u.dictRx
  let u := { u with seqRx := insertKey k (m.seq + 1) u.seqRx, dictRx := dicts, dropmsg := satInc u.dropmsg missing }
  let ask := match n with
    | .col c => if gap then (((upTo 16).filter fun i => mine (dicts.get (fin 15 i))).map fun i => (c.val, i, k)) else []
    | .hart _ => []
  let s := { s with resets := s.resets ++ ask }
  if m.comp then
    let i := fin 15 m.dslot.toNat
    let d := u.dictRx.get i
    if d.plain then (none, s.modCpu n fun _ => u)
    else
      let (ws, d') := d.decode (wordBits m.words)
      (some { m with words := ws, len := BitVec.ofNat 3 (ceilDiv ws.length 4 - 1), comp := false },
       s.modCpu n fun _ => { u with dictRx := vset u.dictRx i d' })
  else
    (some m, s.modCpu n fun _ => { u with dictRx := vmap (fun d => if mine d then { d with plain := false } else d) u.dictRx })

/-- Source elements of a SUB 1 landing: codes of `n` bytes at their width (R132). -/
def sub1Codes (fmt : Nat) (bs : List Byte) : List Nat :=
  let x := leNat bs
  let n := if fmt = 11 then bs.length / 3 * 4 else bs.length * 8 / memW fmt
  (upTo n).map fun i => x / 2 ^ (memW fmt * i) % 2 ^ memW fmt

/-- The results of a SUB 1 landing as bytes of the area from byte 8 on, and whether some were discarded (R132). -/
def sub1Area (vct : Half) (sat : Bool) (src : Nat) (bs : List Byte) : List Byte × Bool :=
  let dst := let f := vctFmt vct; if f = 12 then 0 else f
  let w := laneW dst / 8
  let rs := (sub1Codes src bs).map fun c => (cvtTo dst .rne sat (valOf src (laneCode src c))).1
  let k := 248 / w
  ((rs.take k).flatMap (leBytes w), decide (k < rs.length))

/-- A SUB 2 landing: each element multiplied by 2^(E − 127) (R131). -/
def sub2Area (fmt : Nat) (e : BitVec 8) (bs : List Byte) : List Byte :=
  let w := laneW fmt / 8
  ((chunks w (bs.length / w) bs).map fun c => (cvtTo fmt .rne false ((valOf fmt (leNat c)).scale e)).1).flatMap (leBytes w)

/-- A SUB 5 landing: 8 × 8 words transposed (R131). -/
def transpose8 (bs : List Byte) : List Byte :=
  (upTo 64).flatMap fun k => ((bs.drop (4 * (8 * (k % 8) + k / 8))).take 4)

/-- A message is dropped with the fault "message target" (R131). -/
def State.badTarget (s : State) (c : ColId) (m : Msg) : State :=
  (s.dropMsg (.col c)).unitFault c .messageTarget 0 0 (BitVec.setWidth 64 m.src.id)

/-- Writes whole words at a local address of a column, as a landing does: into single-assignment words as an SA write, whose overwrite is dropped and counted (R118, R131). -/
def State.landWord (s : State) (c : ColId) (a : Nat) (v : DWord) (taint : Bool) : State :=
  let x := s.col c
  let l : Loc := ⟨.near, c, x.nearPhys a⟩
  if s.access l != .open_ then s.countDropped
  else if x.nearSa a then
    let (full, s) := s.fillSa l 0xFF#8 v taint
    if full then s.dropMsg (.col c) else s
  else s.writeLoc l 0xFF#8 v

/-- A SUB 3 landing (R131). A message with a `res0` bit set in an entry is refused as one with a bad target (R6, assumption log 97). -/
def State.landScatter (s : State) (c : ColId) (m : Msg) : State :=
  let x := s.col c
  let base := bitsNat (wordAt m.words 0) 16 3 * 8
  let index (i : Nat) : DWord := wordAt m.words (1 + 2 * i)
  let n := 2 * (m.len.toNat + 1) - 1
  let entries := (upTo n).map fun i => (base + 8 * bitsNat (index i) 15 0, wordAt m.words (2 + 2 * i))
  if entries.any (fun e => (x.nearCause e.1).isSome || !x.nearSa e.1) || (upTo n).any (fun i => bitsNat (index i) 63 16 != 0) then s.badTarget c m
  else entries.foldl (fun s e => s.landWord c e.1 e.2 m.taint) s

/-- The word `r` with `v` added to its four bytes from byte `o` on (SUB 4, R131). -/
def add4 (float : Bool) (r : DWord) (v : Word) (o : Nat) : DWord :=
  let old : Word := field r (8 * o) 32
  let new := if float then FFmt.f32.roundA (Fv.add (FFmt.f32.val old.toNat) (FFmt.f32.val v.toNat)) else (old + v).toNat
  BitVec.ofNat 64 (new * 2 ^ (8 * o))

/-- One SUB 4 addition, atomic at the bank (R131). -/
def State.landAdd (s : State) (c : ColId) (float : Bool) (a : Nat) (v : Word) : State :=
  let x := s.col c
  let l : Loc := ⟨.near, c, x.nearPhys a⟩
  if s.access l != .open_ then s.countDropped
  else
    let ((r, _), s) := s.readLoc none false l
    s.writeLoc l (byteMask (l.addr % 8) 4) (add4 float r v (l.addr % 8))

/-- A SUB 4 landing. -/
def State.landAdds (s : State) (c : ColId) (m : Msg) : State :=
  let x := s.col c
  let p := wordAt m.words 0
  let base := bitsNat p 16 2 * 4
  let ws := ((m.words.drop 1).flatMap fun w => [(field w 0 32 : Word), field w 32 32])
  if (upTo ws.length).any fun i => (x.nearCause (base + 4 * i)).isSome then s.badTarget c m
  else (mapFrom (fun i w => (i, w)) 0 ws).foldl (fun s e => s.landAdd c (p.getLsbD 17) (base + 4 * e.1) e.2) s

/-- A SUB 6 landing. -/
def State.landCopy (s : State) (c : ColId) (m : Msg) : State :=
  let x := s.col c
  let base := bitsNat (wordAt m.words 0) 16 3 * 8
  let ws := m.words.drop 1
  if (upTo ws.length).any fun i => (x.nearCause (base + 8 * i)).isSome then s.badTarget c m
  else (mapFrom (fun i w => (i, w)) 0 ws).foldl (fun s e => s.landWord c (base + 8 * e.1) e.2 m.taint) s

/-- A message with SUB 1, 3, 4 or 6 lands at an engine hart, which has no elements and no single-assignment block: SUB 1 and SUB 3 are dropped and counted, SUB 4 and SUB 6 act on its local memory, and those outside it are dropped too (assumption log 97). -/
def State.landHart (s : State) (h : HartId) (m : Msg) : State :=
  let n := Node.hart h
  let p := wordAt m.words 0
  let put (s : State) (a : Nat) (mask : BitVec 8) (f : DWord → DWord) : State :=
    s.modCpu n fun u => { u with near := u.near.writeWord (a / 8) mask (f (u.near.readWord (a / 8)).1) }
  match m.sub.toNat with
  | 4 =>
    let base := bitsNat p 16 2 * 4
    let ws := (m.words.drop 1).flatMap fun w => [(field w 0 32 : Word), field w 32 32]
    if 0x18000 < base + 4 * ws.length then s.dropMsg n
    else (mapFrom (fun i w => (base + 4 * i, w)) 0 ws).foldl (fun s e => put s e.1 (byteMask (e.1 % 8) 4) fun r => add4 (p.getLsbD 17) r e.2 (e.1 % 8)) s
  | 6 =>
    let base := bitsNat p 16 3 * 8
    let ws := m.words.drop 1
    if 0x18000 < base + 8 * ws.length then s.dropMsg n
    else (mapFrom (fun i w => (base + 8 * i, w)) 0 ws).foldl (fun s e => put s e.1 0xFF#8 fun _ => e.2) s
  | _ => s.dropMsg n

/-- The message area that a message leaves, with whether SUB 1 discarded elements; none where the message is dropped (R131, R132). -/
def State.areaOf (s : State) (n : Node) (m : Msg) : Option (List Byte × Bool) :=
  let bs := wordsBytes m.words
  let p := wordAt m.words 0
  let rest := bs.drop 8
  let pad (l : List Byte) : List Byte := bs.take 8 ++ l ++ List.replicate (248 - l.length) 0
  match m.sub.toNat, n with
  | 1, .col c =>
    let fmt := bitsNat p 3 0
    if 12 < fmt then none
    else
      let (l, cut) := sub1Area ((s.elem c (fin 31 (bitsNat p 13 9))).vct.get (fin 31 (bitsNat p 8 4))) (p.getLsbD 14) fmt rest
      some (pad l, cut)
  | 2, _ =>
    let fmt := bitsNat p 11 8
    if isFloatFmt fmt then some (bs.take 8 ++ sub2Area fmt (field p 0 8) rest, false) else none
  | 5, _ => if bs.length = 256 then some (transpose8 bs, false) else none
  | _, _ => some (bs, false)

/-- What a message's dispatch loads. -/
def Msg.pending (m : Msg) (area : List Byte) : PendMsg :=
  let w (i : Nat) : DWord := BitVec.ofNat 64 (leNat ((area.drop (8 * i)).take 8))
  { cls := m.cls, src := m.src, len := m.len, seq := m.seq, g1 := w 0, g2 := w 1, g3 := w 2, area := area,
    handler := m.handler, stamp := some m.stamp, taint := m.taint }

/-- A DECODED MESSAGE LANDS at a node (R19, R33, R131). -/
def State.landMsg (s : State) (n : Node) (m : Msg) : State :=
  if s.finished n then s.dropMsg n
  else match m.sub.toNat, n with
    | 3, .col c => s.landScatter c m
    | 4, .col c => s.landAdds c m
    | 6, .col c => s.landCopy c m
    | 1, .hart h => s.landHart h m
    | 3, .hart h => s.landHart h m
    | 4, .hart h => s.landHart h m
    | 6, .hart h => s.landHart h m
    | k, _ =>
      if 7 ≤ k then s.dropMsg n
      else match s.areaOf n m with
        | none => match n with
          | .col c => s.badTarget c m
          | .hart _ => s.dropMsg n
        | some (area, cut) =>
          let s := if cut then s.dropMsg n else s
          s.arrive n (m.pending area)

/-- A message arrives before another at the same receiver: in an earlier cycle, or with the lower key (R19). -/
def MsgFlight.before (g f : MsgFlight) : Bool :=
  g.dst == f.dst && (decide (g.due < f.due) || (g.due == f.due && decide (g.msg.src.key < f.msg.src.key)))

/-- A message lands once its last token has come and every message that arrives before it has landed, its entry passing to it (R19, R144). -/
def State.landFirst (s : State) (i : Nat) : State :=
  match s.msgs[i]? with
  | none => s
  | some f =>
    if s.now < f.due || s.msgs.any (·.before f) then s
    else
      let n := f.dst.node
      let s := { s with msgs := dropNth i s.msgs }
      let s := if f.msg.needsEntry then s.modCpu n fun u => { u with grants := u.grants - 1 } else s
      let (m, s) := s.decodeMsg n f.msg
      let s := match m with
        | none => s.dropMsg n
        | some m => s.landMsg n m
      s.admitSelf n

/-- `MESSAGE_LAND`. -/
def execMessageLand (i : Nat) (s : State) : Out :=
  .next (match s.msgs[i]? with
    | none => s
    | some f => (s.awoken f.dst.col? f.due).landFirst i)

/-- `DICT_RESET_REQUEST`: the sender resets its copy and sends its next message to that receiver plain (R133). -/
def execDictResetRequest (i : Nat) (s : State) : Out :=
  match s.resets[i]? with
  | none => .next s
  | some (col, slot, key) =>
    let s := { s with resets := dropNth i s.resets }
    if 256 ≤ key then .next s
    else
      let reset (d : Nat × Dict) : Nat × Dict := if d.1 = col * 16 + slot then (d.1, { Dict.empty with peer := d.2.peer, plain := true }) else d
      .next (s.modCpu (.col (fin 255 key)) fun u => { u with dictTx := u.dictTx.map reset })

/-! Sending forms (R235 to R238). -/

/-- The target of a slot: a slot of the band, or for an engine hart a column or a unit (R233). -/
def State.targetOf (s : State) (slot : Nat) : Option Target :=
  match s.focus with
  | .col c => (s.slotCol c slot).map Target.col
  | .hart _ =>
    if slot < 256 then some (.col (fin 255 slot))
    else
      let id := slot - 256
      if id < 40 then some (.hart (fin 42 id)) else if 41 ≤ id && id ≤ 43 then some (.hart (fin 42 (id - 1))) else none

/-- The fields of a message descriptor that R235 requires to be zero, its range, and its payload's place (R261); `cnt` says that COUNT is used and `slot` that SLOT is. -/
def State.descOk (s : State) (v : DWord) (len : Nat) (cnt slot : Bool) : Res Unit := do
  res0 v 31 18
  if !cnt then res0 v 63 48
  if !slot then res0 v 47 32
  match s.focus with
  | .col c => if slot then inRange (bitsNat v 47 32 + Nat.max 1 (bitsNat v 63 48) ≤ (match (s.col c).band with | some b => b.size | none => 0))
  | .hart _ => if slot then inRange (s.targetOf (bitsNat v 47 32)).isSome
  s.structCause s.focus (BitVec.ofNat 64 (bitsNat v 16 0)) (32 * len) 32

/-- The task of the focus, as messages carry it. -/
def State.taskId (s : State) (n : Node) : BitVec 16 := match s.bandOf n with | some b => b.task | none => 0

/-- Queues a message of `words` to targets: `lclk` rises and stamps it (R237). -/
def State.queueMsg (s : State) (ts : List Target) (cls : BitVec 5) (sub : BitVec 4) (words : List DWord) (taint comp : Bool) : State :=
  let n := s.focus
  let u := s.cpu n
  let m : Msg :=
    { src := n.sender, cls := cls, sub := sub, seq := 0, len := BitVec.ofNat 3 (words.length / 4 - 1), comp := false, dslot := 0,
      words := words, taint := taint, stamp := u.lclk + 1, handler := none, task := s.taskId n }
  s.modCpu n fun u => { u with lclk := u.lclk + 1, outq := u.outq ++ [⟨ts, m, comp, u.serial⟩] }

/-- The outbound queue holds 16 messages. -/
def State.outFull (s : State) : Bool := decide (16 ≤ (s.cpu s.focus).outq.length)

/-- Sends `len` tokens from a descriptor's payload address to targets (R237). -/
def State.sendFrom (s : State) (d : BitVec 5) (v : DWord) (ts : List Target) (len : Nat) (cls : BitVec 5) (sub : BitVec 3) : Res State := do
  if s.outFull then .ok (s.ret d 1)
  else
    let (ws, t, s) ← s.readStruct s.focus (BitVec.ofNat 64 (bitsNat v 16 0)) (4 * len) 32
    let s := s.setTaint s.focus t
    .ok ((s.queueMsg ts cls (BitVec.setWidth 4 sub) ws t (v.getLsbD 17)).ret d 0)

/-- `send`. -/
def execSend (d a : BitVec 5) (u l : BitVec 3) (c : BitVec 5) (s : State) : Out :=
  seqResult s (do
    let v := s.g a
    let len := l.toNat + 1
    s.descOk v len false true
    match s.targetOf (bitsNat v 47 32) with
    | none => fault .operand
    | some t => s.sendFrom d v [t] len c u)

/-- `sendi`. -/
def execSendi (d a c : BitVec 5) (s : State) : Out :=
  seqResult s (do
    let v := s.g d
    res0 v 63 16
    match s.targetOf (bitsNat v 15 0) with
    | none => fault .operand
    | some t =>
      if s.outFull then .ok (s.ret d 1)
      else
        let (x, y, z) := triple a s
        .ok ((s.queueMsg [t] c 0 [x, y, z, 0] false false).ret d 0))

/-- `reply` (R238). -/
def execReply (d a : BitVec 5) (u l : BitVec 3) (c : BitVec 5) (s : State) : Out :=
  onColumn s fun k => do
    let v := s.g a
    let len := l.toNat + 1
    s.descOk v len false false
    let from_ := (s.col k).cpu.task
    let id := bitsNat from_ 7 0
    if from_.getLsbD 13 then
      (if id < 40 then s.sendFrom d v [.hart (fin 42 id)] len c u
       else if 41 ≤ id && id ≤ 43 then s.sendFrom d v [.hart (fin 42 (id - 1))] len c u
       else .ok (s.ret d 2))
    else s.sendFrom d v [.col (fin 255 id)] len c u

/-- `bcast`: one entry; the copies leave in ascending slot order. -/
def execBcast (d a : BitVec 5) (u l : BitVec 3) (c : BitVec 5) (s : State) : Out :=
  onColumn s fun k => do
    let v := s.g a
    let len := l.toNat + 1
    s.descOk v len true true
    let first := bitsNat v 47 32
    let n := bitsNat v 63 48
    let size := match (s.col k).band with | some b => b.size | none => 0
    let ts := (countFrom first (if n = 0 then size - first else n)).filterMap fun i => s.targetOf i
    s.sendFrom d v ts len c u

/-- `post`: the record's write is a release at `sys`, so every earlier access performs first (R238, R346). -/
def execPost (d a : BitVec 5) (k : BitVec 8) (s : State) : Out :=
  onColumn s fun c => do
    let v := s.g a
    s.descOk v 1 false false
    let n := Node.col c
    let p := s.partOf n
    if s.hub.evFree p = 0 then .ok (s.ret d 1)
    else
      let (ws, t, s) ← s.readStruct n (BitVec.ofNat 64 (bitsNat v 16 0)) 4 32
      let s := (s.setTaint n t).drainFor n .sys
      let r := eventRecord s n 0 k.toNat c.val (wordsBytes ws) none
      let held := s.hub.evHeld.get p
      let s := s.modHub fun h => { h with evHeld := vset h.evHeld p [r] }
      let s := s.writeEvent p
      .ok ((s.modHub fun h => { h with evHeld := vset h.evHeld p held }).ret d 0)

/-! Handler forms (R239, R240). -/

/-- `end`: the sequencer is idle, and the next dispatch follows 3 cycles after it; `end final` marks the stage finished (R21, R33, R240). -/
def execEnd (f : BitVec 1) (s : State) : Out :=
  let n := s.focus
  let s := s.modCpu n fun u => { u with busy := false }
  .next (match n with
    | .hart _ => s
    | .col c => if f = 1#1 then s.modCol c fun x => { x with band := x.band.map fun b => { b with finished := true } } else s)

/-- `armh`. -/
def execArmh (d a : BitVec 5) (x k : BitVec 1) (p : BitVec 4) (c : BitVec 5) (s : State) : Out :=
  onColumn s fun col => do
    let v := s.g a
    let n := Node.col col
    let old := (s.cpu n).hteOf c.toNat
    let put (w : Word) : Res State :=
      .ok ((s.modCpu n fun u => { u with hte := vset u.hte (fin 19 c.toNat) w, dirty := true }).ret d (BitVec.setWidth 64 old))
    if x = 1#1 then do
      inRange (v == 0)
      put (putBit old 31 false)
    else do
      if bitsNat v 1 0 ≠ 0 then fault .misaligned
      match (if 0x18000 ≤ v.toNat then some .nearRange else s.nearCause n v.toNat) with
      | some e => fault e
      | none =>
        let w := putField (putBit old 31 true) 2 (field v 2 15 : BitVec 15)
        put (if k = 1#1 then w else putField w 24 p)

/-- The class set of `maskh` and `unmaskh`. -/
def State.putMasks (s : State) (d a : BitVec 5) (b : Bool) : Out :=
  onColumn s fun c => do
    let v := s.g a
    res0 v 63 20
    let n := Node.col c
    let set := if b && !(s.cpu n).sup then putBit v 19 false else v
    .ok ((s.modCpu n fun u => u.setMasks set b).ret d (s.cpu n).maskBits)

/-- `maskh`: in user mode bit 19 is ignored. -/
def execMaskh (d a : BitVec 5) (s : State) : Out := s.putMasks d a true

/-- `unmaskh`. -/
def execUnmaskh (d a : BitVec 5) (s : State) : Out := s.putMasks d a false

/-- `raise`: every earlier access performs before the message arrives (R239). -/
def execRaise (d a c : BitVec 5) (s : State) : Out :=
  onColumn s fun col => do
    let n := Node.col col
    if 64 ≤ (s.cpu n).pendCount then .ok (s.ret d 1)
    else
      let (x, y, z) := triple a s
      let s := s.drainFor n .sys
      let s := s.modCpu n fun u => { u with lclk := u.lclk + 1 }
      .ok ((s.arrive n (selfMsg n c x y z (some (s.cpu n).lclk))).ret d 0)

/-- `MESSAGE_DISPATCH` (R20 to R22). -/
def execMessageDispatch (n : Node) (s : State) : Out :=
  if s.canDispatch n && decide ((s.cpu n).ready ≤ s.now) then .next (s.dispatch n) else .next s

end Sys2Proof.Machine
end

