-- ==== Sys2Proof/Machine/Parts.lean ====
section
/-! DEFINITION. Configuration parts: their words (R189, R190), the checks that park a context (R187, R191, R302, R304, R396), and the arrival of control tokens (R27, R41). -/

namespace Sys2Proof.Machine

/-- A part's content (R189). -/
structure Part where
  hdr : Word
  seed : Word
  prog : List Word
  consts : Vector Word 8
  vct : List (Nat × Half)
  routes : Vector (List Half) 4
  deriving DecidableEq, Repr

/-- The eight 32-bit words of a token's payload. -/
def payloadWords (v : Vec) : List Word := (upTo 8).map fun m => field v (32 * m) 32

/-- The constants of a part: one word for each set bit of CMASK from bit `j` on, and what is left. -/
def takeConsts (mask : Nat) (cs : Vector Word 8) (ws : List Word) : Nat → Vector Word 8 × List Word
  | 0 => (cs, ws)
  | n + 1 =>
    let j := 8 - (n + 1)
    if mask / 2 ^ j % 2 = 1 then takeConsts mask (vset cs (fin 7 j) (ws.headD 0)) (ws.drop 1) n
    else takeConsts mask cs ws n

/-- The halves of words, low half first. -/
def halvesOf (ws : List Word) : List Half := ws.flatMap fun w => [field w 0 16, field w 16 16]

/-- Words that a part uses: U of R190. -/
def partUse (hdr content : Word) : Nat :=
  let ns := bitsNat content 14 12 + bitsNat content 17 15 + bitsNat content 20 18 + bitsNat content 23 21
  3 + hLen hdr + popNat 8 (bitsNat content 7 0) + bitsNat content 11 8 + (ns + 1) / 2

/-- The content of a part's words, if its form keeps R42, R189 and R190. `plen` is PLEN. -/
def parsePart (plen : Nat) (ws : List Word) : Option Part :=
  let hdr := nth 0 ws 0
  let content := nth 0 ws 2
  let u := partUse hdr content
  let len := hLen hdr
  let nv := bitsNat content 11 8
  let (cs, rest) := takeConsts (bitsNat content 7 0) (vfill 8 0) (ws.drop (3 + len)) 8
  let vws := rest.take nv
  let n0 := bitsNat content 14 12
  let n1 := bitsNat content 17 15
  let n2 := bitsNat content 20 18
  let n3 := bitsNat content 23 21
  let hs := halvesOf ((rest.drop nv).take ((n0 + n1 + n2 + n3 + 1) / 2))
  let pad := hs.drop (n0 + n1 + n2 + n3)
  let vctOk := vws.all fun w => bitsNat w 31 21 == 0 && bitsNat w 15 13 == 0 && bitsNat w 3 0 ≤ 12
  if 8 * plen < u && u ≤ 8 * (plen + 1) && bitsNat content 31 24 == 0 && vctOk && pad.all (· == 0) && (ws.drop u).all (· == 0) then
    some
      { hdr := hdr, seed := nth 0 ws 1, prog := (ws.drop 3).take len, consts := cs,
        vct := vws.map fun w => (bitsNat w 20 16, field w 0 16),
        routes := ⟨#[hs.take n0, (hs.drop n0).take n1, (hs.drop (n0 + n1)).take n2, (hs.drop (n0 + n1 + n2)).take n3], rfl⟩ }
  else none

/-! The rules between a part and its column (R302, R304, R309, R311). -/

/-- The header of a control token keeps R41. -/
def ctlOk (h : DWord) : Bool :=
  bitsNat h 48 47 != 3 && bitsNat h 50 49 ≤ bitsNat h 48 47 && bitsNat h 46 44 == 0 && bitsNat h 41 40 == 3 && bitsNat h 39 0 == 0

/-- A `gather` word as the replicas of one context share it: the element of replica 0 (none where a landing exit stands for replicas of the slot before), the context and the output port. -/
structure GatherKey where
  base : Option Nat
  ctx : CtxId
  out : PortId
  deriving DecidableEq, Repr

/-- An input port that a route feeds: the port, and the gather word through whose point it does. -/
abbrev Fed := PortRef × Option GatherKey

/-- The header of a context, as it stands or as the part on its way to it gives it. -/
def State.hdrOf (s : State) (r : CtxRef) : Option Word :=
  let x := s.ctx r
  match x.st, x.load with
  | .live, _ => some x.hdr
  | .loading, some l => l.words.head?
  | .parked, _ => none
  | _, _ => (s.ctl.find? fun f => ctlDest f.tok.hdr == r && bitsNat f.tok.hdr 50 49 == 0).map fun f => field f.tok.payload 0 32

/-- How many elements below `e` hold a copy of a context with this header, at most `n` (R28). -/
def State.copiesBelow (s : State) (c : ColId) (k : CtxId) (hdr : Word) (e : Nat) : Nat → Nat
  | 0 => 0
  | n + 1 => if e = 0 then 0 else if s.hdrOf ⟨c, fin 31 (e - 1), k⟩ = some hdr then s.copiesBelow c k hdr (e - 1) n + 1 else 0

/-- How many elements from `e` on hold a copy of a context with this header, at most `n`. -/
def State.copiesFrom (s : State) (c : ColId) (k : CtxId) (hdr : Word) (e : Nat) : Nat → Nat
  | 0 => 0
  | n + 1 => if 32 ≤ e then 0 else if s.hdrOf ⟨c, fin 31 e, k⟩ = some hdr then s.copiesFrom c k hdr (e + 1) n + 1 else 0

/-- The element of replica 0 of a context that is replicated (R28), counted below 0 where the copies began in the slot before: those at elements 0 to m − 1 are the last m of the R copies, unless the next slot goes on with them. -/
def State.replica0 (s : State) (r : CtxRef) (hdr : Word) : Int :=
  let R := hRep hdr
  let base := r.elem.val - s.copiesBelow r.col r.ctx hdr r.elem.val (R - 1)
  let m := s.copiesFrom r.col r.ctx hdr base R
  let next := match (s.col r.col).band with
    | some b => (match s.slotCol r.col (b.slot + 1) with | some c => s.hdrOf ⟨c, 0, r.ctx⟩ == some hdr | none => false)
    | none => false
  if base = 0 && m < R && !next then (m : Int) - R else base

/-- The input ports of the column that a route of output `o` of a context with header `hdr` feeds; `any` says that `tagctx` may choose the context (R304). -/
def State.feeds (s : State) (r : CtxRef) (hdr : Word) (o : PortId) (any : Bool) (hs : List Half) : List Fed :=
  let c := r.ctx
  let x := s.col r.col
  let every (w : SW) (e : Nat) (g : Option GatherKey) : List Fed :=
    (if any then ([0, 1, 2, 3] : List CtxId) else [fin 3 (c.val + w.cmap)]).map fun k => (⟨⟨r.col, fin 31 e, k⟩, fin 3 w.port⟩, g)
  let head := match (turnRoute hs).head with
    | .none => []
    | .dests ws => ws.flatMap fun w => if w.form = 2 then every w w.elem none else []
    | .deal w =>
      let n := match s.hdrOf ⟨r.col, fin 31 w.elem, fin 3 (c.val + w.cmap)⟩ with | some h => hRep h | none => 1
      ((upTo n).filter fun k => decide (w.elem + k < 32)).flatMap fun k => every w (w.elem + k) none
    | .gather w =>
      if x.spill.any fun q => q.1 == r.elem.val && q.2.1 == c.val && q.2.2.1 == o.val then []
      else every w w.elem (some ⟨some (s.replica0 r hdr).toNat, c, o⟩)
  head ++ (match (turnRoute hs).stat with | some w => [(w.portRef r.col c none, none)] | none => [])

/-- The ports that a context with these routes feeds. -/
def State.feedsOf (s : State) (r : CtxRef) (hdr : Word) (words : List EW) (routes : Vector (List Half) 4) : List Fed :=
  (mapFrom (fun k hs => s.feeds r hdr (fin 3 k) (words.any fun e => opOf e == .tagctx && e.d == 8 + k) hs) 0 routes.toList).flatMap fun l => l

/-- Two gather words are one and the same in the replicas of a context. -/
def GatherKey.same (a b : GatherKey) : Bool :=
  a.ctx == b.ctx && a.out == b.out && (a.base == b.base || a.base.isNone || b.base.isNone)

/-- Two feeders of one port clash, but for replicas that share a gather point (R304, R307). -/
def Fed.clash (a b : Fed) : Bool :=
  a.1 == b.1 && !(match a.2, b.2 with | some g, some h => g.same h | _, _ => false)

/-- Some member of a list clashes with a later one. -/
def selfClash : List Fed → Bool
  | [] => false
  | a :: r => r.any (fun b => Fed.clash a b) || selfClash r

/-- The ports of the column that another context, or an exit entry of a column, already feeds. -/
def State.fedBefore (s : State) (r : CtxRef) : List Fed :=
  let x := s.col r.col
  let local_ := (upTo 128).flatMap fun i =>
    let e := fin 31 (i / 4)
    let c := fin 3 (i % 4)
    if e = r.elem && c = r.ctx || (x.ctx e c).st != .live then []
    else s.feedsOf ⟨r.col, e, c⟩ (x.ctx e c).hdr (x.ctx e c).words (x.ctx e c).routes
  let landing := s.cols.toList.flatMap fun y =>
    if y.band.isNone then [] else (mapFrom (fun i (e : DWord) =>
      let key := (y.spill.find? fun q => q.2.2.2.2 == i).map fun q => (⟨none, fin 3 q.2.1, fin 3 q.2.2.1⟩ : GatherKey)
      if e.getLsbD 63 && !(y.exitTe.any fun t => t.1 == i) && (exitPort e).at_.col == r.col then [(exitPort e, key)] else []) 0
      y.exits.toList).flatMap fun l => l
  local_ ++ landing

/-- Whether the routes of a context are admitted in its column: shapes, heads for what it produces, one feeder a port, four corner turns, one FO. -/
def State.routesOk (s : State) (r : CtxRef) (hdr : Word) (words : List EW) (routes : Vector (List Half) 4) : Bool :=
  let x := s.col r.col
  let fos := routes.toList.filter fun hs => isFo hs
  let turns := routes.toList.filter fun hs => (turnRoute hs).turn.isSome
  let used := x.turns.toList.filter fun t => match t.owner with | some p => p.at_ != r | none => false
  let fo := match x.fab.fo with | some p => p.at_ != r | none => false
  let mine := s.feedsOf r hdr words routes
  routes.toList.all (fun hs => routeOk hs) &&
  (ports.all fun k =>
    let hs := routes.get k
    (hPo hdr k == 0 || (routeOf hs).hasHead) && (!isFo hs || !(words.any fun e => emitsPort e k.val != 0))) &&
  decide (turns.length + used.length ≤ 4) && decide (fos.length + (if fo then 1 else 0) ≤ 1) &&
  !selfClash mine && !((s.fedBefore r).any fun f => mine.any fun g => Fed.clash f g)

/-! Clearing, parking and going live (R27, R190, R396). -/

/-- A context cleared for a part (R27): the free-space counters of its ports, its extents, its weight count and its statistics stay. -/
def Ctx.cleared (x : Ctx) : Ctx :=
  { Ctx.empty with q := vmap (fun k => ({ toks := [], free := k.free, wave := false } : PortQ)) x.q, b := x.b, wcnt := x.wcnt, wk := x.wk,
                   stat := x.stat, stopped := x.stopped, syFmt := 15, dirty := true }

/-- The buffers of the column that a context owns are given up, with what they hold. -/
def State.releaseUnits (s : State) (r : CtxRef) : State :=
  let mine (t : Turn) : Bool := match t.owner with | some p => p.at_ == r | none => false
  let held := (s.col r.col).turns.toList.flatMap fun t => if mine t then t.inq else []
  let other (o : Option PortRef) : Option PortRef := match o with
    | some p => if p.at_ = r then none else some p
    | none => none
  let s := s.modCol r.col fun x =>
    { x with turns := vmap (fun t => if mine t then Turn.empty else t) x.turns, fab := { x.fab with fo := other x.fab.fo } }
  held.foldl (fun s q => (s.countDrop r.col r.elem 1).endTokSonde q.tok 0) s

/-- Every token in a context's queue bank is discarded, counted and credited (R27). -/
def State.emptyBank (s : State) (r : CtxRef) : State :=
  ports.foldl (fun s k =>
    let n := ((s.ctx r).q.get k).toks.length
    let (qs, s) := s.takeToks ⟨r, k⟩ n
    qs.foldl (fun s q => (s.countDrop r.col r.elem 1).endTokSonde q.tok 0) s) s

/-- A part ends the stream of its context (R242): writes that it has issued perform, replies still to come are counted as dropped. -/
def State.cutStream (s : State) (r : CtxRef) : State :=
  match (s.ctx r).strm with
  | none => s
  | some m =>
    let s := (mapFrom (fun k (q : AgReq) => if q.write then (upTo q.pieces.length).map fun p => (k, p) else []) 0 m.reqs).foldl
      (fun s ps => ps.foldl (fun s p => s.performPiece r p.1 p.2) s) s
    let lost := m.out.length + (m.reqs.filter fun q => !q.write && !q.replied).length
    let s := if lost > 0 then s.countDrop r.col r.elem lost else s
    let gone (w : Waiter) : Bool := w == .stream r
    let key := r.elem.val * 4 + r.ctx.val
    let s := s.modCol r.col fun x => { x with barr := x.barr.map fun b => b.forget key (fun _ => true) fun _ => false }
    (s.modCtx r fun x => { x with strm := none }).modStack (stackOf r.col) fun k => { k with replay := k.replay.filter fun q => !gone q.who }

/-- The context holds nothing of what it held, in the state `st` (R27, R396). -/
def State.clearCtx (s : State) (r : CtxRef) (st : CtxState) : State :=
  let s := ((s.cutStream r).emptyBank r).releaseUnits r
  s.modCtx r fun x => { x.cleared with st := st }

/-- The context parks: its masks read zero with the rest (R396). -/
def State.park (s : State) (r : CtxRef) : State := (s.clearCtx r .parked).modCtx r fun x => { x with m := vfill 4 0 }

/-- Another live context of the column feeds a gather point. -/
def State.gatherFed (s : State) (r : CtxRef) (p : PortRef) : Bool :=
  (s.fedBefore r).any fun f => f.1 == p && f.2.isSome

/-- Gather points that a live context of the column feeds exist: one slot for each replica (R307). The first replica to go live starts the point anew, at turn 0; the place of replica 0 is that which the newest copy sees. -/
def State.addGathers (s : State) (r : CtxRef) : State :=
  let x := s.ctx r
  (mapFrom (fun k hs => (fin 3 k, hs)) 0 x.routes.toList).foldl (fun (s : State) (q : PortId × List Half) =>
    match (turnRoute q.2).head with
    | .gather w =>
      let p := w.portRef r.col r.ctx none
      let n := hRep x.hdr
      let base := s.replica0 r x.hdr
      let fresh : Gather := { dest := p, base := base, vch := w.vch, slots := List.replicate n none, turn := 0, next := 0, free := List.replicate n 1, stuck := false }
      if (s.col r.col).spill.any fun y => y.1 == r.elem.val && y.2.1 == r.ctx.val && y.2.2.1 == q.1.val then s
      else match (s.col r.col).gathers.find? fun g => g.key == fresh.key with
        | none => s.modCol r.col fun c => { c with gathers := c.gathers ++ [fresh] }
        | some g =>
          let g' := if s.gatherFed r p then { g with base := base }
            else if g.slots.length = n then { g with base := base, turn := 0, stuck := false } else fresh
          s.modCol r.col fun c => { c with gathers := c.gathers.map fun y => if y.key = g.key then g' else y }
    | _ => s) s

/-- The exchange of a swap (R54), and the gather points that the context's new routes feed. -/
def State.exchange (s : State) (r : CtxRef) : State := if (s.ctx r).swap then (s.swapNow r).addGathers r else s

/-- Corner-turn buffers and the FO route of a live context (R309, R311). -/
def State.addUnits (s : State) (r : CtxRef) : State :=
  ports.foldl (fun s k =>
    let hs := (s.ctx r).routes.get k
    let s := if isFo hs then s.modCol r.col fun x => { x with fab := { x.fab with fo := some ⟨r, k⟩ } } else s
    match (turnRoute hs).turn with
    | none => s
    | some w =>
      match indexOf? (fun t : Turn => t.owner.isNone) (s.col r.col).turns.toList with
      | none => s
      | some i =>
        let t : Turn := { Turn.empty with owner := some ⟨r, k⟩, w := 8 * 2 ^ w.cmap, k := w.x, free := 2 ^ w.x }
        s.modCol r.col fun x => { x with turns := vset x.turns (fin 3 i) t }) s


/-- The tokens that `.prime` places in a port of a context of the task that is loading (R56, R288). -/
def State.primes (s : State) (r : CtxRef) : List (PortId × BitVec 5 × List Vec) :=
  match s.taskOf r.col, (s.col r.col).band with
  | some t, some b =>
    if t.st != .loading then []
    else match t.place with
      | some p => match p.slots[b.slot]? with
        | some q => (q.primes.filter fun y => y.1.at_ == r).map fun y => (y.1.port, y.2)
        | none => []
      | none => []
  | _, _ => []

/-- A context with the content of a part (R190). -/
def Ctx.withPart (x : Ctx) (p : Part) : Ctx :=
  { x with st := .live, load := none, hdr := p.hdr, prog := ⟨((upTo 8).map fun i => nth 0 p.prog i).toArray, by simp [upTo, countFrom]⟩, seed := p.seed,
           lfsr := seedLoad p.seed, c := p.consts, m := vfill 4 0xFFFFFFFF#32, routes := p.routes }

/-- An element with the VCT updates of a part. -/
def Elem.withVct (e : Elem) (p : Part) : Elem :=
  { e with vct := p.vct.foldl (fun v u => vset v (fin 31 u.1) u.2) e.vct, vctDirty := e.vctDirty || !p.vct.isEmpty }

/-- The context goes live with a part, from the next cycle on (R27, R190, R191): VCT updates, seed, constants, masks, primed tokens. -/
def State.goLive (s : State) (r : CtxRef) (p : Part) : State :=
  let s := (s.modElem r.col r.elem fun e => e.withVct p).modCtx r fun x => { x.withPart p with liveAt := s.now + 1 }
  let s := ((s.addUnits r).addGathers r).dropUnconsumed r
  let pr := s.primes r
  let n := sumList (pr.map fun y => y.2.2.length)
  let tok (y : PortId × BitVec 5 × List Vec) (v : Vec) : QTok := ⟨{ dataToken v 31 false with vch := y.2.1 }, .port ⟨r, y.1⟩, s.now⟩
  let s := s.modCtx r fun x =>
    let put (q : Vector PortQ 4) (y : PortId × BitVec 5 × List Vec) : Vector PortQ 4 :=
      vmod q y.1 fun k => { k with toks := k.toks ++ y.2.2.map (tok y), free := k.free - y.2.2.length }
    let c := if x.mergeWord.isSome then vmod x.c 4 fun v => putField v 16 (BitVec.ofNat 16 n) else x.c
    { x with q := pr.foldl put x.q, c := c }
  s.heads r

/-- The last token of a part has arrived: the context goes live, or parks (R187, R190, R396). -/
def State.settlePart (s : State) (r : CtxRef) (plen : Nat) (ws : List Word) : State :=
  match parsePart plen ws with
  | none => s.park r
  | some p =>
    if progOk p.hdr p.prog && s.routesOk r p.hdr (ewsOf p.prog) p.routes then s.goLive r p else s.park r

/-- A control token arrives at its context (R27, R41, R191). -/
def State.takeCtl (s : State) (t : CtlTok) : State :=
  let r := ctlDest t.hdr
  let pidx := bitsNat t.hdr 50 49
  let plen := bitsNat t.hdr 48 47
  let x := s.ctx r
  if !ctlOk t.hdr || t.bad then s.park r
  else
    let ws := payloadWords t.payload
    match x.st, x.load with
    | .loading, some l =>
      if pidx ≠ l.next || plen ≠ l.plen then s.park r
      else if pidx = plen then s.settlePart r plen (l.words ++ ws)
      else s.modCtx r fun x => { x with load := some { l with next := pidx + 1, words := l.words ++ ws } }
    | _, _ =>
      if pidx ≠ 0 then s.park r
      else
        let s := s.clearCtx r .loading
        if plen = 0 then s.settlePart r 0 ws
        else s.modCtx r fun x => { x with load := some ⟨plen, 1, ws⟩ }

/-- A configuration load learns what became of a part that it sent whole, which is live from the next cycle on (R27, R242). -/
def State.reportPart (s : State) (q : Option (ColId × Nat × Nat)) (r : CtxRef) : State :=
  match q with
  | none => s
  | some (c, job, k) =>
    let res := ((s.ctx r).st == .live, s.now + 1)
    s.modCol c fun x => { x with cfgl := x.cfgl.map fun l =>
      if l.job = job then { l with parts := modNth (fun p => { p with res := some res }) k l.parts } else l }

/-- The first configuration token towards its context is taken once it is due and the context rests (R28). -/
def State.landCtl (s : State) (i : Nat) : State :=
  match s.ctl[i]? with
  | none => s
  | some f =>
    let r := ctlDest f.tok.hdr
    if s.now < f.due || ((s.ctl.take i).any fun g => ctlDest g.tok.hdr == r) || !s.atRest r then s
    else ({ s with ctl := dropNth i s.ctl }.takeCtl f.tok).reportPart f.report r

/-- `CONFIG_TOKEN_ARRIVE`: the first control token on its way to a context arrives once it is due and no firing of the context executes (R27, R191). -/
def execConfigTokenArrive (i : Nat) (s : State) : Out :=
  .next (match s.ctl[i]? with
    | none => s
    | some f => (s.awoken (some (ctlDest f.tok.hdr).col) f.due).landCtl i)

end Sys2Proof.Machine
end

