-- ==== Sys2Proof/Machine/Configure.lean ====
section
/-! DEFINITION. The configuration forms of opcode 0x30 (R242 to R244) and the events of a configuration load. -/

namespace Sys2Proof.Machine

/-- The element context that `ewsel` selects (R228). -/
def State.selected (s : State) (c : ColId) : CtxRef :=
  let w := (s.col c).cpu.ewsel
  ⟨c, fin 31 (bitsNat w 4 0), fin 3 (bitsNat w 9 8)⟩

/-- All ones in a register. -/
def allOnes64 : DWord := BitVec.allOnes 64

/-- A job that a barrier counts starts at a column: its number (R248). -/
def State.startJob (s : State) (c : ColId) : Nat × State :=
  let j := (s.col c).nextJob
  (j, s.modCol c fun x => { x with nextJob := j + 1, jobs := j :: x.jobs })

/-- A job ends. -/
def State.endJob (s : State) (c : ColId) (j : Nat) : State := s.modCol c fun x => { x with jobs := x.jobs.filter fun k => k != j }

/-- The band size of a column; 0 without a task. -/
def Column.bandSize (x : Column) : Nat := match x.band with | some b => b.size | none => 0

/-! `cfge`, `cfgw`, `ctxi`. -/

/-- `cfge` (R243). -/
def execCfge (d a : BitVec 5) (i : BitVec 3) (s : State) : Out :=
  onColumn s fun c => do
    let v := s.g a
    res0 v 63 32
    let r := s.selected c
    let x := s.ctx r
    if !x.isLive s.now || hLen x.hdr ≤ i.toNat then .ok (s.ret d allOnes64)
    else
      let k := fin 7 i.toNat
      let old := x.prog.get k
      let prog := vset x.prog k (field v 0 32)
      let s := if progOk x.hdr (prog.toList.take (hLen x.hdr)) then s.modCtx r fun x => { x with prog := prog, dirty := true } else s.park r
      .ok (s.ret d (BitVec.setWidth 64 old))

/-- The corner-turn buffer of one port is given up, with what it holds. -/
def State.releaseTurn (s : State) (p : PortRef) : State :=
  let held := (s.col p.at_.col).turns.toList.flatMap fun t => if t.owner == some p then t.inq else []
  let s := s.modCol p.at_.col fun x => { x with turns := vmap (fun t => if t.owner == some p then Turn.empty else t) x.turns }
  held.foldl (fun s q => (s.countDrop p.at_.col p.at_.elem 1).endTokSonde q.tok 0) s

/-- A port's route is rewritten: its corner-turn buffer, gather point and FO role follow. -/
def State.putRoute (s : State) (r : CtxRef) (o : PortId) (hs : List Half) : State :=
  let old := (s.ctx r).routes.get o
  let s := s.modCtx r fun x => { x with routes := vset x.routes o hs, dirty := true }
  let s := if (turnRoute old).turn = (turnRoute hs).turn then s
    else
      let s := s.releaseTurn ⟨r, o⟩
      match (turnRoute hs).turn, indexOf? (fun t : Turn => t.owner.isNone) (s.col r.col).turns.toList with
      | some w, some i =>
        let t : Turn := { Turn.empty with owner := some ⟨r, o⟩, w := 8 * 2 ^ w.cmap, k := w.x, free := 2 ^ w.x }
        s.modCol r.col fun x => { x with turns := vset x.turns (fin 3 i) t }
      | _, _ => s
  let s := if isFo hs then s.modCol r.col fun x => { x with fab := { x.fab with fo := some ⟨r, o⟩ } }
    else if isFo old then s.modCol r.col fun x => { x with fab := { x.fab with fo := none } } else s
  s.addGathers r

/-- `cfgw` (R243). -/
def execCfgw (d a : BitVec 5) (p : BitVec 2) (st : BitVec 3) (s : State) : Out :=
  onColumn s fun c => do
    let v := s.g a
    res0 v 63 16
    let r := s.selected c
    let x := s.ctx r
    let o := fin 3 p.toNat
    let hs := x.routes.get o
    match hs[st.toNat]? with
    | none => .ok (s.ret d allOnes64)
    | some old =>
      let hs' := modNth (fun _ => field v 0 16) st.toNat hs
      let ok := x.isLive s.now && (swOf old).form != 7 && bitsNat v 15 12 != 7 && s.routesOk r x.hdr x.words (vset x.routes o hs')
      if ok then .ok ((s.putRoute r o hs').ret d (BitVec.setWidth 64 old)) else .ok (s.ret d allOnes64)

/-- `ctxi` (R243). -/
def execCtxi (d : BitVec 5) (sel : BitVec 6) (s : State) : Out :=
  onColumn s fun c =>
    let r := s.selected c
    let x := s.ctx r
    if !x.isLive s.now then .ok (s.ret d allOnes64)
    else
      let b (i : Nat) : Bool := sel.getLsbD i
      let x' (x : Ctx) : Ctx :=
        { x with v := if b 0 then vfill 8 0 else x.v,
                 acc := if b 1 then vfill 2 (vfill 8 0) else x.acc, accTaint := if b 1 then vfill 2 0 else x.accTaint,
                 m := if b 2 then vfill 4 0xFFFFFFFF#32 else x.m,
                 stall := if b 3 then vfill 5 0 else x.stall, blame := if b 3 then 0 else x.blame,
                 lfsr := if b 5 then seedLoad x.seed else x.lfsr, dirty := true }
      let n := sumList (x.q.toList.map fun q => q.toks.length)
      let s := s.modCtx r x'
      let s := if b 4 then ports.foldl (fun s k =>
          let (qs, s) := s.takeToks ⟨r, k⟩ ((s.ctx r).q.get k).toks.length
          qs.foldl (fun s q => s.endTokSonde q.tok 0) s) s else s
      .ok (s.ret d (BitVec.ofNat 64 (if b 4 then n else 0)))

/-! `mode` and `wpre` (R244). -/

/-- The contexts of a region; none where it leaves the grid. -/
def regionOf (v : DWord) : Option (List (ElemId × CtxId)) :=
  let o := bitsNat v 4 0
  let nr := bitsNat v 6 5
  let nc := bitsNat v 9 7
  let k := fin 3 (bitsNat v 11 10)
  if o / 8 + nr ≤ 3 && o % 8 + nc ≤ 7 then
    some ((upTo (nr + 1)).flatMap fun i => (upTo (nc + 1)).map fun j => (fin 31 (o + 8 * i + j), k))
  else none

/-- ROLE of a header word replaced. -/
def setRole (h : Word) (r : BitVec 2) : Word := putField h 30 r

/-- `mode` (R244). -/
def execMode (d a : BitVec 5) (f : BitVec 4) (s : State) : Out :=
  onColumn s fun c => do
    let v := s.g a
    res0 v 63 13
    match regionOf v with
    | none => .ok (s.ret d 2)
    | some q =>
      let enter := v.getLsbD 12
      let fits := q.all fun k =>
        let x := (s.col c).ctx k.1 k.2
        x.isLive s.now && hRole x.hdr == (if enter then .cp else .sy)
      if !fits then .ok (s.ret d 1)
      else
        let s := q.foldl (fun s k => s.modCtx ⟨c, k.1, k.2⟩ fun x =>
          { x with hdr := setRole x.hdr (if enter then 3 else 0), syFmt := if enter then f else 15, dirty := true }) s
        .ok (s.ret d 0)

/-- `wpre` (R244). -/
def execWpre (d a : BitVec 5) (n : BitVec 11) (s : State) : Out :=
  onColumn s fun c => do
    let v := s.g a
    res0 v 63 12
    if (s.col c).wpre.isSome then .ok (s.ret d 1)
    else match regionOf v with
      | none => .ok (s.ret d 2)
      | some q =>
        let fits := q.all fun k =>
          let x := (s.col c).ctx k.1 k.2
          x.isLive s.now && hRole x.hdr == .sy
        if !fits then .ok (s.ret d 2)
        else
          let cnt := if n = 0 then 2048 else n.toNat
          let s := q.foldl (fun s k => s.modCtx ⟨c, k.1, k.2⟩ fun x => { x with wcnt := cnt, wk := 0 }) s
          .ok ((s.modCol c fun x => { x with wpre := some ⟨q, cnt, 0⟩ }).ret d 0)

/-! Configuration loads (R242). -/

/-- `cfgl` (R242). -/
def execCfgl (d a : BitVec 5) (k : BitVec 5) (s : State) : Out :=
  onColumn s fun c => do
    let v := s.g a
    res0 v 63 48
    res0 v 31 17
    let n := bitsNat v 47 32
    inRange (n != 0)
    let addr := bitsNat v 16 0
    s.structCause (.col c) (BitVec.ofNat 64 addr) (40 * n) 8
    if (s.col c).cfgl.isSome then .ok (s.ret d 1)
    else
      let (j, s) := s.startJob c
      .ok ((s.modCol c fun x => { x with cfgl := some ⟨addr, n, 0, s.now, k, none, [], j, (s.cpu (.col c)).lclk⟩ }).ret d 0)

/-- A descriptor of a configuration list keeps its table. -/
def cfglOk (w : DWord) (size : Nat) : Bool :=
  bitsNat w 63 19 == 0 && bitsNat w 18 17 != 3 && bitsNat w 16 15 ≤ bitsNat w 18 17 && decide (bitsNat w 7 0 < size)

/-- A token of a part has been sent: the list of parts after it, and the number of the part that it ends. A token with PIDX 0 begins a part; any other goes on with the last part of its context, or begins one. -/
def notePart (ps : List CfglPart) (r : CtxRef) (pidx plen : Nat) : List CfglPart × Option Nat :=
  let open_ := if pidx = 0 then none else
    ((upTo ps.length).reverse.find? fun i => match ps[i]? with | some p => p.at_ == r | none => false).filter fun i =>
      match ps[i]? with | some p => !p.whole | none => false
  let whole := pidx == plen
  match open_ with
  | some i => (modNth (fun p => { p with whole := whole }) i ps, if whole then some i else none)
  | none => (ps ++ [⟨r, whole, none⟩], if whole then some ps.length else none)

/-- `CFGL_ENTRY_SEND`: the network interface sends the next entry as a control token (R41, R242). -/
def execCfglEntrySend (c : ColId) (s : State) : Out :=
  match (s.col c).cfgl with
  | none => .next s
  | some l =>
    if l.badIdx.isSome || l.n ≤ l.next || s.now < l.due then .next s
    else
      let (ws, bad, s) := s.nearWords (.col c) (l.addr + 40 * l.next) 5
      let w := wordAt ws 0
      let put (f : Cfgl → Cfgl) (s : State) : State := s.modCol c fun x => { x with cfgl := x.cfgl.map f }
      if !cfglOk w (s.col c).bandSize then .next (put (fun l => { l with badIdx := some l.next }) s)
      else match s.slotCol c (bitsNat w 7 0) with
        | none => .next (put (fun l => { l with badIdx := some l.next }) s)
        | some t =>
          let r : CtxRef := ⟨t, fin 31 (bitsNat w 12 8), fin 3 (bitsNat w 14 13)⟩
          let pidx := bitsNat w 16 15
          let plen := bitsNat w 18 17
          let tok : CtlTok := ⟨ctlHeader t.val r.elem.val pidx plen r.ctx.val, vecOf (ws.drop 1), bad⟩
          let (parts, done) := notePart l.parts r pidx plen
          let s := { s with ctl := s.ctl ++ [⟨tok, s.now + s.latency c t, done.map fun k => (c, l.job, k)⟩] }
          .next (put (fun l => { l with next := l.next + 1, due := s.now + 1, parts := parts }) s)

/-- The entry of a parked part in the completion message. -/
def parkedEntry (s : State) (r : CtxRef) : Nat :=
  let slot := match (s.col r.col).band with | some b => b.slot | none => 0
  slot % 256 + r.elem.val * 2 ^ 8 + r.ctx.val * 2 ^ 13

/-- `CFGL_COMPLETE`: every part sent whole is live or parked (R242). -/
def execCfglComplete (c : ColId) (s : State) : Out :=
  match (s.col c).cfgl with
  | none => .next s
  | some l =>
    let whole := l.parts.filter (·.whole)
    let settled := whole.all fun p => match p.res with | some q => decide (q.2 ≤ s.now) | none => false
    let became (p : CfglPart) (live : Bool) : Bool := match p.res with | some q => q.1 == live | none => false
    if (l.badIdx.isSome || l.n ≤ l.next) && settled then
      let parked := (whole.filter fun p => became p false).map (·.at_)
      let live := (whole.filter fun p => became p true).length
      let listed := (parked.take 116).map fun r => parkedEntry s r
      let g1 := (if l.badIdx.isSome then 1 else 0) + (if 116 < parked.length then 4 else 0) + (l.badIdx.getD 0xFFFF) % 65536 * 2 ^ 16 + l.next % 2 ^ 32 * 2 ^ 32
      let bytes := leBytes 8 g1 ++ leBytes 8 parked.length ++ leBytes 8 live ++ listed.flatMap (fun e => leBytes 2 e)
      let toks := Nat.max 1 (ceilDiv bytes.length 32)
      let m : PendMsg :=
        { cls := l.cls, src := ⟨false, BitVec.ofNat 8 c.val⟩, len := BitVec.ofNat 3 (toks - 1), seq := 0, g1 := BitVec.ofNat 64 g1,
          g2 := BitVec.ofNat 64 parked.length, g3 := BitVec.ofNat 64 live,
          area := (bytes ++ List.replicate 32 0).take (32 * toks), handler := none, stamp := none }
      let s := (s.modCol c fun x => { x with cfgl := none }).endJob c l.job
      .next (if l.cls = 31#5 then s else s.selfQueue (.col c) m)
    else .next s

end Sys2Proof.Machine
end

