-- ==== Sys2Proof/Machine/Inject.lean ====
section
/-! DEFINITION. The stream and injection forms of opcode 0x31 (R245 to R248), barriers, and the moves of gather points (R307) and corner turns (R309). -/

namespace Sys2Proof.Machine

/-- The words of the descriptor and the stream they make. -/
def streamOf (ws : List DWord) (a : Nat) (now : Nat) : Stream :=
  Stream.start (wordAt ws 0) (wordAt ws 1) (wordAt ws 2) (wordAt ws 3) (BitVec.ofNat 32 a) now

/-- Stream bindings of the task that holds a column. -/
def State.bindings (s : State) (c : ColId) : Nat := match s.taskOf c with | some t => t.sbt.length | none => 0

/-- `strm` (R245): every earlier access of the handler performs before the stream's first request (R139). -/
def execStrm (d a : BitVec 5) (k : BitVec 2) (e : BitVec 5) (s : State) : Out :=
  onColumn s fun c => do
    let v := s.g a
    let (ws, _, s) ← s.readStruct (.col c) v 4 8
    let r : CtxRef := ⟨c, fin 31 e.toNat, fin 3 k.toNat⟩
    let x := s.ctx r
    if !x.isLive s.now || hRole x.hdr != .ag then .ok (s.ret d 3)
    else if x.strm.isSome then .ok (s.ret d 1)
    else
      let m := streamOf ws v.toNat s.now
      let resv := (s.col c).resv.any fun q => q.2.1 == r.elem.val && q.2.2 == r.ctx.val
      let agrees := match issuingWord (x.prog.toList.take (hLen x.hdr)) with
        | some w => m.agrees (opOf w) resv
        | none => false
      if !m.descOk (s.bindings c) || !agrees then .ok (s.ret d 2)
      else
        let s := s.drainFor (.col c) .sys
        .ok ((s.modCtx r fun x => { x with strm := some { m with stamp := (s.cpu (.col c)).lclk }, it := vfill 4 0, dirty := true }).ret d 0)

/-- `stop` (R245): a stream that has issued its last request is not stopped. -/
def execStop (d : BitVec 5) (k : BitVec 2) (e : BitVec 5) (s : State) : Out :=
  onColumn s fun c =>
    let r : CtxRef := ⟨c, fin 31 e.toNat, fin 3 k.toNat⟩
    match (s.ctx r).strm with
    | none => .ok (s.ret d allOnes64)
    | some m =>
      let cut (m : Stream) : Stream := { m with halt := .stopped, reqs := m.reqs.map fun q => { q with rest := [] } }
      let s := if m.allIssued then s else s.modCtx r fun x => { x with strm := some (cut m) }
      .ok (s.ret d (BitVec.ofNat 64 m.nElems))

/-- `armc` (R245). -/
def execArmc (d a : BitVec 5) (k : BitVec 2) (e : BitVec 5) (s : State) : Out :=
  onColumn s fun c => do
    let v := s.g a
    res0 v 63 32
    let r : CtxRef := ⟨c, fin 31 e.toNat, fin 3 k.toNat⟩
    let old := (s.ctx r).sect
    .ok ((s.modCtx r fun x => { x with sect := field v 0 32, dirty := true }).ret d (BitVec.setWidth 64 old))

/-! Injection (R246, R247). -/

/-- The injection port of the hosted stage sends a token to a port of its column: it takes a slot, and numbers the channel (R39, R246). -/
def State.inject (s : State) (p : PortRef) (t : Token) (at_ : Nat) : State :=
  let c := p.at_.col
  let k := (s.col c).drift.hosted
  let n := (((s.col c).injOrd.find? fun q => q.1 == p).map (·.2)).getD 0
  let s := s.modCol c fun x => (x.modInj k fun q => { q with free := q.free - 1, ord := (q.ord.filter fun y => y.1 != p) ++ [(p, n + 1)] }).chargeL 0 1
  { s with flights := s.flights ++ [⟨{ t with ord := n }, .port p, .inj c k, at_ + 1⟩] }

/-- The token that a header image and a payload make. -/
def imageToken (h : DWord) (marker : Bool) (payload : Vec) (taint : Bool) : Token :=
  { marker := marker, vch := field h 44 5, vchSet := true, sub := if marker then field h 36 4 else 0, taint := taint, sonde := none,
    bfirst := !marker && h.getLsbD 33, scale := if marker then 0 else field h 25 8, valid := if marker then 0 else field h 20 5,
    ord := 0, payload := payload }

/-- The port that a header image names, in a column. -/
def imagePort (c : ColId) (h : DWord) : PortRef := ⟨⟨c, fin 31 (bitsNat h 55 51), fin 3 (bitsNat h 43 42)⟩, fin 3 (bitsNat h 50 49)⟩

/-- The `res0` fields of a header image (R37, R246). -/
def imageOk (h : DWord) (marker : Bool) : Bool :=
  bitsNat h 63 56 == 0 && bitsNat h 41 40 == 0 && bitsNat h 35 34 == 0 && bitsNat h 19 0 == 0 &&
  (if marker then bitsNat h 33 20 == 0 else bitsNat h 39 36 == 0 && (h.getLsbD 33 || bitsNat h 32 25 == 0))

/-- A subtype that `injm` may inject. -/
def injSub (h : DWord) : Bool := let k := bitsNat h 39 36; k < 8 && k != 3

/-- Reads `n` records of 40 bytes: headers with payloads and their taint. -/
def State.readRecords (s : State) (c : ColId) (a : Nat) : Nat → List (DWord × Vec × Bool) × State
  | 0 => ([], s)
  | n + 1 =>
    let (h, t0, s) := s.nearWords (.col c) a 1
    let (ws, t, s) := s.nearWords (.col c) (a + 8) 4
    let (r, s) := s.readRecords c (a + 40) n
    ((wordAt h 0, vecOf ws, t || t0) :: r, s)

/-- Scroll markers wait for the injection port, so that nothing may pass them (R256). -/
def Column.injHeld (x : Column) : Bool := !x.drift.scrollq.isEmpty

/-- `inj` and `injm`. -/
def State.injectAll (s : State) (d a : BitVec 5) (n : Nat) (marker : Bool) : Out :=
  onColumn s fun c => do
    let v := s.g a
    s.structCause (.col c) v (40 * n) 8
    if s.structShut (.col c) v.toNat (5 * n) then .error .wait
    else
      let (rs, s) := s.readRecords c v.toNat n
      inRange (rs.all fun r => imageOk r.1 marker && (!marker || injSub r.1))
      if (s.col c).injFree < n || (s.col c).injHeld then .ok (s.ret d 1)
      else
        let s := (mapFrom (fun i r => (i, r)) 0 rs).foldl
          (fun s q => s.inject (imagePort c q.2.1) (imageToken q.2.1 marker q.2.2.1 q.2.2.2) (s.now + q.1)) s
        .ok (s.ret d 0)

/-- `inj`. -/
def execInj (d a : BitVec 5) (n : BitVec 4) (s : State) : Out := s.injectAll d a n.toNat false

/-- `injm`. -/
def execInjm (d a : BitVec 5) (n : BitVec 4) (s : State) : Out := s.injectAll d a n.toNat true

/-- `prime` (R247): a prime marker that carries n, then the n tokens. -/
def execPrime (d a : BitVec 5) (n : BitVec 3) (s : State) : Out :=
  onColumn s fun c => do
    let v := s.g a
    let k := n.toNat
    s.structCause (.col c) v (8 + 32 * k) 8
    if s.structShut (.col c) v.toNat (1 + 4 * k) then .error .wait
    else
      let (hw, _, s) := s.nearWords (.col c) v.toNat 1
      let h := wordAt hw 0
      inRange (imageOk h false)
      let p := imagePort c h
      let x := s.ctx p.at_
      let fb := match x.mergeWord with
        | some e => x.isLive s.now && portOf e.b == p.port
        | none => false
      inRange fb
      let c4 := x.c.get 4
      if bitsNat c4 15 0 ≤ bitsNat c4 31 16 + k then .error (.trap ⟨.primeLimit, none, BitVec.ofNat 64 (bitsNat c4 31 16)⟩)
      else if (s.col c).injFree < k + 1 || (s.col c).injHeld then .ok (s.ret d 1)
      else
        let s := s.inject p { markerToken 3 (BitVec.ofNat 256 k) with vch := field h 44 5 } s.now
        let place (s : State) (i : Nat) : State :=
          let (ws, t, s) := s.nearWords (.col c) (v.toNat + 8 + 32 * i) 4
          s.inject p (imageToken h false (vecOf ws) t) (s.now + 1 + i)
        let s := (upTo k).foldl place s
        let s := s.modCtx p.at_ fun x => { x with dirty := true, c := vmod x.c 4 fun c4 => putField c4 16 (BitVec.ofNat 16 (bitsNat c4 31 16 + k)) }
        .ok (s.ret d 0)

/-! Barriers (R248). -/

/-- Requests of a column that have not performed for `sys`, by context. -/
def State.openReqs (s : State) (c : ColId) : List (Nat × Nat) :=
  (upTo 128).flatMap fun i =>
    let r : CtxRef := ⟨c, fin 31 (i / 4), fin 3 (i % 4)⟩
    match (s.ctx r).strm with
    | none => []
    | some m => (m.reqs.filter fun q => !s.reqForSys r m q).map fun q => (i, q.idx)

/-- `barr`. -/
def execBarr (d : BitVec 5) (t : BitVec 8) (k : BitVec 1) (s : State) : Out :=
  onColumn s fun c =>
    let x := s.col c
    if x.barr.isSome then .ok (s.ret d 1)
    else
      let b : Barr :=
        { tag := t, band := k == 1#1, after := x.cpu.serial, stamp := x.cpu.lclk, seen := x.cpu.seen, reqs := s.openReqs c, jobs := x.jobs,
          drained := false, tainted := 0 }
      .ok ((s.modCol c fun x => { x with barr := some b }).ret d 0)

/-- A job ends, and a pending barrier that waits for it counts it when its data was tainted. -/
def State.endJobTaint (s : State) (c : ColId) (j : Nat) (taint : Bool) : State :=
  let count (b : Barr) : Barr := if taint && b.jobs.contains j then { b with tainted := b.tainted + 1 } else b
  (s.modCol c fun x => { x with barr := x.barr.map count }).endJob c j

/-- What a barrier of a column waits for has performed for `sys`, and its messages have landed. -/
def State.barrDrained (s : State) (c : ColId) (b : Barr) : Bool :=
  let x := s.col c
  let me : Sender := ⟨false, BitVec.ofNat 8 c.val⟩
  !(x.cpu.storeQ.any fun q => decide (q.serial ≤ b.after)) &&
  !((s.stack (stackOf c)).ord.any fun o => o.node == .col c && o.ag.isNone && decide (o.serial ≤ b.after)) &&
  !s.seenWaits (.col c) b.seen &&
  (b.reqs.all fun q =>
    let r : CtxRef := ⟨c, fin 31 (q.1 / 4), fin 3 (q.1 % 4)⟩
    match (s.ctx r).strm with
    | none => true
    | some m => m.reqs.all fun y => y.idx != q.2 || s.reqForSys r m y) &&
  (b.jobs.all fun j => !x.jobs.contains j) &&
  !(x.cpu.outq.any fun o => decide (o.msg.stamp.toNat ≤ b.stamp.toNat)) &&
  !(s.msgs.any fun m => m.msg.src == me && decide (m.msg.stamp.toNat ≤ b.stamp.toNat))

/-- The class-13 message of a barrier (R241); a band barrier's raises the clock past the participants' clocks at their `barr` (R419). -/
def State.barrDone (s : State) (c : ColId) (clock : Option (BitVec 48)) : State :=
  match (s.col c).barr with
  | none => s
  | some b =>
    let s := ((upTo 128).foldl (fun s i => s.pruneReqs ⟨c, fin 31 (i / 4), fin 3 (i % 4)⟩) s)
    let n := match (s.col c).barr with | some b => b.tainted | none => 0
    let g1 := b.tag.toNat * 2 ^ 8 + (if b.band then 2 ^ 16 else 0)
    (s.modCol c fun x => { x with barr := none }).selfQueue (.col c)
      (selfMsg (.col c) 13 (BitVec.ofNat 64 g1) (s.cyc (stackOf c)) (BitVec.ofNat 64 n) clock)

/-- `BARRIER_COMPLETE`: a column's barrier, or a band's once every slot has joined with the same tag and drained (R248). -/
def execBarrierComplete (c : ColId) (s : State) : Out :=
  match (s.col c).barr with
  | none => .next s
  | some b =>
    if !b.band then .next (if s.barrDrained c b then s.barrDone c none else s)
    else
      let cols := match s.taskOf c with | some t => t.cols | none => [c]
      let all := cols.all fun k => match (s.col k).barr with
        | some y => y.band && y.tag == b.tag && s.barrDrained k y
        | none => false
      let m := maxList (cols.map fun k => match (s.col k).barr with | some y => y.stamp.toNat | none => 0)
      .next (if all then cols.foldl (fun s k => s.barrDone k (some (BitVec.ofNat 48 m))) s else s)

/-! Gather points (R307). -/

/-- A gather point changed. -/
def State.modGather (s : State) (c : ColId) (i : Nat) (f : Gather → Gather) : State :=
  s.modCol c fun x => { x with gathers := modNth f i x.gathers }

/-- Where a token of a gather point goes: its destination, in the context that `tagctx` chose for it (R286, R304). -/
def Gather.port (g : Gather) (q : QTok) : PortRef := match q.tok.tag with | some t => { g.dest with at_ := { g.dest.at_ with ctx := t } } | none => g.dest

/-- A token of a gather point goes to its destination. -/
def State.gatherSend (s : State) (g : Gather) (q : QTok) : State :=
  let p := g.port q
  let s := s.modFree (.port p) (· - 1)
  { s with flights := s.flights ++ [⟨{ q.tok with tag := none }, .port p, .port p, s.now + 1⟩] }

/-- The first slot after `t`, in turn order, that holds a data token. -/
def Gather.later (held : List (Option QTok)) (t : Nat) : Option Nat :=
  let n := held.length
  let data (k : Nat) : Bool := match nth none held k with | some q => !q.tok.marker | none => false
  ((countFrom 1 (n - 1)).map fun i => (t + i) % n).find? data

/-- `GATHER_MOVE`. -/
def execGatherMove (c : ColId) (i : Nat) (s : State) : Out :=
  match (s.col c).gathers[i]? with
  | none => .next s
  | some g =>
    if g.stuck || s.now < g.next || !(match (s.col c).pre with | .none => true | _ => false) then .next s
    else
      let held := g.slots.map fun k => match k with
        | some (q, _) => if q.arr ≤ s.now then some q else none
        | none => none
      let at_ (k : Nat) : Option QTok := nth none held k
      let roomy (q : QTok) : Bool := decide (0 < s.freeOf (.port (g.port q)))
      let move (k : Nat) (q : QTok) (turn : Nat) : State := if !roomy q then s else
        ((s.gatherSend g q).modGather c i fun g => { g with slots := modNth (fun _ => none) k g.slots, turn := turn, next := s.now + 1 }).credit q.cred s.now
      match at_ g.turn with
      | none => .next s
      | some q =>
        if !q.tok.marker then .next (move g.turn q ((g.turn + 1) % g.slots.length))
        else
          let all := held.filterMap id
          let markers := all.length == g.slots.length && all.all fun x => x.tok.marker
          if markers && all.all (fun x => x.tok.sameMarker q.tok) then
            if !roomy q then .next s else
            let s := (s.gatherSend g q).modGather c i fun g => { g with slots := g.slots.map fun _ => none, turn := 0, next := s.now + 1 }
            .next (all.foldl (fun s x => s.credit x.cred s.now) s)
          else if markers then
            let other := (all.find? fun x => !x.tok.sameMarker q.tok).map fun x => x.tok.sub.toNat
            .next ((s.modGather c i fun g => { g with stuck := true }).unitFault c .markerMismatch g.dest.at_.elem.val g.dest.at_.ctx.val
              (BitVec.ofNat 64 (q.tok.sub.toNat + other.getD 0 * 16)))
          else match Gather.later held g.turn with
            | some k => match at_ k with
              | some x => .next (move k x g.turn)
              | none => .next s
            | none => .next s

/-! Corner turns (R309). -/

/-- Lane `j` of a token in lanes of width `w`, zero above VALID. -/
def turnLane (w j : Nat) (t : Token) : Nat := if j ≤ t.valid.toNat then laneOf t.payload.toNat w j else 0

/-- The data tokens at the head of a buffer that make up its open block: at most n, and none behind a marker. -/
def Turn.lead (t : Turn) : List QTok := (t.inq.takeWhile fun q => !q.tok.marker).take (2 ^ t.k)

/-- The open block is complete: n tokens, or fewer with a marker behind them (R309). -/
def Turn.ready (t : Turn) : Bool := !t.lead.isEmpty && (t.lead.length == 2 ^ t.k || decide (t.lead.length < t.inq.length))

/-- The tokens that the open block gives; what `tagctx` chose for input token 0 goes for the block (assumption log 77). -/
def Turn.block (t : Turn) : List Token :=
  let ins := t.lead.map (·.tok)
  let n := 2 ^ t.k
  let taint := ins.any (·.taint)
  match ins with
  | [] => []
  | t0 :: _ => (upTo n).map fun j =>
    { t0 with payload := BitVec.ofNat 256 (packLanes t.w (ins.map (turnLane t.w j))), valid := BitVec.ofNat 5 (ins.length - 1), taint := taint,
              sonde := none, bfirst := j == 0 && t0.bfirst, scale := if j = 0 then t0.scale else 0, ord := t0.ord + BitVec.ofNat 20 j }

/-- A corner-turn buffer changed. -/
def State.modTurn (s : State) (c : ColId) (k : Fin 4) (f : Turn → Turn) : State := s.modCol c fun x => { x with turns := vmod x.turns k f }

/-- The buffer forms the block that is complete at its head: its tokens end there, and its output tokens wait to be sent. -/
def State.turnBlock (s : State) (c : ColId) (k : Fin 4) : State :=
  let t := (s.col c).turns.get k
  if !t.out.isEmpty || !t.ready then s
  else
    let l := t.lead
    let s := s.modTurn c k fun y => { y with inq := y.inq.drop l.length, out := y.block, blk := l.length, ends := decide (l.length < 2 ^ y.k) }
    l.foldl (fun s q => s.endTokSonde q.tok 1) s

/-- Credits of a buffer return (R50). -/
def State.turnCredits (s : State) (c : ColId) (k : Fin 4) (n : Nat) : State := iter (fun s => s.credit (.turn c k) s.now) n s

/-- `CTURN_EMIT`: the next output token of a block leaves, and with the last one every credit of the block returns; or a marker with no block before it, which takes its one credit back (R309). -/
def execCturnEmit (c : ColId) (k : Fin 4) (s : State) : Out :=
  match ((s.col c).turns.get k).owner with
  | none => .next s
  | some p =>
    if s.now < ((s.col c).turns.get k).due then .next s
    else
      let s := s.turnBlock c k
      let t := (s.col c).turns.get k
      let h := (turnRoute ((s.ctx p.at_).routes.get p.port)).head
      let fits (o : Token) : Bool := decide (0 < s.headFree c p.at_.elem p.at_.ctx p.port h o.tag.toList)
      match t.out, t.inq with
      | o :: os, _ =>
        if !fits o then .next s
        else
          let s := (s.sendHead p.at_ p.port h o.tag o s.now).modTurn c k fun y => { y with out := os, due := s.now + 1 }
          .next (if os.isEmpty then (s.turnCredits c k (t.blk + if t.ends then t.cut else 0)).modTurn c k fun y => { y with cut := 0 } else s)
      | [], q :: r =>
        if !q.tok.marker || !fits q.tok then .next s
        else
          let s := (s.sendHead p.at_ p.port h none q.tok s.now).modTurn c k fun y => { y with inq := r, ends := false, due := s.now + 1 }
          .next (if t.ends then s else s.turnCredits c k 1)
      | [], [] => .next s

end Sys2Proof.Machine
end

