-- ==== Sys2Proof/Machine/Transfers.lean ====
section
/-! DEFINITION. Transfer engines: parameter blocks (R125 to R127), request packets (R128), and the forms `xfer` and `xqry` (R257). -/

namespace Sys2Proof.Machine

/-! Messages of engines. -/

/-- A one-token message of an engine hart to a column of a task (R35, R127): it leaves at once, or is held with a task that is not running, or is dropped and counted with a task that has ended; none while no entry is free for it. The hart's clock rises by one and stamps it (R419). -/
def State.engineMsg (s : State) (h : HartId) (task : BitVec 16) (c : ColId) (cls : BitVec 5) (g1 g2 g3 : DWord)
    (handler : Option (BitVec 15 × BitVec 16)) : Option State :=
  let n := Node.hart h
  let u := s.cpu n
  let m : Msg :=
    { src := n.sender, cls := cls, sub := 0, seq := 0, len := 0, comp := false, dslot := 0, words := [g1, g2, g3, 0], taint := false,
      stamp := u.lclk + 1, handler := handler, task := task }
  let (m, u') := { u with lclk := u.lclk + 1 }.pack m false (.col c)
  let s1 := s.modCpu n fun _ => u'
  match s.task? task with
  | none => some (s.dropMsg (.col c))
  | some t =>
    if t.st == .ended then some (s.dropMsg (.col c))
    else if t.spills then s1.spillMsg t ((indexOf? (· == c) t.cols).getD 0) m
    else if (s.cpu (.col c)).pendCount < 64 then some (s1.launch (.col c) m 1)
    else none

/-! Parameter blocks (R125). -/

/-- Word `i` of a block. -/
def Xfer.w (x : Xfer) (i : Nat) : DWord := wordAt x.b i

/-- One side of a transfer: its space, band slot, address, strides of dimensions 1 to 3, and format. -/
structure Side where
  space : Nat
  slot : Nat
  addr : Nat
  s1 : Int
  s2 : Int
  s3 : Int
  fmt : Nat
  deriving DecidableEq, Repr

def Xfer.src (x : Xfer) : Side :=
  ⟨bitsNat (x.w 0) 55 54, bitsNat (x.w 0) 63 56, bitsNat (x.w 0) 47 0, signedNat 24 (bitsNat (x.w 3) 23 0), signedNat 24 (bitsNat (x.w 3) 47 24),
   signedNat 24 (bitsNat (x.w 5) 23 0), bitsNat (x.w 3) 51 48⟩
def Xfer.dst (x : Xfer) : Side :=
  ⟨bitsNat (x.w 1) 55 54, bitsNat (x.w 1) 63 56, bitsNat (x.w 1) 47 0, signedNat 24 (bitsNat (x.w 4) 23 0), signedNat 24 (bitsNat (x.w 4) 47 24),
   signedNat 24 (bitsNat (x.w 5) 47 24), bitsNat (x.w 3) 55 52⟩
/-- CNT of a dimension; 0 means 65,536 (R119). -/
def Xfer.cnt (x : Xfer) (k : Nat) : Nat := let c := bitsNat (x.w 2) (16 * k + 15) (16 * k); if c = 0 then 65536 else c
def Xfer.total (x : Xfer) : Nat := x.cnt 0 * x.cnt 1 * x.cnt 2 * x.cnt 3
def Xfer.trf (x : Xfer) : Nat := bitsNat (x.w 3) 61 59
def Xfer.sat (x : Xfer) : Bool := (x.w 3).getLsbD 58
def Xfer.rnd (x : Xfer) : Nat := bitsNat (x.w 3) 57 56
def Xfer.bcls (x : Xfer) : Nat := bitsNat (x.w 4) 50 48
def Xfer.xid (x : Xfer) : BitVec 16 := field (x.w 5) 48 16
/-- BND and ORG of dimension 0 or 1. -/
def Xfer.bnd (x : Xfer) (k : Nat) : Nat := bitsNat (x.w 6) (16 * k + 47) (16 * k + 32)
def Xfer.org (x : Xfer) (k : Nat) : Int := signedNat 16 (bitsNat (x.w 6) (16 * k + 15) (16 * k))
def Xfer.cnode (x : Xfer) : Nat := bitsNat (x.w 7) 63 52
def Xfer.ccls (x : Xfer) : Nat := bitsNat (x.w 7) 51 47
def Xfer.haddr (x : Xfer) : BitVec 15 := field (x.w 7) 32 15
def Xfer.seed (x : Xfer) : Word := field (x.w 7) 0 32

/-- The column that a transfer works for: the one that executed `xfer`, or whose graph or packet it is. -/
def Xfer.col (x : Xfer) : ColId := match x.from_, x.node with | some c, _ => c | none, some (c, _) => c | none, none => 0

/-- A side lies in a column. -/
def Side.inCol (d : Side) : Bool := d.space == 0 || d.space == 1

/-- A packed format's run is a whole number of groups. -/
def wholeGroups (fmt cnt : Nat) : Bool := if fmt = 12 then cnt % 2 == 0 else if fmt = 11 then cnt % 4 == 0 else true

/-- A side is one that R125 admits in a band of `b` slots. -/
def Side.ok (d : Side) (b cnt0 : Nat) : Bool :=
  d.space != 3 && decide (d.fmt ≤ 12) && (!d.inCol || decide (d.slot < b)) && wholeGroups d.fmt cnt0

/-- The block is not refused (R125). -/
def Xfer.ok (x : Xfer) (b : Nat) : Bool :=
  bitsNat (x.w 0) 53 48 == 0 && bitsNat (x.w 1) 53 48 == 0 && bitsNat (x.w 3) 63 62 == 0 && bitsNat (x.w 4) 63 51 == 0 &&
  decide (x.trf ≤ 1) && (decide (x.ccls ≤ 12) || x.ccls == 31) && x.src.ok b (x.cnt 0) && x.dst.ok b (x.cnt 0)

/-- The indices of element `k` in transfer order. -/
def Xfer.index (x : Xfer) (k : Nat) : Nat × Nat × Nat × Nat :=
  (k % x.cnt 0, k / x.cnt 0 % x.cnt 1, k / (x.cnt 0 * x.cnt 1) % x.cnt 2, k / (x.cnt 0 * x.cnt 1 * x.cnt 2))

/-- An element is in bounds (R126). -/
def Xfer.inBounds (x : Xfer) (i0 i1 : Nat) : Bool :=
  let ok (k i : Nat) : Bool := x.bnd k == 0 || (decide (0 ≤ x.org k + i) && decide (x.org k + i < x.bnd k))
  ok 0 i0 && ok 1 i1

/-- Where an element starts in a contiguous run: the base and the element's offset, in elements for a packed format and in bytes else. -/
def runOffset (fmt i : Nat) : Int := if fmt = 11 || fmt = 12 then i else i * (laneW fmt / 8 : Nat)

/-- An element's place on a side; `along` runs along the contiguous dimension and `across` along the first stride. -/
def Side.elem (d : Side) (along across i2 i3 : Nat) : Int × Nat × Nat :=
  elemBytes d.fmt (d.addr + across * d.s1 + i2 * d.s2 + i3 * d.s3, runOffset d.fmt along)

/-! Where a byte of a side lies. -/

/-- The engine hart of a transfer engine. -/
def teHart (k : StackId) (t : TeId) : HartId := fin 42 (8 * k.val + t.val)

/-- A transfer engine replaced through `f`. -/
def State.modTe (s : State) (k : StackId) (t : TeId) (f : Te → Te) : State := s.modStack k fun x => { x with te := vmod x.te t f }
/-- The transfer an engine moves replaced through `f`. -/
def State.modMoving (s : State) (k : StackId) (t : TeId) (f : Moving → Moving) : State := s.modTe k t fun e => { e with cur := e.cur.map f }

/-- The address space of a task, and its partition. -/
def State.taskSpace (s : State) (id : BitVec 16) : DWord × PartId :=
  match s.task? id with
  | some t => ((match t.place with | some p => p.ptb | none => 0), t.part)
  | none => (0, 0)

/-- Column of a slot of a task. -/
def State.slotOf (s : State) (task : BitVec 16) (slot : Nat) : Option ColId :=
  match s.task? task with | some t => t.cols[slot]? | none => none

/-- Where the word that holds byte `a` of a side lies: location, single assignment, taint of the page. -/
def State.sideLoc (s : State) (k : StackId) (t : TeId) (x : Xfer) (d : Side) (write : Bool) (a : Int) :
    Except EStop (Loc × Bool × Bool) × State :=
  if a < 0 then (.error .fault, s)
  else
    let n := a.toNat
    match d.space, s.slotOf x.task d.slot with
    | 0, some c =>
      if ((s.col c).nearCause n).isSome then (.error .fault, s)
      else (.ok (⟨.near, c, (s.col c).nearPhys (n / 8 * 8)⟩, (s.col c).nearSa n, false), s)
    | 1, some c =>
      if 2 ^ 28 ≤ n then (.error .fault, s)
      else match vertDecode (n / 8 * 8) with
        | some p => (.ok (⟨.vert, c, p⟩, false, false), s)
        | none => (.error .fault, s)
    | 2, _ =>
      let (ptb, p) := s.taskSpace x.task
      match s.engineVa k (.te t) ptb p n write with
      | (.error e, s) => (.error e, s)
      | (.ok (pa, disc, taint), s) => (.ok (⟨.dev, 0, pa / 8 * 8⟩, disc == .sa, taint), s)
    | _, _ => (.error .fault, s)

/-- Reads the word that holds byte `a` of a side: its value and taint, and the burst used (R117, R351, R354). -/
def State.sideRead (s : State) (k : StackId) (t : TeId) (x : Xfer) (cls : Nat) (d : Side) (a : Int) (last : Option Nat) :
    Except EStop (DWord × Bool × Option Nat) × State :=
  match s.sideLoc k t x d false a with
  | (.error e, s) => (.error e, s)
  | (.ok (l, sa, pt), s) =>
    if s.asleep l then (.error .wait, s.wakeFor l)
    else match s.access l with
    | .shut => (.error .wait, s)
    | .foreign => (.ok (0, true, last), s)
    | .open_ =>
      if sa && (s.presence l).isNone then (.error (.defer l), s)
      else match s.admitBurst .stream (s.taskSpace x.task).2 cls l last with
        | none => (.error .wait, s)
        | some (last, s) => let ((v, tn), s) := s.readLoc (some k) sa l; (.ok (v, tn || pt, last), s.noteSeen (.hart (teHart k t)) l)

/-- Reads `n` bytes of a side from byte `a`, word by word. -/
def State.sideBytes (s : State) (k : StackId) (t : TeId) (x : Xfer) (cls : Nat) (d : Side) (a : Int) (n : Nat) (last : Option Nat) :
    Except EStop (List Byte × Bool × Option Nat) × State :=
  let first := (a % 8).toNat
  let words := (first + n + 7) / 8
  let step (q : Except EStop (List Byte × Bool × Option Nat) × State) (i : Nat) : Except EStop (List Byte × Bool × Option Nat) × State :=
    match q with
    | (.error e, s) => (.error e, s)
    | (.ok (bs, tn, last), s) =>
      match s.sideRead k t x cls d (if i = 0 then a else a / 8 * 8 + 8 * i) last with
      | (.error e, s) => (.error e, s)
      | (.ok (v, t', last), s) => (.ok (bs ++ leBytes 8 v.toNat, tn || t', last), s)
  match (upTo words).foldl step (.ok ([], false, last), s) with
  | (.error e, s) => (.error e, s)
  | (.ok (bs, tn, last), s) => (.ok ((bs.drop first).take n, tn, last), s)

/-! Moving (R126, R127, R138). -/

/-- Puts a byte's bits among those to be written; of two elements that have a bit in common the later one writes it (R136). -/
def addPut (ps : List Put) (p : Put) : List Put :=
  let join (q : Put) : Put := { q with mask := q.mask ||| p.mask, data := (q.data &&& (255 - p.mask)) ||| p.data, taint := q.taint || p.taint }
  if ps.any fun q => q.a == p.a then ps.map fun q => if q.a = p.a then join q else q else ps ++ [p]

/-- An element in bounds extends the box of R126. -/
def growBox (b : Option (Nat × Nat × Nat × Nat)) (i0 i1 : Nat) : Option (Nat × Nat × Nat × Nat) :=
  match b with
  | none => some (i0, i0, i1, i1)
  | some (a, b, c, d) => some (Nat.min a i0, Nat.max b i0, Nat.min c i1, Nat.max d i1)

/-- A code of one format as a code of another (R89, R127), and the LFSR after it. -/
def Xfer.convert (x : Xfer) (code : Nat) (lfsr : Word) : Nat × Word :=
  let (f, g) := (x.src.fmt, x.dst.fmt)
  if f = g then (code, lfsr)
  else
    let sr := x.rnd = 3
    ((cvtTo g (rmOf x.rnd (lfsrDraw lfsr)) x.sat (valOf f (laneCode f code))).1, if sr then lfsrNext lfsr else lfsr)

/-- The bytes that an element writes: its code at its place on the destination side. -/
def Xfer.puts (x : Xfer) (i : Nat × Nat × Nat × Nat) (code : Nat) (taint : Bool) : List Put :=
  let (db, dn, dsh) := x.dst.elem (if x.trf = 1 then i.2.1 else i.1) (if x.trf = 1 then i.1 else i.2.1) i.2.2.1 i.2.2.2
  let w := memW x.dst.fmt
  let part (v j : Nat) : Nat := v * 2 ^ dsh / 2 ^ (8 * j) % 256
  (upTo dn).map fun (j : Nat) => ⟨db + j, part (2 ^ w - 1) j, part (code % 2 ^ w) j, taint⟩

/-- The first word of the bytes to be written takes no more: the next element belongs to another run of dimension 0 or begins in another word, or the last one has reached into the word after it (R118). `i` are the next element's indices. -/
def Moving.wordFull (m : Moving) (i : Nat × Nat × Nat × Nat) : Bool :=
  match m.part with
  | [] => false
  | p :: ps => i.1 == 0 || (ps.any fun q => q.a / 8 != p.a / 8) ||
      (match m.x.puts i 0 false with | q :: _ => q.a / 8 != p.a / 8 | [] => false)

/-- Takes elements from the next one on, until a word is complete, and at most `n` of them: the moving as it will stand, and why it goes no further. An element out of bounds draws no value of the LFSR (assumption log 80). -/
def State.takeElems (s : State) (k : StackId) (t : TeId) (m : Moving) : Nat → (Moving × Option EStop) × State
  | 0 => ((m, some .wait), s)
  | n + 1 =>
    let x := m.x
    let i := x.index m.next
    if m.total ≤ m.next || (!m.part.isEmpty && i.1 == 0) then ((m, none), s)
    else if !x.inBounds i.1 i.2.1 then s.takeElems k t { m with next := m.next + 1, clipped := m.clipped + 1 } n
    else if m.wordFull i then ((m, none), s)
    else
      let (sb, sn, ssh) := x.src.elem i.1 i.2.1 i.2.2.1 i.2.2.2
      match s.sideBytes k t x x.bcls x.src sb sn m.lastR with
      | (.error e, s) => ((m, some e), s)
      | (.ok (bs, tn, last), s) =>
        let (code, lf) := x.convert (leNat bs / 2 ^ ssh % 2 ^ memW x.src.fmt) m.lfsr
        let m := { m with next := m.next + 1, lfsr := lf, box := growBox m.box i.1 i.2.1, taint := m.taint || tn, lastR := last,
                          part := (x.puts i code tn).foldl addPut m.part }
        s.takeElems k t m n

/-- Mask and data of the bytes of one word. -/
def putWord (ps : List Put) : DWord × DWord :=
  ps.foldl (fun (q : DWord × DWord) p =>
    (q.1 ||| atByte (p.a % 8).toNat p.mask, q.2 ||| atByte (p.a % 8).toNat p.data)) (0, 0)

/-- Bits set in a byte. -/
def onesOf (n : Nat) : Nat := sumList ((upTo 8).map fun i => n / 2 ^ i % 2)

/-- Writes bytes of one word of the destination at its bank or channel: true for a fault (R116, R118, R351). A store at a closed or foreign target is dropped, and the transfer then ends with status 2. -/
def State.putAt (s : State) (k : StackId) (x : Xfer) (mask data : DWord) (l : Loc) (sa taint : Bool) : Bool × State :=
  match s.access l with
  | .shut | .foreign => (true, s.countDropped)
  | .open_ =>
    match (if l.space == .dev then sinkStack? l.addr else none) with
    | some _ => (false, s.modHub fun h => h.count32 (partReg (s.taskSpace x.task).2 0x260) 1)
    | none =>
      let bytes := bytesOf mask
      let v := keepBits (s.storedWord k l) data mask
      if sa then s.fillSa l bytes (data &&& mask) taint
      else
        let s := if l.space == .dev then s.flushOrd fun o => o.pa / 8 == l.addr / 8 else s
        (false, s.writeLoc l bytes v)

/-- A transfer may move: its task runs, or it lies between device addresses and the task has not ended (R370). -/
def State.xferRuns (s : State) (x : Xfer) : Bool :=
  s.hub.pwr == .run &&
  match s.task? x.task with
  | none => false
  | some t => t.st == .running || (!x.src.inCol && !x.dst.inCol && x.reply.isNone && t.st != .ended)

/-- Records why an engine goes no further. A seventeenth deferred read of a bank or channel stalls here, without an entry there (R117). -/
def State.teStop (s : State) (k : StackId) (t : TeId) (x : Xfer) : EStop → State
  | .fault => s.modMoving k t fun m => { m with fault := true, part := [] }
  | .wait => s
  | .defer l =>
    let full := decide (16 ≤ s.deferCount l)
    s.modMoving k t fun m => if m.deferred = some l && !m.stalled then m else { m with deferred := some l, stalled := full }
  | .page va bad =>
    let (ptb, p) := s.taskSpace x.task
    (s.modMoving k t fun m => { m with paused := some va }).enginePage (teHart k t) p ptb va bad 1

/-- A stalled engine waits until an entry of its bank or channel frees (R117). -/
def State.entryFull (s : State) (d : Option Loc) (stalled : Bool) : Bool :=
  stalled && match d with | some l => decide (16 ≤ s.deferCount l) | none => false

/-- The first word of the bytes to be written is written at its place, with the taint of its own bytes. -/
def State.writeWord (s : State) (k : StackId) (t : TeId) (m : Moving) (p : Put) : State :=
  let x := m.x
  let (mine, rest) := m.part.partition fun q => q.a / 8 == p.a / 8
  match s.sideLoc k t x x.dst true p.a with
  | (.error e, s) => s.teStop k t x e
  | (.ok (l, sa, pt), s) =>
    if s.asleep l then s.wakeFor l
    else match s.admitBurst .stream (s.taskSpace x.task).2 x.bcls l m.lastW with
      | none => s
      | some (last, s) =>
        let (mask, data) := putWord mine
        let (bad, s) := s.putAt k x mask data l sa (mine.any (·.taint) || pt)
        s.modMoving k t fun m => { m with part := rest, written := m.written + sumList (mine.map fun q => onesOf q.mask), fault := bad, lastW := last }

/-- A transfer moves on: elements are read until a word of the destination is complete, and that word is written (R118, R126, R127). What an engine had read before a fault is written first. -/
def State.moveElems (s : State) (k : StackId) (t : TeId) : State :=
  match ((s.stack k).te.get t).cur with
  | none => s
  | some m =>
    let x := m.x
    if x.reply.isSome || m.fault || m.paused.isSome || !s.xferRuns x || s.entryFull m.deferred m.stalled then s
    else
      let ((m', stop), s) := s.takeElems k t m 64
      let got (s : State) : State := s.modMoving k t fun m => { m' with deferred := m.deferred, stalled := m.stalled }
      let gone (s : State) : State := s.modMoving k t fun _ => { m' with deferred := none, stalled := false }
      match stop, m'.part with
      | some .fault, p :: _ => (gone s).writeWord k t m' p
      | some e, _ => (got s).teStop k t x e
      | none, [] => gone s
      | none, p :: _ => (gone s).writeWord k t m' p

/-! Starting and completing (R125 to R127). -/

/-- The moving of a block, before its first element. -/
def Xfer.moving (x : Xfer) : Moving :=
  { x := x, next := 0, total := x.total, lfsr := seedLoad x.seed, clipped := 0, box := none, written := 0, taint := false, fault := false,
    paused := none, deferred := none, stalled := false, part := [], lanes := [], ord := 0, clipSent := false, lastR := none, lastW := none }

/-- Sends a transfer's completion, where it has a class; none while it must wait. -/
def State.xferReport (s : State) (k : StackId) (t : TeId) (x : Xfer) (status bytes clipped : Nat) : Option State :=
  if x.ccls = 31 || 13 ≤ x.ccls then some s
  else s.engineMsg (teHart k t) x.task x.col (BitVec.ofNat 5 x.ccls) (BitVec.ofNat 64 status) (BitVec.ofNat 64 bytes) (BitVec.ofNat 64 clipped)
    (some (x.haddr, x.xid))

/-- The running graph of a column replaced through `f`. -/
def State.modGraph (s : State) (c : ColId) (f : Graph → Graph) : State :=
  s.modStack (stackOf c) fun k => { k with graphs := k.graphs.map fun g => if g.col = c && g.ended.isNone then f g else g }

/-- Marks the copy node of a transfer as failed (R125, R130). -/
def State.failNode (s : State) (x : Xfer) : State :=
  match x.node with
  | none => s
  | some (c, j, i) => s.modGraph c fun g => if g.id = j then { g with nodes := modNth (fun n => { n with bad := true }) i g.nodes } else g

/-- An engine starts an item stamped `v` (R419). -/
def State.engineStart (s : State) (h : HartId) (v : BitVec 48) : State := s.modCpu (.hart h) fun u => { u with lclk := lamport u.lclk (some v) }

/-- Number of slots of a task's band. -/
def State.bandOfTask (s : State) (id : BitVec 16) : Nat := match s.task? id with | some t => t.cols.length | none => 0

/-- `TRANSFER_START` (R125): the engine takes its oldest block; a refused one ends with status 1. A partition whose engine weight is 0 is refused (R348). -/
def execTransferStart (k : StackId) (t : TeId) (s : State) : Out :=
  let e := (s.stack k).te.get t
  match e.cur, e.q with
  | none, x :: rest =>
    if s.hub.pwr != .run then .next s
    else
      let p := (s.taskSpace x.task).2
      let s1 := (s.modTe k t fun e => { e with q := rest }).engineStart (teHart k t) x.stamp
      if x.ok (s.bandOfTask x.task) && s.hub.engWeight p 0 != 0 then .next (s1.modTe k t fun e => { e with cur := some x.moving })
      else match s1.xferReport k t x 1 0 0 with
        | some s => .next ((s.failNode x).endJob x.col x.job)
        | none => .next s
  | _, _ => .next s

/-- Contents of the class-14 message of a clipped transfer (R126). -/
def Moving.clipG1 (m : Moving) : DWord :=
  match m.box with
  | none => BitVec.allOnes 64
  | some (a, b, c, d) => BitVec.ofNat 64 (a % 65536 + b % 65536 * 2 ^ 16 + c % 65536 * 2 ^ 32 + d % 65536 * 2 ^ 48)

end Sys2Proof.Machine
end

