-- ==== Sys2Proof/Machine/Spill.lean ====
section
/-! DEFINITION. The spill engine: the ring of held messages (R386, R387) and their delivery (R35, R369). -/

namespace Sys2Proof.Machine

/-- The spill engine's hart. -/
def spillHart : HartId := 42

/-- A spill record (R386). -/
def spillRecord (m : Msg) : List Byte :=
  let w := m.cls.toNat + m.sub.toNat * 2 ^ 5 + m.len.toNat * 2 ^ 9 + m.src.id.toNat * 2 ^ 12 + (if m.src.snc then 2 ^ 20 else 0) +
    m.seq.toNat * 2 ^ 21 + (if m.handler.isSome then 2 ^ 33 else 0)
  leBytes 8 w ++ leBytes 8 m.stamp.toNat ++ List.replicate 48 0 ++ (wordsBytes m.words ++ List.replicate 256 0).take 256

/-- Writes whole words at virtual addresses of a task, charged to a class; an error where a page is not present, with the address. -/
def State.putSpace (cls : Nat) (s : State) (ptb : DWord) (p : PartId) (va : Nat) : List DWord → Except (Nat × Trans) State
  | [] => .ok s
  | w :: r =>
    match s.translate none 0 ptb p va true with
    | (.ok pa _ _, s) =>
      let s := s.modHub fun h => h.writeChannel (pa / 8) 0xFF#8 w
      (s.modHub fun h => h.charge (h.meterOf pa) p cls (if pa % 64 = 0 then 1 else 0)).putSpace cls ptb p (va + 8) r
    | (t, _) => .error (va, t)

/-- Writes whole words of a spill area, of class 4 (R352). -/
def State.spillPut (s : State) (ptb : DWord) (p : PartId) (va : Nat) (ws : List DWord) : Except (Nat × Trans) State := s.putSpace 4 ptb p va ws

/-- Bytes as 8-byte words. -/
def dwords (bs : List Byte) : List DWord := (chunks 8 (bs.length / 8) bs).map fun b => BitVec.ofNat 64 (leNat b)

/-- The header of a task's spill area: HEAD, TAIL and the count delivered (R386). -/
def Task.spillHeader (t : Task) (delivered written : Nat) : List DWord :=
  let cap := Nat.max t.spillCap 1
  [BitVec.ofNat 64 (delivered % cap + (delivered + written) % cap * 2 ^ 32), BitVec.ofNat 64 delivered]

/-- The spill engine stops for a task at a page that is absent, with event 4, or at a bad entry (R373, R387); a page in transit defers it. -/
def State.spillHalt (s : State) (t : Task) (ptb : DWord) (va : Nat) (w : Trans) : State :=
  match w with
  | .page .absent =>
    let s := s.modTask t.id fun t => { t with spillStop := some va }
    s.sysEvent t.part 4 (sourceNo (.hart spillHart)) (leBytes 8 va ++ leBytes 8 (bitsNat ptb 63 48 + 2 * 2 ^ 24))
  | .bad | .outside => (s.modTask t.id fun t => { t with spillStop := some va }).enginePage spillHart t.part ptb va true 2
  | .page st => s.demand st ptb t.part va
  | .ok _ _ _ => s

/-- `SPILL_RECORD_WRITE` (R386): the first held message of a task that is not yet in the ring is written there. -/
def execSpillRecordWrite (task : BitVec 16) (i : Nat) (s : State) : Out :=
  match s.task? task with
  | none => .next s
  | some t =>
    match t.spill[i]? with
    | none => .next s
    | some q =>
      let (ptb, p) := s.taskSpace task
      let before := (t.spill.take i).all fun q => q.written
      let admitted := s.hub.admits 24 p 4 && s.hub.engWeight p 5 != 0
      if q.written || !before || t.spillStop.isSome || !admitted || t.spillCap = 0 then .next s
      else
        let at_ := t.spillAt + 64 + (t.delivered + i) % t.spillCap * 320
        match s.spillPut ptb p at_ (dwords (spillRecord q.msg)) with
        | .error (va, w) => .next (s.spillHalt t ptb va w)
        | .ok s1 =>
          match s1.spillPut ptb p t.spillAt (t.spillHeader t.delivered (i + 1)) with
          | .error (va, w) => .next (s.spillHalt t ptb va w)
          | .ok s2 => .next (s2.modTask task fun t => { t with spill := modNth (fun q => { q with written := true }) i t.spill })

/-- The oldest held message of a running task goes to its column (R35, R369). -/
def State.deliverSpill (s : State) (task : BitVec 16) : State :=
  match s.task? task with
  | none => s
  | some t =>
    match t.spill with
    | [] => s
    | q :: r =>
      let (ptb, p) := s.taskSpace task
      if t.st != .running || !q.written || t.spillStop.isSome then s
      else match t.cols[q.slot]? with
        | none => s
        | some c =>
          if q.msg.needsEntry && 64 ≤ (s.cpu (.col c)).pendCount then s
          else match s.spillPut ptb p t.spillAt (t.spillHeader (t.delivered + 1) (r.filter fun q => q.written).length) with
            | .error (va, w) => s.spillHalt t ptb va w
            | .ok s1 => (s1.modTask task fun t => { t with spill := r, spillFull := false, delivered := t.delivered + 1 }).launch (.col c) q.msg 1

/-- `MESSAGE_DEPART` (R19, R35, R237): a message leaves a node's outbound queue. The spill engine has no such queue of 16 entries to depart from beyond its own: its index 16 + i delivers the oldest message held for task i. -/
def execMessageDepart (n : Node) (i : Nat) (s : State) : Out :=
  match n with
  | .hart h => if h = spillHart ∧ 16 ≤ i then .next (if s.hub.pwr == .run then s.deliverSpill (BitVec.ofNat 16 (i - 16)) else s) else departQueued n i s
  | .col _ => departQueued n i s

end Sys2Proof.Machine
end

