-- ==== Sys2Proof/Machine/Berths.lean ====
section
/-! DEFINITION. Berths: the raw image of a stage (R68, R69), its granule coder (R67, R134), dirty granules (R70), and reading and writing a berth in a shelf. -/

namespace Sys2Proof.Machine

/-! The granule coder (R67, R134). -/

/-- One word of a granule coded after `prev`. -/
def codeWord (prev w : DWord) : List Bool :=
  if w = 0 then [false, false] else if w = prev then [true, true] else [false, true] ++ bitsOf 64 w.toNat

/-- The words of a granule coded in order. -/
def codeWords (prev : DWord) : List DWord → List Bool
  | [] => []
  | w :: ws => codeWord prev w ++ codeWords w ws

/-- Bytes of a bit string, the last one filled with zeros. -/
def bitBytes (bs : List Bool) : List Byte := (upTo (ceilDiv bs.length 8)).map fun i => BitVec.ofNat 8 (natOfBits ((bs.drop (8 * i)).take 8))

/-- The words of bytes. -/
def bytesWords (bs : List Byte) : List DWord := (chunks 8 (ceilDiv bs.length 8) bs).map fun c => BitVec.ofNat 64 (leNat c)

/-- A frame: a raw granule of 512 bytes coded. -/
def codeGranule (raw : List Byte) : List Byte := bitBytes (codeWords 0 (bytesWords raw))

/-- `n` words decoded; a stray tag 01 reads as zero. -/
def decodeWords (prev : DWord) : Nat → List Bool → List DWord
  | 0, _ => []
  | n + 1, bs =>
    match natOfBits (bs.take 2) with
    | 2 => let w : DWord := BitVec.ofNat 64 (natOfBits ((bs.drop 2).take 64)); w :: decodeWords w n (bs.drop 66)
    | 3 => prev :: decodeWords prev n (bs.drop 2)
    | _ => 0 :: decodeWords 0 n (bs.drop 2)

/-- The raw granule that a frame holds. -/
def decodeGranule (coded : List Byte) : List Byte := wordsBytes (decodeWords 0 64 (coded.flatMap fun b => bitsOf 8 b.toNat))

/-! A stage in a column. -/

/-- Where a stage's content lies: the registers, the first physical byte of its window, its contexts, its frost rows, and its half of the tables. -/
structure StageView where
  /-- the hosted stage; false: the one in the staging buffer, the other window and the partners -/
  hosted : Bool
  window : Nat
  half : Nat
  deriving DecidableEq, Repr

/-- Position of a stage in its slot's hosting sequence. -/
def Drift.position (d : Drift) (stage : Nat) : Nat := (indexOf? (fun r : StageRes => r.stage == stage) d.seq).getD 0
/-- The record of a stage of the slot. -/
def Drift.res (d : Drift) (stage : Nat) : Option StageRes := d.seq.find? fun r => r.stage == stage
/-- The record of a stage changed. -/
def Drift.modRes (d : Drift) (stage : Nat) (f : StageRes → StageRes) : Drift := { d with seq := d.seq.map fun r => if r.stage = stage then f r else r }

/-- Where a stage of the slot lies now. -/
def Drift.view (d : Drift) (stage : Nat) : StageView :=
  let p := d.position stage % 2
  ⟨stage == d.hosted, if d.seq.length ≤ 1 then 0 else p * 0x9000, if d.seq.length ≤ 1 then 0 else p⟩

/-- Contexts of an element that some stage of the slot uses. -/
def Drift.used (d : Drift) (e : ElemId) : List CtxId := ([0, 1, 2, 3] : List CtxId).filter fun c => d.seq.any fun r => r.ctxs.contains (e, c)

/-- The partner of a used context: used and unused ones are paired in ascending order (R63). Where fewer are unused than used, one that is left over is its own partner (DESIGN CHOICE, assumption log 86). -/
def Drift.partner (d : Drift) (e : ElemId) (c : CtxId) : CtxId :=
  let us := d.used e
  let fs := ([0, 1, 2, 3] : List CtxId).filter fun k => !us.contains k
  match indexOf? (· == c) us with
  | some i => nth c fs i
  | none => c

/-- The context that holds a stage's content for one it uses: its own while the stage is hosted, where its scroll marker is still to come, or where the scroll that took the stage out never reaches it; else the partner. -/
def Column.place (x : Column) (v : StageView) (q : ElemId × CtxId) : ElemId × CtxId :=
  let y := x.ctx q.1 q.2
  if v.hosted || x.drift.outD.stay.contains q || y.scroll || y.swap then q else (q.1, x.drift.partner q.1 q.2)

/-- Elements on which a stage holds a context, in order. -/
def StageRes.elems (r : StageRes) : List ElemId := ((upTo 32).map (fin 31)).filter fun e => r.ctxs.any fun q => q.1 == e

/-! The raw image (R68). -/

/-- Bytes filled with zeros, or cut, to `n`. -/
def padTo (n : Nat) (bs : List Byte) : List Byte := (bs ++ List.replicate (n - bs.length) 0).take n

/-- Bytes of 32-bit words. -/
def words32 (ws : List Word) : List Byte := ws.flatMap fun w => leBytes 4 w.toNat

/-- A context's record of 512 bytes. -/
def Ctx.record (x : Ctx) : List Byte :=
  padTo 512 (leBytes 4 x.hdr.toNat ++ words32 x.prog.toList ++ words32 x.c.toList ++ words32 x.m.toList ++
    (x.v.toList.flatMap fun v => leBytes 32 v.toNat) ++ (x.acc.toList.flatMap fun a => a.toList.flatMap fun l => leBytes 8 l.toNat) ++
    words32 x.it.toList ++ leBytes 4 x.sect.toNat ++ leBytes 2 ((x.accTaint.get 0).toNat + (x.accTaint.get 1).toNat * 256))

/-- `n` 32-bit words of bytes from an offset. -/
def word32At (bs : List Byte) (off : Nat) : Word := BitVec.ofNat 32 (leNat ((bs.drop off).take 4))

/-- A context with the content of a record; its queues, counters and extents stay. -/
def Ctx.ofRecord (x : Ctx) (bs : List Byte) : Ctx :=
  let w (o i : Nat) : Word := word32At bs (o + 4 * i)
  let at64 (o : Nat) : DWord := BitVec.ofNat 64 (leNat ((bs.drop o).take 8))
  { x with
    hdr := w 0 0, prog := vmapIdx (fun i _ => w 4 i) (vfill 8 ()), c := vmapIdx (fun i _ => w 36 i) (vfill 8 ()),
    m := vmapIdx (fun i _ => w 68 i) (vfill 4 ()), v := vmapIdx (fun i _ => BitVec.ofNat 256 (leNat ((bs.drop (84 + 32 * i)).take 32))) (vfill 8 ()),
    acc := vmapIdx (fun j _ => vmapIdx (fun i _ => at64 (340 + 64 * j + 8 * i)) (vfill 8 ())) (vfill 2 ()),
    it := vmapIdx (fun i _ => w 468 i) (vfill 4 ()), sect := w 484 0,
    accTaint := vmapIdx (fun j _ => BitVec.ofNat 8 (leNat ((bs.drop (488 + j)).take 1))) (vfill 2 ()) }

/-- Bytes of one half of an element's VCT and scale registers (R68, R69). -/
def Elem.halfBytes (e : Elem) (half : Nat) : List Byte :=
  ((upTo 16).flatMap fun i => leBytes 2 (e.vct.get (fin 31 (16 * half + i))).toNat) ++ (upTo 8).map fun i => e.sc.get (fin 15 (8 * half + i))

/-- An element with one half of its tables as bytes give it. -/
def Elem.putHalf (e : Elem) (half : Nat) (bs : List Byte) : Elem :=
  let v (i : Nat) (h : Half) : Half := if i / 16 = half then BitVec.ofNat 16 (leNat ((bs.drop (2 * (i % 16))).take 2)) else h
  let c (i : Nat) (h : BitVec 8) : BitVec 8 := if i / 8 = half then BitVec.ofNat 8 (leNat ((bs.drop (32 + i % 8)).take 1)) else h
  { e with vct := vmapIdx v e.vct, sc := vmapIdx c e.sc }

/-- The registers g1 to g31 and the handler table as granule 0. -/
def granule0 (g : Vector DWord 32) (hte : Vector Word 20) : List Byte :=
  padTo 512 ((g.toList.drop 1).flatMap (fun w => leBytes 8 w.toNat) ++ words32 hte.toList)

/-- Bytes of frost rows from a list of words at row · 64 + position. -/
def rowBytes (acc : List (Nat × Word)) (row : Nat) : List Byte := (upTo 64).flatMap fun p => leBytes 4 (lookupD 0 (row * 64 + p) acc).toNat

/-- Registers, table and frost rows of a view. -/
def Column.viewRegs (x : Column) (v : StageView) : Vector DWord 32 × Vector Word 20 × List (Nat × Word) :=
  if v.hosted then (x.cpu.g, x.cpu.hte, x.fab.acc) else (x.drift.stgG, x.drift.stgHte, x.drift.stgRows)

/-- The raw granules of a stage as it stands (R68). -/
def Column.rawImage (x : Column) (r : StageRes) : List (List Byte) :=
  let d := x.drift
  let v := d.view r.stage
  let (g, hte, rows) := x.viewRegs v
  let recs := r.ctxs.map fun q => let k := x.place v q; (x.ctx k.1 k.2).record
  let tables := r.elems.flatMap fun e => padTo 40 ((x.elems.get e).halfBytes v.half)
  let tg := (upTo (ceilDiv r.elems.length 12)).map fun i => padTo 512 ((tables.drop (480 * i)).take 480)
  let fr := (upTo (ceilDiv r.frows 2)).map fun i => padTo 512 ((upTo 2).flatMap fun k => if 2 * i + k < r.frows then rowBytes rows (2 * i + k) else [])
  [granule0 g hte] ++ ((upTo 72).map fun i => x.cpu.near.getBytes (v.window + 512 * i) 512) ++ recs ++ tg ++ fr

/-- What has been written of the hosted stage since its restore (R70). -/
def Column.dirtyNow (x : Column) : OutDirty :=
  ⟨x.cpu.dirty, x.drift.dirtyNear, (upTo 32).filter fun e => (x.elems.get (fin 31 e)).vctDirty, x.fab.dirtyRows,
   match x.band with | some b => b.finished | none => false, []⟩

/-- Which granules of a stage are dirty, given what has been written of it. -/
def Column.dirtyGranules (x : Column) (r : StageRes) (o : OutDirty) : List Bool :=
  let d := x.drift
  let v := d.view r.stage
  let es := r.elems
  [o.g0] ++ ((upTo 72).map fun i => o.near.contains (i + 1)) ++ (r.ctxs.map fun q => let k := x.place v q; (x.ctx k.1 k.2).dirty) ++
  ((upTo (ceilDiv es.length 12)).map fun i => ((es.drop (12 * i)).take 12).any fun e => o.vct.contains e.val) ++
  ((upTo (ceilDiv r.frows 2)).map fun i => o.rows.getLsbD (2 * i) || (decide (2 * i + 1 < r.frows) && o.rows.getLsbD (2 * i + 1)))

/-- A word of the window of a view is uncorrectable. -/
def Column.windowBad (x : Column) (v : StageView) : Bool := x.cpu.near.bad.any fun w => decide (v.window ≤ 8 * w) && decide (8 * w < v.window + 0x9000)

/-! Berths in a shelf (R66, R67). -/

/-- Bytes of a berth. -/
def berthBytes : Nat := 0x20000

/-- The first vertical byte of a stage's berth. -/
def Drift.berthAt (d : Drift) (stage : Nat) : Nat := shelfBase ((d.berth.getD 0).val) + d.position stage % 48 * berthBytes

/-- Writes bytes, from a multiple of 8, into the vertical store of a column. -/
def State.vertPut (s : State) (c : ColId) (a : Nat) (bs : List Byte) : State :=
  (upTo (ceilDiv bs.length 8)).foldl (fun s i =>
    let w := (bs.drop (8 * i)).take 8
    s.writeVert c (a / 8 + i) (byteMask 0 w.length) (BitVec.ofNat 64 (leNat w))) s

/-- Reads `n` bytes, from a multiple of 8, and whether any was uncorrectable. -/
def State.vertGet (s : State) (c : ColId) (a n : Nat) : List Byte × Bool × State :=
  let r := (upTo (ceilDiv n 8)).foldl (fun (q : List Byte × Bool × State) i =>
    let ((w, t), s) := q.2.2.readVert c (a / 8 + i)
    (q.1 ++ leBytes 8 w.toNat, q.2.1 || t, s)) (([] : List Byte), false, s)
  (r.1.take n, r.2)

/-- The header of a berth. -/
def berthHeader (taint final : Bool) (lap stage raw code : Nat) : List Byte :=
  leBytes 8 (stage % 65536 + lap % 65536 * 2 ^ 16 + (if final then 2 ^ 32 else 0) + (if taint then 2 ^ 33 else 0)) ++
  leBytes 8 (code % 2 ^ 32 + raw % 2 ^ 32 * 2 ^ 32)

/-- The whole image of a stage as a berth holds it: header, directory and frames (R67, R70). -/
def berthImage (lap stage : Nat) (final : Bool) (raw : List (List Byte)) : List Byte :=
  let fs := raw.map codeGranule
  let code := sumList (fs.map List.length)
  padTo 0x20 (berthHeader false final lap stage (512 * raw.length) code) ++ padTo 0x1E0 (fs.flatMap fun f => leBytes 2 f.length) ++
  padTo 0xE00 [] ++ fs.flatMap (padTo 528)

/-- Save bytes Y of frames' coded lengths, and restore bytes I (R70). -/
def moveBytes (lens : List Nat) : Nat := 512 + sumList (lens.map fun n => ceilDiv n 128 * 128)

/-- Charges the vertical port of a berth for bytes moved, class 2 (R352). -/
def State.chargeBerth (s : State) (c : ColId) (a n : Nat) : State := s.modCol c fun x => x.chargeV 2 (vLayer a) (ceilDiv n 128)

/-- A save writes every frame: the berth holds no image of the stage that it could write over. -/
def StageRes.whole (r : StageRes) : Bool := !r.saved || !r.resident

/-- The granules that a save writes, each with its number (R70). -/
def Column.savedGranules (x : Column) (r : StageRes) (o : OutDirty) (raw : List (List Byte)) : List (Nat × List Byte) :=
  let dirty := x.dirtyGranules r o
  (mapFrom (fun i g => (i, g)) 0 raw).filter fun q => r.whole || nth true dirty q.1

/-- What a save would move, for its time (R72). -/
def Column.saveBytes (x : Column) (r : StageRes) (o : OutDirty) : Nat := moveBytes ((x.savedGranules r o (x.rawImage r)).map fun q => (codeGranule q.2).length)

/-- A SAVE of a stage into its berth (R70): every dirty frame, then DIR, then the header. The image is tainted where an error touched what it now holds, or a frame that the save keeps (R67). Answers the bytes moved, and whether the image is tainted. -/
def State.saveStage (s : State) (c : ColId) (r : StageRes) (o : OutDirty) (regs : Option (Vector DWord 32)) : Nat × Bool × State :=
  let x := s.col c
  let d := x.drift
  let b := d.berthAt r.stage
  let raw0 := x.rawImage r
  let raw := match regs with
    | some g => (match raw0 with | _ :: rest => granule0 g x.cpu.hte :: rest | [] => [])
    | none => raw0
  let coded := (x.savedGranules r o raw).map fun q => (q.1, codeGranule q.2)
  let kept := !r.whole && bitsNat (x.vert.rawWord (b / 8)) 33 33 == 1
  let taint := x.windowBad (d.view r.stage) || r.taint || kept
  let s := coded.foldl (fun s q => s.vertPut c (b + 0x1000 + 528 * q.1) q.2) s
  let (dir, t, s) := s.vertGet c (b + 0x20) 0x1E0
  let dir' := (upTo 240).flatMap fun i => match coded.find? fun q => q.1 == i with
    | some q => leBytes 2 q.2.length
    | none => if i < raw.length then (dir.drop (2 * i)).take 2 else [0, 0]
  let code := sumList ((chunks 2 240 dir').map leNat)
  let size := match x.band with | some k => Nat.max k.size 1 | none => 1
  let s := s.vertPut c (b + 0x20) dir'
  let s := s.vertPut c b (berthHeader (taint || t) (r.final || o.final) (r.stage / size) r.stage (512 * raw.length) code)
  let y := moveBytes (coded.map fun q => q.2.length)
  (y, taint || t, s.chargeBerth c b y)

/-- The lengths of the frames that a berth holds for a stage: its header and its directory; none where it holds no image of the stage. Whether an error met them. -/
def State.berthDir (s : State) (c : ColId) (r : StageRes) : Option (List Nat) × Bool × State :=
  let b := (s.col c).drift.berthAt r.stage
  let (h, t0, s) := s.vertGet c b 16
  let (dir, t1, s) := s.vertGet c (b + 0x20) 0x1E0
  let raw := leNat ((h.drop 12).take 4) / 512
  if leNat (h.take 2) % 65536 ≠ r.stage % 65536 || raw = 0 || 240 < raw then (none, t0 || t1, s)
  else (some ((chunks 2 raw dir).map leNat), t0 || t1, s)

/-- A frame of a berth, decoded. -/
def State.berthFrame (s : State) (c : ColId) (r : StageRes) (i n : Nat) : List Byte × Bool × State :=
  let (f, t, s) := s.vertGet c ((s.col c).drift.berthAt r.stage + 0x1000 + 528 * i) n
  (decodeGranule f, t, s)

/-- The image that a berth holds: its raw granules, the bytes moved, and taint; none where it holds no image of the stage. -/
def State.readBerth (s : State) (c : ColId) (r : StageRes) : Option (List (List Byte) × Nat × Bool) × State :=
  match s.berthDir c r with
  | (none, _, s) => (none, s)
  | (some lens, t, s) =>
    let one (q : List (List Byte) × Bool × State) (k : Nat × Nat) : List (List Byte) × Bool × State :=
      let (g, t, s) := q.2.2.berthFrame c r k.1 k.2
      (q.1 ++ [g], q.2.1 || t, s)
    let (gs, t, s) := (mapFrom (fun i n => (i, n)) 0 lens).foldl one (([] : List (List Byte)), t, s)
    let n := moveBytes lens
    (some (gs, n, t), s.chargeBerth c ((s.col c).drift.berthAt r.stage) n)

/-- The frame lengths of a stage's image as its berth stands. -/
def Column.berthLens (x : Column) (r : StageRes) : List Nat :=
  let b := x.drift.berthAt r.stage
  let raw := leNat (x.vert.getBytes (b + 12) 4) / 512
  (upTo raw).map fun i => leNat (x.vert.getBytes (b + 0x20 + 2 * i) 2)

/-- The restore bytes of a stage's image, for its time and its notice (R72, R80). -/
def Column.restoreBytes (x : Column) (r : StageRes) : Nat := moveBytes (x.berthLens r)

/-! Putting an image in place (R68, R73). -/

/-- The first of the granules that hold a stage's tables, and the first that holds frost rows (R68). -/
def StageRes.tablesAt (r : StageRes) : Nat := 73 + r.ctxs.length
def StageRes.rowsAt (r : StageRes) : Nat := r.tablesAt + ceilDiv r.elems.length 12

/-- The order in which a restore reads `n` frames: the tables before the rest, so that they are in place before any context goes live (R69, assumption log 85). -/
def StageRes.order (r : StageRes) (n : Nat) : List Nat :=
  let table (i : Nat) : Bool := decide (r.tablesAt ≤ i) && decide (i < r.rowsAt)
  (upTo n).filter table ++ (upTo n).filter fun i => !table i

/-- Each frame of a restore with its coded length and the bytes moved once it has been read, header and directory included (R70). -/
def frameEnds (lens : List Nat) (moved : Nat) : List Nat → List (Nat × Nat × Nat)
  | [] => []
  | i :: r =>
    let n := nth 0 lens i
    let m := moved + ceilDiv n 128 * 128
    (i, n, m) :: frameEnds lens m r

/-- A context with the content of a record and the wiring of its stage, live from a cycle on. -/
def Ctx.restored (x : Ctx) (w : Option Wiring) (bs : List Byte) (live : Nat) : Ctx :=
  let y := { x.ofRecord bs with st := .live, liveAt := live, load := none, strm := none, dirty := false }
  match w with
  | some w => { y with seed := w.seed, lfsr := seedLoad w.seed, routes := w.routes, b := w.b }
  | none => y

/-- A column with one raw granule of a stage put where a view says. -/
def Column.putGranule (x : Column) (r : StageRes) (v : StageView) (live i : Nat) (bs : List Byte) : Column :=
  if i = 0 then
    let g := vmapIdx (fun i w => if i = 0 then w else BitVec.ofNat 64 (leNat ((bs.drop (8 * (i - 1))).take 8))) (if v.hosted then x.cpu.g else x.drift.stgG)
    let hte := vmapIdx (fun i _ => word32At bs (248 + 4 * i)) x.drift.stgHte
    if v.hosted then { x with cpu := { x.cpu with g := g, hte := hte, dirty := false } } else { x with drift := { x.drift with stgG := g, stgHte := hte } }
  else if i < 73 then
    let a := v.window + 512 * (i - 1)
    let m := x.cpu.near
    let near := { m.putBytes a (padTo 512 bs) with bad := m.bad.filter fun w => !(decide (a ≤ 8 * w) && decide (8 * w < a + 512)) }
    { x with cpu := { x.cpu with near := near }, nearDirty := insertNat (a / 512) x.nearDirty, drift := { x.drift with dirtyNear := if v.hosted then x.drift.dirtyNear.filter (· != i) else x.drift.dirtyNear } }
  else if i < r.tablesAt then
    match r.ctxs[i - 73]? with
    | none => x
    | some q =>
      let k := x.place v q
      let w := r.wiring.find? fun w => w.elem == q.1 && w.ctx == q.2
      { x with elems := vmod x.elems k.1 fun e => { e with ctxs := vmod e.ctxs k.2 fun y => y.restored w bs live } }
  else if i < r.rowsAt then
    let es := (mapFrom (fun j e => (j, e)) 0 ((r.elems.drop (12 * (i - r.tablesAt))).take 12))
    { x with elems := es.foldl (fun els k => vmod els k.2 fun e => { e.putHalf v.half ((bs.drop (40 * k.1)).take 40) with vctDirty := e.vctDirty && !v.hosted }) x.elems }
  else
    let j := 2 * (i - r.rowsAt)
    let row (acc : List (Nat × Word)) (n : Nat) : List (Nat × Word) :=
      (upTo 64).foldl (fun a k =>
        let w := word32At bs (256 * n + 4 * k)
        if w = 0 then eraseKey ((j + n) * 64 + k) a else insertKey ((j + n) * 64 + k) w a) acc
    let rows (acc : List (Nat × Word)) : List (Nat × Word) := ((upTo 2).filter fun n => decide (j + n < r.frows)).foldl row acc
    if v.hosted then { x with fab := { x.fab with acc := rows x.fab.acc } } else { x with drift := { x.drift with stgRows := rows x.drift.stgRows } }

/-- One raw granule of a stage is put in place; a context's corner turns come with its record. -/
def State.putFrame (s : State) (c : ColId) (r : StageRes) (v : StageView) (live i : Nat) (bs : List Byte) : State :=
  let s := s.modCol c fun x => x.putGranule r v live i bs
  match (if 73 ≤ i && i < r.tablesAt then r.ctxs[i - 73]? else none) with
  | none => s
  | some q =>
    let k := (s.col c).place v q
    let owns (t : Turn) : Bool := match t.owner with | some p => p.at_ == ⟨c, k.1, k.2⟩ | none => false
    if (s.col c).turns.toList.any owns then s else s.addUnits ⟨c, k.1, k.2⟩

/-- A whole raw image is put in place. -/
def State.putImage (s : State) (c : ColId) (r : StageRes) (v : StageView) (raw : List (List Byte)) (live : Nat) : State :=
  (r.order raw.length).foldl (fun s i => s.putFrame c r v live i (nth [] raw i)) s

/-! Berths in the save area (R66). -/

/-- A place of `n` bytes, a whole number of 4 KiB units, in a save area: the first gap after the entries that fits (R368). -/
def areaGap (areas : List (Nat × Nat × Nat)) (size n : Nat) : Option Nat :=
  let free (o : Nat) : Bool := decide (o + n ≤ size) && areas.all fun a => decide (o + n ≤ a.2.1) || decide (a.2.1 + ceilDiv a.2.2 4096 * 4096 ≤ o)
  (0x1000 :: areas.map fun a => a.2.1 + ceilDiv a.2.2 4096 * 4096).foldl (fun (m : Option Nat) o =>
    if free o then (match m with | none => some o | some x => some (Nat.min x o)) else m) none

/-- What lies in a task's save area: images, and the berths of its columns. -/
def State.areasOf (s : State) (t : Task) : List (Nat × Nat × Nat) :=
  t.areas ++ t.cols.flatMap fun c => (s.col c).drift.area.map fun a => (256, a.2, berthBytes)

/-- A berth of 128 KiB is written to the task's save area; none where it finds no room or a page is not present (assumption log 90). -/
def State.berthOut (s : State) (c : ColId) (stage : Nat) (bs : List Byte) : Option State :=
  match s.taskOf c with
  | none => none
  | some t =>
    let (ptb, p) := s.taskSpace t.id
    match (match (s.col c).drift.area.find? fun a => a.1 == stage with | some a => some a.2 | none => areaGap (s.areasOf t) t.saveSz berthBytes) with
    | none => none
    | some o => match s.putSpace 2 ptb p (t.save + o) (dwords (padTo berthBytes bs)) with
      | .error _ => none
      | .ok s => some (s.modCol c fun x => { x with drift := { x.drift with area := insertKey stage o x.drift.area } })

/-- The stage whose berth a stage's own takes the place of. -/
def Drift.sharer (d : Drift) (stage : Nat) : Option StageRes :=
  d.seq.find? fun r => r.stage != stage && r.resident && d.position r.stage % 48 == d.position stage % 48

/-- The berth of a stage that another stage's displaces goes to the save area; none while it cannot. -/
def State.displace (s : State) (c : ColId) (stage : Nat) : Option State :=
  let d := (s.col c).drift
  match d.sharer stage with
  | none => some s
  | some r =>
    let (bs, _, s) := s.vertGet c (d.berthAt r.stage) berthBytes
    (s.berthOut c r.stage bs).map fun s => s.modCol c fun x => { x with drift := x.drift.modRes r.stage fun r => { r with resident := false } }

end Sys2Proof.Machine
end

