-- ==== Sys2Proof/Machine/Replies.lean ====
section
/-! DEFINITION. What an address-generator context sends outside its firings: reply tokens and the EOS marker (R120, R292), the stream's completion token (R124), and completion tokens of requests (R140). -/

namespace Sys2Proof.Machine

/-- A context of the column may send: it is live and neither stopped nor pre-empted. -/
def State.sends (s : State) (r : CtxRef) : Bool := (s.ctx r).isLive s.now && decide ((s.ctx r).fwd ≤ s.now) && !(s.ctx r).stopped && s.fires r.col

/-- An output port of a context takes one more token now. -/
def State.canEmit (s : State) (r : CtxRef) (o : PortId) : Bool := decide (1 ≤ s.portFree r o []) && (s.col r.col).admitsL 0 1

/-- Emits a data token of a stream on a port, with its own VCH and the port's ordinal (R39, R304). -/
def State.emitOwn (s : State) (r : CtxRef) (o : PortId) (vch : BitVec 5) (t : Token) : State :=
  let x := s.ctx r
  let t := { t with vch := vch, vchSet := true, ord := x.ord.get o }
  (s.modCtx r fun x => { x with ord := vset x.ord o (x.ord.get o + 1) }).emitOn r o none t s.now

/-- The state with the stream of a context replaced through `f`. -/
def State.modStrm (s : State) (r : CtxRef) (f : Stream → Stream) : State := s.modCtx r fun x => { x with strm := x.strm.map f }

/-- Every request that has performed is turned into tokens, in order of issue. -/
def State.formReplies (s : State) (r : CtxRef) : State :=
  s.modStrm r fun m => iter (fun m => m.formReply s.now) m.reqs.length m

/-- Nothing of the stream's data is still to come: all issued or stopped, every request performed, and for a read every token sent. -/
def Stream.drained (m : Stream) : Bool :=
  (m.allIssued || m.halt == .stopped) && m.out.isEmpty &&
  m.reqs.all fun q => if q.write then q.allDone else q.replied

/-- The EOS marker is due (R120, R245). -/
def Stream.eosDue (m : Stream) : Bool := m.drained && !m.eosDone && (!m.write || m.halt == .stopped)

/-- The EOS marker of a stream (R51, R120, R245). -/
def Stream.eos (m : Stream) : Token :=
  markerToken 2 (BitVec.ofNat 256 (m.daddr.toNat + if m.halt == .stopped then 0x80000000 else 0))

/-- A marker that a context's own stream injects is forwarded as at an alignment, with nothing to consume (R52). -/
def State.ownMarker (s : State) (r : CtxRef) (m : Token) : State :=
  let s := match s.statDest r m with
    | some w => s.emitStat r m w
    | none => s
  let swap := s.swapsOn r m
  (s.forwardMarker r m s.now).modCtx r fun y => { y.onMarker m with fwd := s.now + 1, swap := swap }

/-- The outputs, the statistics route and the shadow allow a marker of the context's own (R52, R54, R60). -/
def State.canPlace (s : State) (r : CtxRef) (m : Token) : Bool :=
  let x := s.ctx r
  s.outsFree r && (!s.swapsOn r m || (s.ctx { r with ctx := hShadow x.hdr }).st != .loading) &&
  (match s.statDest r m with
   | some w => decide (1 ≤ s.freeOf (.port (w.portRef r.col r.ctx none)))
   | none => true)

/-- The next token of the reply queue leaves (R43, R120, R124, R292). -/
def State.sendReply (s : State) (r : CtxRef) : State :=
  match (s.ctx r).strm with
  | none => s
  | some m =>
    match m.out with
    | t :: ts =>
      if !s.canEmit r m.dout then s
      else if t.marker then (s.modStrm r fun m => { m with out := ts, next := s.now + 1 }).emitOwn r m.dout 0 t
      else
        let x := s.ctx r
        let first := m.blk % m.blen == 0
        let t := { t with bfirst := first, scale := if first then BitVec.ofNat 8 (x.c.get 7).toNat else 0 }
        let o := x.ord.get m.dout
        let s := s.modStrm r fun m =>
          { m with out := ts, blk := m.blk + 1, next := s.now + 1, nTaint := if t.taint then m.nTaint + 1 else m.nTaint,
                   firstTaint := if t.taint then some (m.firstTaint.getD o) else m.firstTaint }
        s.emitOwn r m.dout m.dvch t
    | [] =>
      if m.eosDue && s.canPlace r m.eos then
        (s.modStrm r fun m => { m with eosDone := true, blk := 0, next := s.now + 1 }).ownMarker r m.eos
      else s

/-- `AG_REPLY_EMIT`. -/
def execAgReplyEmit (c : ColId) (e : ElemId) (x : CtxId) (s : State) : Out :=
  let r : CtxRef := ⟨c, e, x⟩
  if !s.sends r then .next s
  else
    let s := s.formReplies r
    match (s.ctx r).strm with
    | none => .next s
    | some m => .next (if s.now < m.next then s else (s.sendReply r).endStream r)

/-- The stream completion token (R124). -/
def Stream.compToken (m : Stream) : Token :=
  dataToken (BitVec.ofNat 256 (packLanes 32 [m.nElems, m.nTaint, (m.firstTaint.map (·.toNat)).getD 0xFFFFFFFF, m.dropped])) 3 false

/-- `STREAM_COMPLETION_TOKEN`: after the last access, and for a stream with an EOS marker after that (R124). -/
def execStreamCompletionToken (c : ColId) (e : ElemId) (x : CtxId) (s : State) : Out :=
  let r : CtxRef := ⟨c, e, x⟩
  if !s.sends r then .next s
  else
    let s := s.formReplies r
    match (s.ctx r).strm with
    | none => .next s
    | some m =>
      if m.cen && !m.compDone && m.drained && !m.eosDue && decide (m.next ≤ s.now) && s.canEmit r m.cout then
        .next (((s.modStrm r fun m => { m with compDone := true, next := s.now + 1 }).emitOwn r m.cout m.cvch m.compToken).endStream r)
      else .next s

/-- Requests that the next completion token of R140 covers: their number once they may be covered. -/
def Stream.nextGroup (m : Stream) (c6 : Word) : Option Nat :=
  let left := m.issuedReqs - m.covered
  if c6K c6 ≤ left then some (c6K c6)
  else if (m.allIssued || m.halt == .stopped) && 0 < left then some left
  else none

/-- `COMPLETION_TOKEN_EMIT` (R140). -/
def execCompletionTokenEmit (c : ColId) (e : ElemId) (x : CtxId) (s : State) : Out :=
  let r : CtxRef := ⟨c, e, x⟩
  if !s.sends r then .next s
  else match (s.ctx r).strm with
    | none => .next s
    | some m =>
      let c6 := (s.ctx r).c.get 6
      match (if c6.getLsbD 0 then m.nextGroup c6 else none) with
      | none => .next s
      | some n =>
        let qs := m.reqs.filter fun q => decide (m.covered ≤ q.idx) && decide (q.idx < m.covered + n)
        if qs.all (fun q => s.reqForSys r m q) && s.canEmit r (c6Port c6) then
          let taint := qs.any fun q => q.wtaint || q.pieces.any fun p => p.val.2
          let store := qs.any fun q => q.write
          let last := (m.covered + n - 1) % 2 ^ 32
          let t := dataToken (BitVec.ofNat 256 (packLanes 32 [last, (if taint then 1 else 0) + (if store then 2 else 0)])) 1 false
          .next (((s.modStrm r fun m => { m with covered := m.covered + n }).emitOwn r (c6Port c6) (field c6 3 5) t).endStream r)
        else .next s

end Sys2Proof.Machine
end

