-- ==== Sys2Proof/Machine/Drifting.lean ====
section
/-! DEFINITION. Drift: the scroll and its conditions (R73 to R79), holds and notices (R77, R80, R81), forced scrolls (R83), and the drift forms (R253 to R256). -/

namespace Sys2Proof.Machine

/-- The drift controller of a column changed. -/
def State.modDrift (s : State) (c : ColId) (f : Drift → Drift) : State := s.modCol c fun x => { x with drift := f x.drift }

/-- A counter of R81 counts. -/
def Drift.count (d : Drift) (k n : Nat) : Drift := { d with cnt := vmod d.cnt (fin 6 k) fun w => satInc w n }

/-- g1 of a notice (R80). -/
def noticeG1 (kind cause out inn lap : Nat) : DWord := BitVec.ofNat 64 (kind + cause * 2 ^ 8 + out % 65536 * 2 ^ 16 + inn % 65536 * 2 ^ 32 + lap % 65536 * 2 ^ 48)

/-- Sends a drift notice, or counts it where class 17 or its kind is not enabled (R80). -/
def State.notice (s : State) (c : ColId) (kind cause out inn : Nat) (info : Nat) (more : List Byte) : State :=
  let x := s.col c
  if x.cpu.armed 17 && x.drift.mask.getLsbD kind then
    let lap := inn / Nat.max x.bandSize 1
    let m := selfMsg (.col c) 17 (noticeG1 kind cause out inn lap) (s.cyc (stackOf c)) (BitVec.ofNat 64 info) none
    let m := if more.isEmpty then m else { m with len := 1, area := (m.area.take 24 ++ more ++ List.replicate 40 0).take 64 }
    s.selfQueue (.col c) m
  else s.modDrift c fun d => d.count 6 1

/-! Shelves (R79). -/

/-- Shelves of a stage, as numbers. -/
def StageRes.shelfList (r : StageRes) : List Nat := (upTo 16).filter fun h => r.shelves.getLsbD h
/-- A shelf is ready for a stage. -/
def Drift.shelfReady (d : Drift) (stage h : Nat) : Bool :=
  match d.shelves.get (fin 15 h) with
  | .ready k => k == stage
  | .hosted => stage == d.hosted
  | _ => false
/-- Every weight shelf of a stage is ready (or hosted). -/
def Drift.weightsReady (d : Drift) (r : StageRes) : Bool := r.shelfList.all fun h => d.shelfReady r.stage h

/-- A refill that the drift controller asks for goes to the engine of its stack. -/
def State.askRefill (s : State) (c : ColId) (mark shelf stage : Nat) (runs : List WeightRun) : State :=
  let task := match (s.col c).band with | some b => b.task | none => 0
  let (j, s) := s.startJob c
  let q : Refill :=
    { col := c, shelf := shelf, src := 0, len := 128 * sumList (runs.map fun w => w.count), runs := runs, stage := stage, xid := 0, ccls := 31, haddr := 0,
      auto := true, bad := false, job := j, stamp := (s.col c).cpu.lclk, task := task }
  (s.modDrift c fun d => { d with asked := d.asked ++ [mark] }).modStack (stackOf c) fun k => { k with lseQ := k.lseQ ++ [q] }

/-- Where the save area of a column's task begins. -/
def State.saveBase (s : State) (c : ColId) : Nat := match s.taskOf c with | some t => t.save | none => 0

/-- Asks the layer-swap engine to refill every shelf of the next stage that is not ready and that has an image in the object (R79), and to fetch its berth from the save area (R66). -/
def State.askRefills (s : State) (c : ColId) : State :=
  let d := (s.col c).drift
  match d.next with
  | none => s
  | some r =>
    let runs (h : Nat) : List WeightRun := (r.images.filter fun i => i.1 == h).map fun i => i.2
    let want := r.shelfList.filter fun h => !d.shelfReady r.stage h && !d.asked.contains h && !(runs h).isEmpty
    let s := want.foldl (fun (s : State) h => s.askRefill c h h r.stage (runs h)) s
    match d.area.find? fun a => a.1 == r.stage with
    | some a =>
      if r.resident || d.asked.contains 16 then s
      else
        let src := s.saveBase c + a.2
        s.askRefill c 16 (d.berth.getD 0).val r.stage [⟨d.berthAt r.stage, src, 128, berthBytes / 128, src, src + berthBytes⟩]
    | none => s

/-! Conditions of a scroll (R75). -/

/-- Contexts of the hosted stage that markers of some of them reach, one step on: a port that takes no part in alignment passes none (R57, R334). -/
def State.downstream (s : State) (c : ColId) (all from_ : List (ElemId × CtxId)) : List (ElemId × CtxId) :=
  let x := s.col c
  let fed := from_.flatMap fun q => ((s.feedsOf ⟨c, q.1, q.2⟩ (x.ctx q.1 q.2).hdr (x.ctx q.1 q.2).words (x.ctx q.1 q.2).routes).filter fun f =>
    (x.ctx f.1.at_.elem f.1.at_.ctx).aligns f.1.port).map fun f => (f.1.at_.elem, f.1.at_.ctx)
  all.filter fun q => from_.contains q || fed.contains q

/-- The exit entries of the band that lead to a drift slot and bring it its train: none where the slot hosts the band's first stage, whose train is injected (R61, R74). -/
def State.trainExits (s : State) (c : ColId) : List DWord :=
  match s.taskOf c with
  | some t =>
    if (s.col c).drift.hosted = 0 then []
    else t.cols.flatMap fun p => (s.col p).exits.toList.filter fun e => e.getLsbD 63 && bitsNat e 7 0 == c.val
  | none => []

/-- A marker or a token of the current train has reached a context of the hosted stage, or waits at it ahead of a scroll marker. -/
def Ctx.seenTrain (y : Ctx) : Bool :=
  y.wave || y.q.toList.any fun p => match p.toks with | q :: _ => !(q.tok.marker && q.tok.sub == 6#4) | [] => false

/-- The contexts that the current train reaches: those that the exits of the band lead to, those that it has reached, and what they feed (R75). -/
def State.reached (s : State) (c : ColId) (all : List (ElemId × CtxId)) : List (ElemId × CtxId) :=
  let x := s.col c
  let es := s.trainExits c
  let led (q : ElemId × CtxId) : Bool := es.any fun e => bitsNat e 12 8 == q.1.val && bitsNat e 21 20 == q.2.val
  let first := all.filter fun q => !hSource (x.ctx q.1 q.2).hdr && ((x.ctx q.1 q.2).seenTrain || led q)
  iter (s.downstream c all) all.length first

/-- The contexts of a stage that its scroll markers reach: those of the train, the source contexts, and what they feed (R74, R75). -/
def State.scrollReach (s : State) (c : ColId) (all : List (ElemId × CtxId)) : List (ElemId × CtxId) :=
  let x := s.col c
  let rs := s.reached c all
  iter (s.downstream c all) all.length (all.filter fun q => hSource (x.ctx q.1 q.2).hdr || rs.contains q)

/-- Condition 1: the train's last wave-end has aligned in every context that the train reaches. -/
def State.trainPast (s : State) (c : ColId) (r : StageRes) : Bool :=
  let rs := s.reached c r.ctxs
  !rs.isEmpty && rs.all fun q => ((s.col c).ctx q.1 q.2).lastw

/-- Data tokens of a queue ahead of its first scroll marker. -/
def dataBeforeScroll : List QTok → Bool
  | [] => false
  | q :: r => if q.tok.marker then (q.tok.sub != 6#4 && dataBeforeScroll r) else true

/-- Condition 2: no queue of the stage holds a data token ahead of a scroll marker. -/
def Column.queuesClear (x : Column) (r : StageRes) : Bool :=
  r.ctxs.all fun q => (x.ctx q.1 q.2).q.toList.all fun p => !dataBeforeScroll p.toks

/-- Contexts still await the open scroll, or change over as the next cycle begins. -/
def Column.scrolling (x : Column) : Bool := x.elems.toList.any fun e => e.ctxs.toList.any fun y => y.scroll || y.swap

/-- Every context that holds the next stage is live. -/
def Column.nextLive (x : Column) (n : StageRes) (now : Nat) : Bool :=
  n.ctxs.all fun q => (x.ctx q.1 (x.drift.partner q.1 q.2)).isLive now

/-- The first of conditions 3, 4 and 5 that fails, as the CAUSE of R80. -/
def Column.holdCause (x : Column) (n : StageRes) (now : Nat) : Option Nat :=
  let d := x.drift
  if !d.weightsReady n || !(n.shelfList.all fun h => x.shelfOn h) then some 1
  else if !d.restored || !x.nextLive n now then (if n.resident then some 2 else some 4)
  else if x.cpu.busy || d.op.isSome then some 3
  else none

/-- What the slot waits for: none where it does not scroll or the train is not past. -/
def State.holdOf (s : State) (c : ColId) : Option (StageRes × StageRes × Option Nat) :=
  let x := s.col c
  let d := x.drift
  if !d.scrolls || x.pre != .none || x.dbg.squall.isSome || x.scrolling || s.inWindow (.col c) then none
  else match d.cur, d.next with
    | some r, some n => if s.trainPast c r && x.queuesClear r then some (r, n, x.holdCause n s.now) else none
    | _, _ => none

/-! The commit. -/

/-- The frost rows below a count move from one list to another. -/
def takeRows (acc : List (Nat × Word)) (n : Nat) : List (Nat × Word) := acc.filter fun q => q.1 < 64 * n

/-- Dirty frost rows of a stage, in bytes. -/
def dirtyRowBytes (rows : BitVec 256) (n : Nat) : Nat := 256 * popNat 256 (rows.toNat % 2 ^ n)

/-- Cycles of the commit window (R76). -/
def Column.windowCycles (x : Column) (out inn : StageRes) : Nat := 8 + ceilDiv (dirtyRowBytes x.dirtyNow.rows out.frows + 256 * inn.frows) 512

/-- The exchange of R76 at the open cycle, in a window that ends with cycle `last`: registers and table with the staging buffer, the window, the frost rows, the stage; contexts of the stage that the scroll meets await their marker, and contexts that only the incoming stage uses take it at once (assumption log 13). The window is that of the incoming stage's position (R64): where a hosting sequence of odd length begins again, the last and the first stage have one window (assumption log 87). -/
def Column.commit (x : Column) (last : Nat) (out inn : StageRes) (met : List (ElemId × CtxId)) : Column :=
  let d0 := x.drift
  let o := x.dirtyNow
  let acc := (x.fab.acc.filter fun q => decide (64 * Nat.max out.frows inn.frows ≤ q.1))
  let acc := (takeRows d0.stgRows inn.frows).foldl (fun a q => insertKey q.1 q.2 a) acc
  let mark (q : ElemId × CtxId) (els : Vector Elem 32) : Vector Elem 32 :=
    vmod els q.1 fun e => { e with ctxs := vmod e.ctxs q.2 fun y => { y with scroll := !y.early && met.contains q, early := false, cue := false } }
  let els := out.ctxs.foldl (fun els q => mark q els) x.elems
  let d := { d0 with stgG := x.cpu.g, stgHte := x.cpu.hte, stgRows := takeRows x.fab.acc out.frows, odd := decide (d0.position inn.stage % 2 = 1), hosted := inn.stage,
                     lap := BitVec.ofNat 16 (inn.stage / Nat.max x.bandSize 1), phase := .window last out.stage inn.stage, restored := false,
                     outD := { o with stay := out.ctxs.filter fun q => !met.contains q && !(x.ctx q.1 q.2).early }, dirtyNear := [], hold := none, asked := [] }
  let d := d.count 0 1
  let sh := vmapIdx (fun h k => if inn.shelves.getLsbD h then Shelf.hosted else if out.shelves.getLsbD h && k == .hosted then .ready out.stage else k) d.shelves
  let y : Column :=
    { x with cpu := { x.cpu with g := d0.stgG, hte := d0.stgHte, dirty := false }, drift := { d with shelves := sh },
             elems := vmap (fun e => { e with vctDirty := false }) els, fab := { x.fab with acc := acc, dirtyRows := 0 },
             band := x.band.map fun b => { b with finished := inn.final } }
  y.powerShelves

/-- A context takes the content of its partner at once, with what follows from that. -/
def State.takeOver (s : State) (r : CtxRef) (k : CtxId) : State := ((s.swapCtx r k).dropUnconsumed r).addGathers r

/-- `SCROLL_OPEN` (R75, R76). -/
def execScrollOpen (c : ColId) (s : State) : Out :=
  if (s.col c).drift.forced.isSome then .next s else
  match s.holdOf c with
  | some (r, n, none) =>
    let s := match (s.col c).drift.hold with
      | some (t, _) => s.notice c 2 0 r.stage n.stage (s.now - t) []
      | none => s
    let early := r.ctxs.filter fun q => ((s.col c).ctx q.1 q.2).early
    let met := s.scrollReach c r.ctxs
    let last := s.now + s.colCycles c ((s.col c).windowCycles r n) - 1
    let s := s.modCol c fun x => x.commit last r n met
    let fresh := n.ctxs.filter fun q => !r.ctxs.contains q
    let d := (s.col c).drift
    .next ((early ++ fresh).foldl (fun s q => s.takeOver ⟨c, q.1, q.2⟩ (d.partner q.1 q.2)) s)
  | _ => .next s

/-! Saves and restores (R72, R73). -/

/-- Cycles that moving `n` bytes takes beside a stage that reserves `q` slots in each window (R72). -/
def moveCycles (n q : Nat) : Nat := ceilDiv n (512 - 32 * Nat.min q 15)

/-- Reserved slots of the hosted stage. -/
def Drift.q (d : Drift) : Nat := match d.cur with | some r => r.q | none => 0

/-- A move of `n` bytes begins at a cycle: the vertical ports are its until it ends (R72). -/
def State.beginMove (s : State) (c : ColId) (at_ n : Nat) : State :=
  let till := at_ + s.colCycles c (moveCycles n (s.col c).drift.q)
  s.modDrift c fun d => { d with moveTill := till }

/-- The restore in progress begins to read where its berth is in the shelf (R72). -/
def State.timeRestore (s : State) (c : ColId) : State :=
  let x := s.col c
  match x.drift.phase with
  | .restoring k _ => match x.drift.res k with
    | some r => if r.resident then (s.modDrift c fun d => { d with phase := .restoring k s.now, put := 0 }).beginMove c s.now (x.restoreBytes r) else s
    | none => s
  | _ => s

/-- The restore of a stage begins, and its weight shelves wake (R421). -/
def State.startRestore (s : State) (c : ColId) (r : StageRes) : State :=
  let s := (s.modDrift c fun d => { d with phase := .restoring r.stage s.now, put := 0, moveTill := 0, restored := false, stgRows := [] }).timeRestore c
  s.modCol c fun x => r.shelfList.foldl (fun (x : Column) h => x.askShelf h 0) x

/-- The commit window ends: the scroll notice is queued, refills are asked for, and the save of the outgoing stage begins (R73, R76, R79). -/
def State.windowEnd (s : State) (c : ColId) : State :=
  let x := s.col c
  match x.drift.phase with
  | .window last out inn =>
    if s.now ≤ last then s
    else
      let info := match x.drift.res inn with | some r => x.restoreBytes r | none => 0
      let y := match x.drift.res out with | some r => x.saveBytes r x.drift.outD | none => 0
      let s := (s.modDrift c fun d => { d with phase := .saving out (last + 1) }).beginMove c (last + 1) y
      (s.notice c 0 0 out inn info []).askRefills c
  | _ => s

/-- The stage in the shadows is gone, and its contexts await the next restore. -/
def State.loadShadows (s : State) (c : ColId) (n : StageRes) : State :=
  let d := (s.col c).drift
  n.ctxs.foldl (fun (s : State) q => s.clearCtx ⟨c, q.1, d.partner q.1 q.2⟩ .loading) s

/-- The restore of the next stage into the shadows begins (R73). -/
def State.nextRestore (s : State) (c : ColId) : State :=
  match (s.col c).drift.next with
  | some n => (s.startRestore c n).loadShadows c n
  | none => s.modDrift c fun d => { d with phase := .idle }

/-- The wiring of a stage's contexts as they stand. -/
def Column.wiringOf (x : Column) (r : StageRes) : List Wiring :=
  let v := x.drift.view r.stage
  r.ctxs.map fun q => let k := x.place v q; let y := x.ctx k.1 k.2; ⟨q.1, q.2, y.seed, y.routes, y.b⟩

/-- A stage is saved into its berth, after another's that lies there has gone to the save area (R66, R70, R84): the bytes moved, and whether the image is tainted; none while the other's cannot go. -/
def State.saveBerth (s : State) (c : ColId) (r : StageRes) (o : OutDirty) (regs : Option (Vector DWord 32)) : Option (Nat × Bool × State) :=
  let w := (s.col c).wiringOf r
  (if r.saved && r.resident then some s else s.displace c r.stage).map fun s =>
    let (y, taint, s) := s.saveStage c r o regs
    let upd (q : StageRes) : StageRes := { q with saved := true, stored := true, resident := true, taint := taint, final := q.final || o.final, wiring := w }
    (y, taint, s.modDrift c fun d => { d.modRes r.stage upd with area := eraseKey r.stage d.area })

/-- Nothing of the hosted stage has been written since it was restored (R70). -/
def Column.clean (x : Column) : Column :=
  { x with cpu := { x.cpu with dirty := false }, fab := { x.fab with dirtyRows := 0 },
           elems := vmap (fun e => { e with vctDirty := false, ctxs := vmap (fun y => { y with dirty := false }) e.ctxs }) x.elems,
           drift := { x.drift with dirtyNear := [] } }

/-- A forced scroll has saved the hosted stage: the slot returns to its lap-0 stage, by a restore if another is hosted (R83). A restore that the forced scroll cut short begins again (assumption log 88). -/
def State.returnHome (s : State) (c : ColId) : State :=
  let d := (s.col c).drift
  match d.seq.head? with
  | none => s
  | some h =>
    if h.stage ≠ d.hosted then s.startRestore c h
    else
      let s := s.modDrift c fun d => { d with forced := none, phase := .idle }
      if d.restored then s else (s.nextRestore c).askRefills c

/-- The outgoing stage of a scroll, or the hosted stage of a forced scroll, is saved and the next move begins (R73, R83). A save that was in progress as a forced scroll began ends before its notice. -/
def State.saveDone (s : State) (c : ColId) (r : StageRes) : State :=
  let x := s.col c
  let hosted := x.drift.hosted == r.stage
  match s.saveBerth c r (if hosted then x.dirtyNow else x.drift.outD) none with
  | none => s
  | some (_, _, s) =>
    let s := s.modDrift c fun d => { d with outD := { d.outD with stay := [] }, phase := .idle }
    match (s.col c).drift.forced with
    | some f => if f.noticed then s.returnHome c else s
    | none => s.nextRestore c

/-- `BERTH_SAVE_DONE`: after T_save, once every context of the scroll has passed its marker (R72, R73). -/
def execBerthSaveDone (c : ColId) (s : State) : Out :=
  let s := s.windowEnd c
  let x := s.col c
  match x.drift.phase with
  | .saving stage _ =>
    (match x.drift.res stage with
     | none => .next (s.modDrift c fun d => { d with phase := .idle })
     | some r => if x.scrolling || s.now < x.drift.moveTill then .next s else .next (s.saveDone c r))
  | _ => .next s

/-- The lap-0 stage of a forced scroll takes the place of the hosted one (R83): tokens that wait in the queue banks stay. Weight shelves that are not ready for it are hosted as they are (assumption log 88). -/
def State.hostAgain (s : State) (c : ColId) (r : StageRes) (raw : List (List Byte)) : State :=
  let d := (s.col c).drift
  let old := match d.cur with | some o => o.ctxs | none => []
  let sh := match d.cur with
    | some o => vmapIdx (fun h k =>
        if r.shelves.getLsbD h && k == .ready r.stage then Shelf.hosted else if o.shelves.getLsbD h && k == .hosted then .ready o.stage else k) d.shelves
    | none => d.shelves
  let empty (s : State) (q : ElemId × CtxId) : State :=
    let a : CtxRef := ⟨c, q.1, q.2⟩
    ((s.cutStream a).releaseUnits a).modCtx a fun x => { x.cleared with q := x.q, st := .empty }
  let s := old.foldl empty s
  let s := s.modDrift c fun d => { d with hosted := r.stage, lap := 0, odd := decide (d.position r.stage % 2 = 1), shelves := sh, outD := { d.outD with stay := [] } }
  let s := (s.putImage c r ((s.col c).drift.view r.stage) raw s.now).modCol c fun x => x.clean.powerShelves
  let s := s.modCol c fun x => { x with band := x.band.map fun b => { b with finished := r.final } }
  let s := r.ctxs.foldl (fun (s : State) q => (s.dropUnconsumed ⟨c, q.1, q.2⟩).addGathers ⟨c, q.1, q.2⟩) s
  s.modDrift c fun d => { d with forced := none, restored := false, asked := [], hold := none }

/-- A restore has met an image of another stage, or none: it ends without one. -/
def State.noImage (s : State) (c : ColId) : State := s.modDrift c fun d => { d with phase := .idle, forced := none }

/-- An error met a frame of a stage's image (R67). -/
def State.taintStage (s : State) (c : ColId) (stage : Nat) (t : Bool) : State :=
  if t then s.modDrift c fun d => d.modRes stage fun r => { r with taint := true } else s

/-- The restore of a forced scroll ends: the whole image over the hosted contexts (R83). -/
def State.restoreHome (s : State) (c : ColId) (r : StageRes) : State :=
  match s.readBerth c r with
  | (none, s) => s.noImage c
  | (some (raw, _, t), s) => ((((s.taintStage c r.stage t).hostAgain c r raw).nextRestore c).askRefills c)

/-- The frames of a restore into the shadows that have arrived are put in place, each context live from the cycle after its record's arrival (R73); with the last one the restore is complete. -/
def State.restoreStep (s : State) (c : ColId) (r : StageRes) (start : Nat) : State :=
  let d := (s.col c).drift
  let (dir, t, s) := if d.put = 0 then s.berthDir c r else (some [], false, s)
  if dir.isNone then s.noImage c
  else
    let lens := (s.col c).berthLens r
    let n := moveBytes lens
    let due (m : Nat) : Nat := start + moveCycles m d.q * (d.moveTill - start) / Nat.max (moveCycles n d.q) 1 + 24
    let ready := ((frameEnds lens 512 (r.order lens.length)).drop d.put).takeWhile fun f => decide (due f.2.2 ≤ s.now)
    let one (s : State) (f : Nat × Nat × Nat) : State :=
      let (g, t, s) := s.berthFrame c r f.1 f.2.1
      (s.taintStage c r.stage t).putFrame c r (d.view r.stage) (due f.2.2 + 1) f.1 g
    let s := (ready.foldl one (s.taintStage c r.stage t)).modDrift c fun d => { d with put := d.put + ready.length }
    if (s.col c).drift.put < lens.length then s
    else (s.modDrift c fun d => { d with phase := .idle, restored := true, stgBytes := n }).chargeBerth c (d.berthAt r.stage) n

/-- `BERTH_RESTORE_DONE`: the frames of a restore that have arrived by now, with the berth in its shelf (R72, R73). -/
def execBerthRestoreDone (c : ColId) (s : State) : Out :=
  let x := s.col c
  match x.drift.phase with
  | .restoring stage t =>
    (match x.drift.res stage with
     | none => .next (s.noImage c)
     | some r =>
       if !r.resident then .next s
       else if x.drift.forced.isNone then .next (s.restoreStep c r t)
       else if s.now < x.drift.moveTill + 24 then .next s else .next (s.restoreHome c r))
  | _ => .next s

/-! Holds, as time passes (R77, R81). -/

/-- One column's hold over `n` of its cycles, which begin now: the hold starts with the first of them. -/
def State.holdFlow (s : State) (c : ColId) (n : Nat) : State :=
  match s.holdOf c with
  | some (r, k, some cause) =>
    let s := match (s.col c).drift.hold with
      | some _ => s
      | none => (s.modDrift c fun d => { d with hold := some (s.now, cause) }).notice c 1 cause r.stage k.stage 0 []
    s.modDrift c fun d => d.count (if cause = 2 then 2 else if cause = 3 then 3 else 1) n
  | _ => s

/-! Forced scrolls (R83). -/

/-- A queue without the tokens of open waves: what is kept, what is discarded, and whether it ends inside a wave. -/
def splitWave (open_ : List (BitVec 48)) : Bool → List QTok → List QTok × List QTok × Bool
  | b, [] => ([], [], b)
  | b, q :: r =>
    let t := q.tok
    let starts := t.marker && t.sub == 0#4 && open_.contains t.wave
    let ends := b && t.marker && t.sub == 1#4
    let (k, x, e) := splitWave open_ (if starts then true else if ends then false else b) r
    if starts || b then (k, q :: x, e) else (q :: k, x, e)

/-- Discards the tokens of open waves at one port. -/
def State.flushPort (s : State) (p : PortRef) (open_ : List (BitVec 48)) : State :=
  let q := (s.ctx p.at_).q.get p.port
  let (keep, gone, inside) := splitWave open_ q.wave q.toks
  let s := s.modCtx p.at_ fun x => { x with q := vmod x.q p.port fun k => { k with toks := keep, wave := inside } }
  let n := (gone.filter fun q => !q.tok.marker).length
  let count (f : Forced) : Forced := { f with tokens := f.tokens + n }
  let s := s.modDrift p.at_.col fun d => { d with forced := d.forced.map count }
  gone.foldl (fun s q => (s.credit q.cred s.now).endTokSonde q.tok 0) s

/-- Scrolls that are still on their way through a slot complete. -/
def State.finishScroll (s : State) (c : ColId) : State :=
  let d := (s.col c).drift
  let refs : List CtxRef := (upTo 128).map fun i => ⟨c, fin 31 (i / 4), fin 3 (i % 4)⟩
  let s := refs.foldl (fun (s : State) r => s.exchange r) s
  let left := refs.filter fun r => (s.ctx r).scroll
  let s := left.foldl (fun s r => (s.takeOver r (d.partner r.elem r.ctx)).scrolled r) s
  let cut (p : DriftPhase) : DriftPhase := match p with
    | .window last o i => .window (Nat.min last (s.now - 1)) o i
    | p => p
  if s.now = 0 then s else (s.modDrift c fun d => { d with phase := cut d.phase }).windowEnd c

/-- A forced scroll starts at one slot: a commit window is finished first, then the open waves are discarded. -/
def State.forceSlot (s : State) (c : ColId) : State :=
  let s := s.finishScroll c
  let d := (s.col c).drift
  let ws := d.waves.map fun w => w.1
  let least := ws.foldl (fun (m : Option (BitVec 48)) w => match m with | none => some w | some v => some (if w.toNat < v.toNat then w else v)) none
  let f : Forced := ⟨least, BitVec.ofNat 48 (maxList (ws.map fun w => w.toNat)), ws.length, 0, ws, false⟩
  let s := s.modDrift c fun d => { d with forced := some f, waves := [], scrollq := [] }
  (upTo 512).foldl (fun s i => s.flushPort ⟨⟨c, fin 31 (i / 16), fin 3 (i / 4 % 4)⟩, fin 3 (i % 4)⟩ ws) s

/-- A forced scroll of the whole band of a task. -/
def State.forceBand (s : State) (cols : List ColId) : State := cols.foldl (fun s c => s.forceSlot c) s

/-- A token is on a link into a column. -/
def State.linkBusy (s : State) (c : ColId) : Bool :=
  s.flights.any fun f => match f.dest, f.cred with
    | .port p, .exit _ _ => p.at_.col == c
    | _, _ => false

/-- `FLUSH_NOTICE`: the tokens in flight have landed, and a save in progress has ended; a slot that has discarded something says so, and saves its hosted stage (R83). A restore in progress is cut short (assumption log 88). -/
def execFlushNotice (c : ColId) (s : State) : Out :=
  let d := (s.col c).drift
  match d.forced, d.cur with
  | some f, some r =>
    let busy := match d.phase with | .idle => false | .restoring _ _ => false | _ => true
    let moving := match d.op with | some o => o.begun.isSome | none => false
    if f.noticed || s.linkBusy c || busy || moving then .next s
    else
      let first := (f.first.getD 0).toNat
      let some_ := decide (0 < f.waves) || decide (0 < f.tokens)
      let s := s.modDrift c fun d => (d.count 4 f.waves).count 5 f.tokens
      let s := if some_ then s.notice c 3 0 d.hosted d.hosted first (leBytes 8 f.last.toNat ++ leBytes 8 f.tokens) else s
      if 2 ≤ d.seq.length then
        let s := s.modDrift c fun d => { d with forced := some { f with noticed := true }, phase := .saving d.hosted s.now }
        .next (s.beginMove c s.now ((s.col c).saveBytes r (s.col c).dirtyNow))
      else .next (s.modDrift c fun d => { d with forced := none })
  | some _, none => .next (s.modDrift c fun d => { d with forced := none })
  | none, _ => .next s

/-! The drift forms (R253 to R256). -/

/-- `dband`. -/
def execDband (d a : BitVec 5) (s : State) : Out :=
  onColumn s fun c => do
    let v := s.g a
    res0 v 63 4
    let x := s.col c
    if !x.drift.on then .ok (s.ret d allOnes64)
    else .ok ((s.modDrift c fun k => { k with mask := field v 0 4 }).ret d (BitVec.setWidth 64 x.drift.mask))

/-- `dstage` (R254): the stage may sit on another slot of the band. -/
def execDstage (d a : BitVec 5) (s : State) : Out :=
  onColumn s fun c => do
    let v := s.g a
    res0 v 63 16
    let k := bitsNat v 15 0
    match s.taskOf c with
    | none => .ok (s.ret d allOnes64)
    | some t =>
      let size := Nat.max t.cols.length 1
      if !(s.col c).drift.on || t.n ≤ k then .ok (s.ret d allOnes64)
      else
        let x := s.col (nth c t.cols (k % size))
        let dr := x.drift
        match dr.res k with
        | none => .ok (s.ret d allOnes64)
        | some r =>
          let hosted := dr.hosted == k
          let leaving := match dr.phase with | .window _ o _ => o == k | .saving o _ => o == k | _ => false
          let fin := r.final || (hosted && (match x.band with | some b => b.finished | none => false)) || (leaving && dr.outD.final)
          .ok (s.ret d (BitVec.ofNat 64 (k % size + k / size * 2 ^ 8 + (if dr.weightsReady r then 2 ^ 24 else 0) +
            (if r.resident && r.stored && dr.berth.isSome then 2 ^ 25 else 0) + (if fin then 2 ^ 26 else 0) + (if hosted then 2 ^ 27 else 0))))

/-- A save, restore, rollback, commit or forced scroll occupies the drift controller. -/
def Drift.occupied (d : Drift) : Bool := d.op.isSome || d.forced.isSome || (match d.phase with | .idle => false | _ => true)

/-- `dsave`. -/
def execDsave (d : BitVec 5) (s : State) : Out :=
  onColumn s fun c =>
    let x := s.col c
    if !x.drift.on || x.drift.berth.isNone then .ok (s.ret d 1)
    else if x.drift.occupied then .ok (s.ret d 2)
    else .ok ((s.modDrift c fun k => { k with op := some ⟨false, none, x.cpu.g⟩ }).ret d 0)

/-- `drest`. -/
def execDrest (d : BitVec 5) (s : State) : Out :=
  onColumn s fun c =>
    let x := s.col c
    if !x.drift.on || x.drift.berth.isNone then .ok (s.ret d 1)
    else if x.drift.occupied then .ok (s.ret d 2)
    else match x.drift.cur with
      | none => .ok (s.ret d 3)
      | some r =>
        if !r.resident || (s.readBerth c r).1.isNone then .ok (s.ret d 3)
        else .ok ((s.modDrift c fun k => { k with op := some ⟨true, none, x.cpu.g⟩ }).ret d 0)

/-- The stage is quiescent: no data token queued, no firing executing, no AG request in flight (R255). -/
def State.quiescent (s : State) (c : ColId) (r : StageRes) : Bool :=
  r.ctxs.all fun q =>
    let x := s.ctx ⟨c, q.1, q.2⟩
    s.atRest ⟨c, q.1, q.2⟩ && (x.q.toList.all fun p => p.toks.all fun t => t.tok.marker) &&
    (match x.strm with | some m => m.out.isEmpty && m.reqs.all fun y => y.allDone | none => true)

/-- `STAGE_QUIESCE`: from this cycle on no context of the stage fires, and the save or the rollback moves (R72, R255). -/
def execStageQuiesce (c : ColId) (s : State) : Out :=
  let x := s.col c
  match x.drift.op, x.drift.cur with
  | some o, some r =>
    if o.begun.isSome || x.drift.forced.isSome || !s.quiescent c r then .next s
    else
      let s := s.modDrift c fun d => { d with op := some { o with begun := some s.now } }
      .next (s.beginMove c s.now (if o.rollback then x.restoreBytes r else x.saveBytes r x.dirtyNow))
  | _, _ => .next s

/-- The class-13 message of a save or a rollback (R241). -/
def State.driftMsg (s : State) (c : ColId) (kind : Nat) (failed : Bool) (bytes : Nat) : State :=
  s.selfQueue (.col c) (selfMsg (.col c) 13 (BitVec.ofNat 64 (kind + (if failed then 2 ^ 24 else 0))) (s.cyc (stackOf c)) (BitVec.ofNat 64 bytes) none)

/-- `DSAVE_DONE`. -/
def execDsaveDone (c : ColId) (s : State) : Out :=
  let x := s.col c
  match x.drift.op, x.drift.cur with
  | some o, some r =>
    if o.rollback || o.begun.isNone || s.now < x.drift.moveTill then .next s
    else match s.saveBerth c r x.dirtyNow (some o.regs) with
      | none => .next s
      | some (y, taint, s) => .next ((s.modDrift c fun d => { d with op := none }).driftMsg c 2 taint y)
  | _, _ => .next s

/-- `DREST_DONE`: the registers are replaced when the sequencer is idle. -/
def execDrestDone (c : ColId) (s : State) : Out :=
  let x := s.col c
  match x.drift.op, x.drift.cur with
  | some o, some r =>
    if !o.rollback || o.begun.isNone || x.cpu.busy || s.now < x.drift.moveTill + 24 then .next s
    else match s.readBerth c r with
      | (none, s) => .next ((s.modDrift c fun d => { d with op := none }).driftMsg c 3 true 0)
      | (some (raw, n, t), s) =>
        let s := ((s.taintStage c r.stage t).putImage c r (x.drift.view r.stage) raw s.now).modCol c Column.clean
        .next ((s.modDrift c fun d => { d with op := none }).driftMsg c 3 false n)
  | _, _ => .next s

/-- Places the oldest waiting scroll marker, if the injection port has a slot free (R256). -/
def State.placeScroll (s : State) (c : ColId) : State :=
  match (s.col c).drift.scrollq with
  | [] => s
  | (p, m) :: r =>
    if (s.col c).injFree = 0 then s
    else (s.modDrift c fun d => { d with scrollq := r }).inject p m s.now

/-- `SCROLL_MARKER_PLACE`. -/
def execScrollMarkerPlace (c : ColId) (s : State) : Out := .next (s.placeScroll c)

/-- A slot of the column's band has a forced scroll in progress (R83, R253). -/
def State.bandForced (s : State) (cols : List ColId) : Bool := cols.any fun c => (s.col c).drift.forced.isSome

/-- The scroll marker that ends the train follows what an AG read stream of the stage has queued (R256); a source context whose stream has ended sends it itself. A context that an index port feeds takes it from there (assumption log 89). -/
def State.cueSource (s : State) (r : CtxRef) (m : Token) : State :=
  let x := s.ctx r
  let scrolls := (s.col r.col).drift.scrolls
  if hRole x.hdr != .ag || !hSource x.hdr then s
  else match x.strm with
    | some k =>
      if k.write then s
      else (s.formReplies r).modCtx r fun y => { y with strm := y.strm.map fun k => { k with out := k.out ++ [m] }, early := scrolls }
    | none => s.modCtx r fun y => { y with cue := true }

/-- `dscrl` (R256). -/
def execDscrl (d : BitVec 5) (b : BitVec 1) (s : State) : Out :=
  onColumn s fun c =>
    let x := s.col c
    let cols := match s.taskOf c with | some t => t.cols | none => [c]
    if !x.drift.on then .ok (s.ret d 1)
    else if s.bandForced cols then .ok (s.ret d 2)
    else
      let s := s.drainFor (.col c) .sys
      if b = 1#1 then .ok ((s.forceBand cols).ret d 0)
      else match x.drift.cur with
        | none => .ok (s.ret d 0)
        | some r =>
          let m := scrollMarker (x.drift.after r).stage x.bandSize
          let chans := x.injOrd.map fun q => (q.1, m)
          let s := s.modDrift c fun k => { k with scrollq := k.scrollq ++ chans }
          let s := r.ctxs.foldl (fun (s : State) q => s.cueSource ⟨c, q.1, q.2⟩ m) s
          .ok ((iter (fun s => s.placeScroll c) chans.length s).ret d 0)

/-- `dqry`. -/
def execDqry (d : BitVec 5) (x : BitVec 1) (k : BitVec 3) (s : State) : Out :=
  onColumn s fun c =>
    let dr := (s.col c).drift
    if !dr.on then .ok (s.ret d 0)
    else if k = 7#3 then
      let code (h : Shelf) : Nat := match h with | .free => 0 | .filling _ => 1 | .ready _ => 2 | .hosted => 3 | .berth => 4
      .ok (s.ret d (BitVec.ofNat 64 (sumList ((upTo 16).map fun h => code (dr.shelves.get (fin 15 h)) * 2 ^ (3 * h)))))
    else
      let i := fin 6 k.toNat
      let v : DWord := BitVec.setWidth 64 (dr.cnt.get i)
      let s := if x = 1#1 then s.modDrift c fun k => { k with cnt := vset k.cnt i 0 } else s
      .ok (s.ret d v)

end Sys2Proof.Machine
end

