-- ==== Sys2Proof/Machine/Sha3.lean ====
section
/-! DEFINITION. SHA3-256, by which the part names graphs (R201), firmware (R430) and reports (R431). The spec names the function and does not define it: this is the one of FIPS 202 (assumption log 16). -/

namespace Sys2Proof.Machine

/-- A lane of the 5 by 5 state, at x + 5y. -/
def lane64 (a : List DWord) (i : Nat) : DWord := nth 0 a i

/-- The round constants. -/
def keccakRc : List DWord :=
  [0x0000000000000001#64, 0x0000000000008082#64, 0x800000000000808A#64, 0x8000000080008000#64, 0x000000000000808B#64, 0x0000000080000001#64,
   0x8000000080008081#64, 0x8000000000008009#64, 0x000000000000008A#64, 0x0000000000000088#64, 0x0000000080008009#64, 0x000000008000000A#64] ++
  [0x000000008000808B#64, 0x800000000000008B#64, 0x8000000000008089#64, 0x8000000000008003#64, 0x8000000000008002#64, 0x8000000000000080#64,
   0x000000000000800A#64, 0x800000008000000A#64, 0x8000000080008081#64, 0x8000000000008080#64, 0x0000000080000001#64, 0x8000000080008008#64]

/-- The rotation of each lane, at x + 5y. -/
def keccakRot : List Nat :=
  [0, 1, 62, 28, 27, 36, 44, 6, 55, 20, 3, 10, 43, 25, 39, 41, 45, 15, 21, 8, 18, 2, 61, 56, 14]

/-- One round. -/
def keccakRound (a : List DWord) (rc : DWord) : List DWord :=
  let c := (upTo 5).map fun x => lane64 a x ^^^ lane64 a (x + 5) ^^^ lane64 a (x + 10) ^^^ lane64 a (x + 15) ^^^ lane64 a (x + 20)
  let d := (upTo 5).map fun x => lane64 c ((x + 4) % 5) ^^^ (lane64 c ((x + 1) % 5)).rotateLeft 1
  let t := mapFrom (fun i (v : DWord) => (v ^^^ lane64 d (i % 5)).rotateLeft (nth 0 keccakRot i)) 0 a
  -- the lane at (x, y) moves to (y, 2x + 3y): position j = X + 5Y takes the lane whose y is X
  let b := (upTo 25).map fun j =>
    let x' := j % 5
    let y' := j / 5
    lane64 t ((x' + 3 * y') % 5 + 5 * x')
  let e := (upTo 25).map fun j =>
    let x := j % 5
    let y := j / 5
    lane64 b j ^^^ (~~~(lane64 b ((x + 1) % 5 + 5 * y)) &&& lane64 b ((x + 2) % 5 + 5 * y))
  match e with
  | v :: r => (v ^^^ rc) :: r
  | [] => []

/-- The permutation. -/
def keccakF (a : List DWord) : List DWord := keccakRc.foldl keccakRound a

/-- Absorbs blocks of 136 bytes. -/
def keccakAbsorb : Nat → List DWord → List Byte → List DWord
  | 0, a, _ => a
  | n + 1, a, bs =>
    let blk := bs.take 136
    let a := mapFrom (fun i (v : DWord) => if i < 17 then v ^^^ BitVec.ofNat 64 (leNat ((blk.drop (8 * i)).take 8)) else v) 0 a
    keccakAbsorb n (keccakF a) (bs.drop 136)

/-- The padding of a message of `n` bytes. -/
def sha3Pad (n : Nat) : List Byte :=
  let k := 136 - n % 136
  if k = 1 then [0x86#8] else 0x06#8 :: (List.replicate (k - 2) 0 ++ [0x80#8])

/-- SHA3-256 of a byte string: 32 bytes. -/
def sha3 (bs : List Byte) : List Byte :=
  let m := bs ++ sha3Pad bs.length
  ((keccakAbsorb (m.length / 136) (List.replicate 25 0) m).take 4).flatMap fun w => leBytes 8 w.toNat

end Sys2Proof.Machine
end

