-- ==== Sys2Proof/Machine/Objects.lean ====
section
/-! DEFINITION. The launch record and the Turvik object as the dispatcher and the mapper read them, and the checks that refuse a task (R9 to R17, R85, R198 to R202, R364, R365). -/

namespace Sys2Proof.Machine

open Sys2Proof

/-! The launch record (R9). -/

/-- A level entry: domain, scope, extent (R12). -/
structure Level where
  domain : Nat
  scope : Nat
  extent : Nat
  deriving DecidableEq, Repr

/-- The eight level entries of a record. -/
def Task.levels (t : Task) : List Level := (upTo 8).map fun i => ⟨t.fieldAt (0x40 + 4 * i) 1, t.fieldAt (0x41 + 4 * i) 1, t.fieldAt (0x42 + 4 * i) 2⟩

/-- Scope and extent of a used level suit its domain (R12). -/
def Level.ok (l : Level) : Bool :=
  match l.domain with
  | 0 => l.scope == 255 && l.extent == 0
  | 1 => (l.scope == 4 || l.scope == 3) && l.extent ≤ 1
  | 2 => l.scope == 2 && l.extent ≤ 4
  | 3 => l.scope == 5 && l.extent ≤ 1
  | 4 => l.scope == 1
  | 5 => l.scope == 255 && l.extent ≤ 32
  | 6 => l.scope == 0 && l.extent ≤ 32
  | 7 => l.scope == 255 && l.extent ≤ 64
  | 8 => l.scope == 255 && l.extent ≤ 32
  | _ => false

/-- A used level's domain is at least the domain above it, and no used level follows an unused one (R13). -/
def levelsOrdered : List Level → Bool
  | a :: b :: r => (b.domain == 0 || (a.domain != 0 && a.domain ≤ b.domain)) && levelsOrdered (b :: r)
  | _ => true

/-- The level table can be bound (R13). -/
def levelsBind (ls : List Level) : Bool :=
  (match ls with | l :: _ => l.domain != 0 | [] => false) && levelsOrdered ls && ls.all Level.ok

/-- The `res0` fields of a record are zero (R9). -/
def Task.res0 (t : Task) : Bool :=
  let z (off lo : Nat) : Bool := bitsNat (t.word off) 63 lo == 0
  z 0 48 && z 0x08 48 && z 0x30 12 && bitsNat (t.word 0x30) 7 7 == 0 && z 0x38 23 && z 0x60 48 && z 0x68 16 &&
  bitsNat (t.word 0x70) 63 21 == 0 && z 0x90 48 && z 0x98 32 && z 0xD0 32 && (t.record.drop 0xD8).all (· == 0)

/-- Every field of a record lies in its range, for partition `p` and port `q` (R9, R356). -/
def Task.inRange (t : Task) (p q : Nat) : Bool :=
  let al (off n : Nat) : Bool := t.fieldAt off 8 % n == 0
  al 0x08 4096 && al 0x60 8 && al 0x90 16 && al 0xB0 4096 && al 0xC0 4096 &&
  bitsNat (t.word 0x30) 6 4 == p && bitsNat (t.word 0x30) 3 0 == q && 1 ≤ t.b && t.b ≤ 256 && 1 ≤ t.n &&
  t.eclass ≤ 11 && decide (t.eslot < t.b)

/-- The STATUS with which a record alone refuses a task (R11): MAGIC or VERSION, a field, the level table. -/
def Task.recordStatus (t : Task) (p q : Nat) : Option Nat :=
  if t.fieldAt 0 4 ≠ 0x54535248 || t.fieldAt 4 2 ≠ 0x0100 then some 1
  else if !t.res0 || !t.inRange p q then some 2
  else if !levelsBind t.levels then some 3
  else none

/-! The Turvik object (R198 to R200). -/

/-- A reading of the object: its value, a refusal with a STATUS, or, as none, a page that is not present, for which the dispatcher waits. -/
abbrev Obj (α : Type) := Except (Option Nat) α

/-- A section (R199). -/
structure Section where
  stage : Nat
  space : Nat
  kind : Nat
  off : Nat
  size : Nat
  addr : Nat
  ok : Bool
  deriving DecidableEq, Repr

/-- A section-table entry. -/
def sectionOf (bs : List Byte) : Section :=
  let w (o : Nat) : Nat := leNat ((bs.drop o).take 8)
  let h := w 0
  { stage := h / 2 ^ 16 % 65536, space := h / 2 ^ 8 % 256, kind := h % 256, off := w 8, size := w 0x10, addr := w 0x18,
    ok := h / 2 ^ 32 == 0 && h / 2 ^ 8 % 256 ≤ 3 && 1 ≤ h % 256 && h % 256 ≤ 8 }

/-- A section that the loader puts into a space: neither the graph, nor the launch template, nor the symbols (R199). -/
def Section.loads (z : Section) (space : Nat) : Bool := z.space == space && !([1, 7, 8].contains z.kind)

/-- A record of the graph section: type, stage, and the bytes after its header (R200). -/
structure GraphRec where
  type : Nat
  stage : Nat
  body : List Byte
  deriving DecidableEq, Repr

/-- The records of the graph section; none for an unknown type, a length that runs past the section, or a `res0` field. `n` bounds their number. -/
def graphRecs : Nat → List Byte → Option (List GraphRec)
  | 0, _ => none
  | n + 1, bs =>
    if bs.isEmpty then some []
    else
      let h := leNat (bs.take 8)
      let len := h / 2 ^ 8 % 2 ^ 24
      let ty := h % 256
      if len < 8 || bs.length < len || ty < 1 || 4 < ty || h / 2 ^ 48 ≠ 0 then none
      else (graphRecs n (bs.drop (ceilDiv len 8 * 8))).map fun r => ⟨ty, h / 2 ^ 32 % 65536, (bs.take len).drop 8⟩ :: r

/-- `n` bytes of a record's body at an offset, as a number. -/
def GraphRec.at_ (r : GraphRec) (off n : Nat) : Nat := leNat ((r.body.drop off).take n)

/-- A record has the bytes of its type's fields, and its `res0` fields are zero (R200, R6). -/
def GraphRec.ok (r : GraphRec) : Bool :=
  match r.type with
  | 1 => r.at_ 0 4 / 2 ^ 10 == 0 && decide (16 ≤ r.body.length)
  | 2 => r.at_ 8 8 == 0 && decide (16 ≤ r.body.length)
  | 3 => decide (8 + 32 * r.at_ 6 2 ≤ r.body.length)
  | _ => decide (16 ≤ r.body.length)

/-- A context record: its element, its context, and its words. -/
structure GraphCtx where
  stage : Nat
  elem : Nat
  ctx : CtxId
  words : List Word
  deriving DecidableEq, Repr

/-- Bytes as 32-bit words. -/
def word32s (bs : List Byte) : List Word := (chunks 4 (bs.length / 4) bs).map fun b => BitVec.ofNat 32 (leNat b)

/-- A context record read. -/
def GraphRec.ctx (r : GraphRec) : GraphCtx := ⟨r.stage, r.at_ 0 4 % 32, fin 3 (r.at_ 0 4 / 2 ^ 8), word32s (r.body.drop 4)⟩

/-- The header word of a context record. -/
def GraphCtx.hdr (c : GraphCtx) : Word := nth 0 c.words 0
/-- Words that its part uses: U (R190). -/
def GraphCtx.u (c : GraphCtx) : Nat := partUse c.hdr (nth 0 c.words 2)
/-- Its content, if it keeps R189 and R190. -/
def GraphCtx.part (c : GraphCtx) : Option Part := parsePart (ceilDiv c.u 8 - 1) c.words
/-- It runs past element 31, so its stage is wide (R16). -/
def GraphCtx.wide (c : GraphCtx) : Bool := decide (32 < c.elem + hRep c.hdr)

/-- An edge between columns (R200): the stage, the element and the output port that it leaves, and the port at which it arrives. -/
structure GraphEdge where
  from_ : Nat
  src : Nat
  out : PortId
  dest : Nat
  elem : Nat
  port : PortId
  ctx : CtxId
  vch : BitVec 5
  feedback : Bool
  s : Nat
  deriving DecidableEq, Repr

/-- An edge record read. -/
def GraphRec.edge (r : GraphRec) : GraphEdge :=
  let w := r.at_ 0 8
  ⟨r.stage, w % 32, fin 3 (w / 2 ^ 5), w / 2 ^ 16 % 65536, w / 2 ^ 32 % 32, fin 3 (w / 2 ^ 37), fin 3 (w / 2 ^ 39), BitVec.ofNat 5 (w / 2 ^ 41), w / 2 ^ 46 % 2 == 1, w / 2 ^ 48⟩

/-- Resources of a stage (R200). -/
structure GraphRes where
  stage : Nat
  nsmap : BitVec 16
  nssa : BitVec 16
  needed : Nat
  q : Nat
  bytes : Nat
  shelves : BitVec 16
  frows : Nat
  res0 : Bool
  deriving DecidableEq, Repr

/-- A resources record read. -/
def GraphRec.res (r : GraphRec) : GraphRes :=
  let w := r.at_ 0 8
  let v := r.at_ 8 8
  { stage := r.stage, nsmap := BitVec.ofNat 16 w, nssa := BitVec.ofNat 16 (w / 2 ^ 16), needed := w / 2 ^ 32 % 16, q := w / 2 ^ 36 % 32,
    bytes := w / 2 ^ 48, shelves := BitVec.ofNat 16 v, frows := v / 2 ^ 16 % 512, res0 := w / 2 ^ 41 % 2 ^ 7 == 0 && v / 2 ^ 25 == 0 && v / 2 ^ 16 % 512 ≤ 256 && w / 2 ^ 36 % 32 ≤ 16 }

/-- An object as read: its sections and its graph. -/
structure Turvik where
  obj : Nat
  sections : List Section
  graph : List Byte
  recs : List GraphRec
  deriving DecidableEq, Repr

def Turvik.ctxs (o : Turvik) : List GraphCtx := (o.recs.filter fun r => r.type == 1).map GraphRec.ctx
def Turvik.edges (o : Turvik) : List GraphEdge := (o.recs.filter fun r => r.type == 2).map GraphRec.edge
def Turvik.primes (o : Turvik) : List (GraphEdge × List Byte) := (o.recs.filter fun r => r.type == 3).map fun r => (r.edge, r.body.drop 8)
def Turvik.res (o : Turvik) : List GraphRes := (o.recs.filter fun r => r.type == 4).map GraphRec.res

/-- Bytes at a device virtual address of the task. -/
def objBytes (h : Hub) (ptb : DWord) (va n : Nat) : Obj (List Byte) :=
  match h.readVirt ptb va n with
  | some bs => .ok bs
  | none => .error none

/-- A refusal with a STATUS unless a condition holds. -/
def objNeed (b : Bool) (status : Nat) : Obj Unit := if b then .ok () else .error (some status)

/-- A launch template: a launch record of 256 bytes whose OBJ, HASH, MBOX, SAVE and SPILL are zero (R199, R9). -/
def templateOk (bs : List Byte) : Bool :=
  let zero (o n : Nat) : Bool := ((bs.drop o).take n).all (· == 0#8)
  bs.length == 256 && zero 0x08 6 && zero 0x10 32 && zero 0x90 6 && zero 0xB0 8 && zero 0xC0 8

/-- The object of a task, with its header, table and graph section checked (R198 to R202). -/
def Task.object (t : Task) (h : Hub) (ptb : DWord) : Obj Turvik := do
  let obj := t.fieldAt 0x08 6
  let hd ← objBytes h ptb obj 64
  let w (o : Nat) : Nat := leNat ((hd.drop o).take 8)
  let nsec := w 0 / 2 ^ 48
  objNeed (w 0 % 2 ^ 32 == 0x4F4B5654 && w 0 / 2 ^ 32 % 65536 == 0x0100 && 1 ≤ nsec && nsec ≤ 255 && w 0x10 % 8 == 0 && (hd.drop 0x18).all (· == 0)) 6
  let tab ← objBytes h ptb (obj + w 0x10) (32 * nsec)
  let secs := (chunks 32 nsec tab).map sectionOf
  let one (k : Nat) : Bool := (secs.filter fun s => s.kind == k).length == 1
  objNeed (secs.all (fun s => s.ok && decide (s.off + s.size ≤ w 8)) && one 1 && one 7) 6
  match secs.find? (fun s => s.kind == 1), secs.find? fun s => s.kind == 7 with
  | some g, some z =>
    let tp ← objBytes h ptb (obj + z.off) z.size
    objNeed (templateOk tp) 6
    let bs ← objBytes h ptb (obj + g.off) g.size
    objNeed (sha3 bs == (t.record.drop 0x10).take 32) 5
    match graphRecs (bs.length / 8 + 1) bs with
    | none => .error (some 6)
    | some rs => .ok ⟨obj, secs, bs, rs⟩
  | _, _ => .error (some 6)

/-- The stream binding table (R365): BASE, SIZE and DISC of each entry. -/
def Task.bindings (t : Task) (h : Hub) (ptb : DWord) : Obj (List (Nat × Nat × Nat)) := do
  let n := t.fieldAt 0x68 2
  let bs ← objBytes h ptb (t.fieldAt 0x60 6) (16 * n)
  let es := (chunks 16 n bs).map fun b => (leNat (b.take 8), leNat (b.drop 8))
  objNeed (es.all fun e => e.1 / 2 ^ 48 == 0 && e.1 % 0x10000 == 0 && e.2 / 2 ^ 43 == 0 && e.2 / 2 ^ 40 % 4 != 3 && e.2 % 2 ^ 40 != 0) 2
  .ok (es.map fun e => (e.1, e.2 % 2 ^ 40, e.2 / 2 ^ 40 % 4))

/-! What the graph asks of the band. -/

/-- Slots that a stage occupies (R16). -/
def Turvik.occupancy (o : Turvik) (k : Nat) : Nat := if o.ctxs.any fun c => c.stage == k && c.wide then 2 else 1
/-- The first slot of a stage: in a pinned band after the stages before it, on a ring its number modulo B (R16). -/
def Turvik.firstSlot (o : Turvik) (t : Task) (k : Nat) : Nat := if t.drift then k % t.b else sumList ((upTo k).map o.occupancy)
/-- The stage of a slot at load (R16, R62). -/
def Turvik.stageAt (o : Turvik) (t : Task) (slot : Nat) : Nat :=
  if t.drift then slot else ((upTo t.n).filter fun k => o.firstSlot t k ≤ slot).length - 1
/-- Stages that a slot hosts, ascending (R61); the second slot of a wide stage hosts it too. -/
def Turvik.hosting (o : Turvik) (t : Task) (slot : Nat) : List Nat :=
  if t.drift then (upTo t.n).filter fun k => k % t.b == slot
  else (upTo t.n).filter fun k => o.firstSlot t k ≤ slot && decide (slot < o.firstSlot t k + o.occupancy k)

/-- Contexts that a stage uses on each element: element and context, replicas counted (R28). -/
def Turvik.used (o : Turvik) (k : Nat) : List (ElemId × CtxId) :=
  let cs := (o.ctxs.filter fun c => c.stage == k).flatMap fun c => (upTo (hRep c.hdr)).filterMap fun i => if c.elem + i < 32 then some (c.elem + i, c.ctx) else none
  ((upTo 32).flatMap fun e => ([0, 1, 2, 3] : List CtxId).map fun c => (e, c)).filterMap fun q => if cs.contains q then some (fin 31 q.1, q.2) else none

/-- The resources record of a stage. -/
def Turvik.resOf (o : Turvik) (k : Nat) : GraphRes :=
  (o.res.find? fun r => r.stage == k).getD ⟨k, 0, 0, 0, 0, 0, 0, 0, true⟩

/-- Distinct members of a list. -/
def distinct : List Nat → List Nat
  | [] => []
  | a :: r => if r.contains a then distinct r else a :: distinct r

/-- Positions of a context's copies in its stage: elements 32 to 63 are those of the stage's second slot (R16, R28). -/
def GraphCtx.copies (c : GraphCtx) : List Nat := (upTo (hRep c.hdr)).map fun i => c.elem + i

/-- Context records of a stage. -/
def Turvik.stageCtxs (o : Turvik) (k : Nat) : List GraphCtx := o.ctxs.filter fun c => c.stage == k

/-- The records of a stage that have a copy at a position. -/
def Turvik.ctxsAt (o : Turvik) (k pos : Nat) : List GraphCtx := (o.stageCtxs k).filter fun c => c.copies.contains pos

/-- The switch words of a record's output ports, each with its port. -/
def GraphCtx.switchWords (c : GraphCtx) : List (PortId × SW) :=
  match c.part with
  | none => []
  | some p => ([0, 1, 2, 3] : List PortId).flatMap fun o => (p.routes.get o).map fun h => (o, swOf h)

/-- The firing program of a record may choose the context at a destination (R286, R304). -/
def GraphCtx.tags (c : GraphCtx) : Bool := match c.part with | some p => (ewsOf p.prog).any fun w => opOf w == .tagctx | none => false

/-- The input ports of its own stage to which a switch word of a copy at a position delivers: position, context and port (R304, R306, R307). The gather point lies in the column of replica 0. -/
def Turvik.landings (o : Turvik) (c : GraphCtx) (pos : Nat) (w : SW) : List (Nat × CtxId × PortId) :=
  let k := fin 3 (c.ctx.val + w.cmap)
  let on (p : Nat) : List (Nat × CtxId × PortId) := (if c.tags then ([0, 1, 2, 3] : List CtxId) else [k]).map fun x => (p, x, fin 3 w.port)
  match w.form with
  | 2 | 10 => on (pos / 32 * 32 + w.elem)
  | 5 => match (o.stageCtxs c.stage).find? fun d => d.elem == pos / 32 * 32 + w.elem && d.ctx == k with
    | some d => d.copies.flatMap on
    | none => on (pos / 32 * 32 + w.elem)
  | 6 => on (c.elem / 32 * 32 + w.elem)
  | _ => []

/-- VCT entries that a stage needs at a position: those its contexts there set up, and those that name the tokens delivered there, ascending (R69). -/
def Turvik.vctUse (o : Turvik) (k pos : Nat) : List Nat :=
  let set := (o.ctxsAt k pos).flatMap fun c => match c.part with | some p => p.vct.map fun v => v.1 | none => []
  let named := (o.stageCtxs k).flatMap fun c => c.copies.flatMap fun q => c.switchWords.filterMap fun w =>
    if (o.landings c q w.2).any fun l => l.1 == pos then some w.2.vch.toNat else none
  let edges := (o.edges.filter fun e => e.dest == k && e.elem == pos).map fun e => e.vch.toNat
  (upTo 32).filter fun v => set.contains v || named.contains v || edges.contains v

/-- Scale registers that a stage needs at a position: those of its VCT updates and its `vfscl` words, ascending (R69). -/
def Turvik.scrUse (o : Turvik) (k pos : Nat) : List Nat :=
  let rs := (o.ctxsAt k pos).flatMap fun c => match c.part with
    | some p => p.vct.map (fun v => vctScr v.2) ++ ((ewsOf p.prog).filter fun w => opOf w == .vfscl).map fun w => w.imm % 16
    | none => []
  (upTo 16).filter fun r => rs.contains r

/-- Granules of a stage's raw image (R68). -/
def Turvik.rawGranules (o : Turvik) (k : Nat) : Nat :=
  let u := o.used k
  let es := (distinct (u.map fun q => q.1.val)).length
  73 + u.length + ceilDiv es 12 + ceilDiv (o.resOf k).frows 2

/-- The next stage of a stage on a ring (R62). -/
def Task.nextStage (t : Task) (k : Nat) : Nat := if k + t.b < t.n then k + t.b else k % t.b

/-- A stage of a drift graph keeps R16, R17 and R85. -/
def Turvik.driftStageOk (o : Turvik) (t : Task) (k : Nat) : Bool :=
  let r := o.resOf k
  let u := o.used k
  let perElem (e : Nat) : Nat := (u.filter fun q => q.1.val == e).length
  let nx := o.resOf (t.nextStage k)
  let ring := decide (k % t.b + t.b < t.n)
  o.occupancy k == 1 && (upTo 32).all (fun e => perElem e ≤ t.dctx && perElem e ≤ 4 - t.dctx && (o.vctUse k e).length ≤ 16 && (o.scrUse k e).length ≤ 8) &&
  r.bytes ≤ 36 * 1024 && o.rawGranules k ≤ 240 && r.q < 16 && popNat 16 r.shelves.toNat ≤ 15 &&
  (!ring || (popNat 16 (r.shelves ||| nx.shelves).toNat ≤ 15 && (r.shelves &&& nx.shelves) == 0))

/-- The berth shelf of a slot (R66): the highest shelf on a layer in service that no stage of the slot uses. -/
def Turvik.berthShelf (o : Turvik) (t : Task) (slot : Nat) (vret : BitVec 4) : Option (Fin 16) :=
  let taken := (o.hosting t slot).foldl (fun (m : BitVec 16) k => m ||| (o.resOf k).shelves) 0
  ((upTo 16).foldl (fun (b : Option (Fin 16)) h => if taken.getLsbD h || vret.getLsbD (h / 4) then b else some (fin 15 h)) none)

/-- The code of a section: all but the 20 handler words at its end (R199). -/
def Section.code (s : Section) : Nat := s.size - 80

/-- A word of code is one of the vertical forms (R113). -/
def isVertical (w : Word) : Bool :=
  match decode w with
  | .ok (.vldd ..) | .ok (.vstd ..) | .ok (.vcpy ..) => true
  | _ => false

/-- A slot's table gives away all four slots of some port (R112, R113). -/
def SlotPlan.portFull (p : SlotPlan) : Bool := (upTo 4).any fun k => (upTo 4).all fun j => p.resv.any fun r => r.1 == 4 * k + j

/-- A section belongs to a stage. -/
def Section.of (s : Section) (k : Nat) : Bool := s.stage == k || s.stage == 0xFFFF

/-- The graph refuses the task with STATUS 6 (R16, R17, R85, R190, R200). -/
def Turvik.graphOk (o : Turvik) (t : Task) : Bool :=
  o.recs.all (fun r => decide (r.stage < t.n) && r.ok) &&
  o.ctxs.all (fun c => c.u ≤ 24 && c.elem + hRep c.hdr ≤ 64) &&
  o.res.all (fun r => r.res0 && r.needed == popNat 16 r.shelves.toNat) &&
  o.edges.all (fun e => decide (e.dest < t.n)) &&
  (!t.drift || (1 ≤ t.dctx && (upTo t.n).all (o.driftStageOk t) && o.edges.all fun e => !e.feedback || e.from_ - e.dest ≤ t.b - 1))

end Sys2Proof.Machine
end

