-- ==== Sys2Proof/Machine/Mapping.lean ====
section
/-! DEFINITION. What the mapper writes from a graph and its choices: configuration parts (R28, R55, R63, R69, R303), exit tables (R48, R49, R308), extents (R296), weight images (R79), the checks that need the object's code (R49, R63, R113), and the cache of placed images (R201, R364). -/

namespace Sys2Proof.Machine

open Sys2Proof

/-! Sections in shelves (R79, R111, R199). -/

/-- The run of granules of a shelf whose bytes from `first` on, `step` apart in vertical addresses, a section holds; `n` granules of the shelf, the first at vertical byte `base`. -/
def Section.run (z : Section) (obj base first step n : Nat) : List WeightRun :=
  let last := z.addr + z.size
  let lo := if z.addr < first + 128 then 0 else (z.addr - first - 128) / step + 1
  let hi := if last ≤ first then 0 else Nat.min n (ceilDiv (last - first) step)
  if hi ≤ lo then []
  else [⟨base + 128 * lo, obj + z.off + (first + step * lo) - z.addr, step, hi - lo, obj + z.off, obj + z.off + z.size⟩]

/-- The runs of a section in a shelf, through the linear and the striped aperture (R111). -/
def Section.runs (z : Section) (obj h : Nat) : List WeightRun :=
  z.run obj (shelfBase h) (h / 4 * 2 ^ 25 + h % 4 * shelfBytes) 128 (shelfBytes / 128) ++
  z.run obj (shelfBase h) (0x8000000 + h % 4 * (shelfBytes / 128) * 512 + h / 4 * 128) 512 (shelfBytes / 128)

/-- The weight images of a stage in the object: each of its weight shelves with its runs (R79, R199). -/
def Turvik.weightRuns (o : Turvik) (k : Nat) : List (Nat × WeightRun) :=
  let zs := o.sections.filter fun z => z.kind == 4 && z.loads 2 && z.of k
  ((upTo 16).filter fun h => (o.resOf k).shelves.getLsbD h).flatMap fun h => (zs.flatMap fun z => z.runs o.obj h).map fun r => (h, r)

/-! Handler code. -/

/-- The words of the code sections of a stage (R199). -/
def stageCode (h : Hub) (ptb : DWord) (o : Turvik) : List Section → Obj (List Word)
  | [] => .ok []
  | z :: r => do
    let bs ← objBytes h ptb (o.obj + z.off) z.code
    let ws ← stageCode h ptb o r
    .ok (word32s bs ++ ws)

/-- The code sections of a stage. -/
def Turvik.codeOf (o : Turvik) (k : Nat) : List Section := o.sections.filter fun z => z.kind == 2 && z.loads 1 && z.of k

/-- A word of code is one of the injecting forms (R246). -/
def isInjecting (w : Word) : Bool :=
  match decode w with
  | .ok (.inj ..) | .ok (.injm ..) | .ok (.prime ..) => true
  | _ => false

/-- What the code of a stage holds: one of the vertical forms, and one of the injecting forms. -/
structure CodeUse where
  stage : Nat
  vertical : Bool
  injects : Bool
  deriving DecidableEq, Repr

/-- What the code of the first `n` stages holds. -/
def codeUses (h : Hub) (ptb : DWord) (o : Turvik) : Nat → Obj (List CodeUse)
  | 0 => .ok []
  | n + 1 => do
    let us ← codeUses h ptb o n
    let ws ← stageCode h ptb o (o.codeOf n)
    .ok (us ++ [⟨n, ws.any isVertical, ws.any isInjecting⟩])

/-! The edges of the graph. -/

/-- A context of a graph: stage, position and context. -/
abbrev GraphNode := Nat × Nat × CtxId

/-- An edge between two contexts: its ends, its input port, and its capacity (R49, R307). -/
structure NetEdge where
  src : GraphNode
  dst : GraphNode
  port : PortId
  cap : Nat
  deriving DecidableEq, Repr

/-- Edges of a record within its stage. An edge into a gather point holds one token more than the queue behind the point (assumption log 92). -/
def Turvik.localNet (o : Turvik) (c : GraphCtx) : List NetEdge :=
  c.copies.flatMap fun pos => c.switchWords.flatMap fun w => (o.landings c pos w.2).map fun l =>
    ⟨(c.stage, pos, c.ctx), (c.stage, l.1, l.2.1), l.2.2, if w.2.form = 6 then 5 else 4⟩

/-- A record leaves its stage on an output port: its route there holds an `exit` word, or is empty (R303). -/
def GraphCtx.exits (c : GraphCtx) (p : PortId) : Bool :=
  let ws := c.switchWords.filter fun w => w.1 == p
  ws.isEmpty || ws.any fun w => w.2.form == 7

/-- The edges between the contexts of a graph. -/
def Turvik.net (o : Turvik) : List NetEdge :=
  o.ctxs.flatMap o.localNet ++ o.edges.flatMap fun e =>
    ((o.ctxsAt e.from_ e.src).filter fun c => c.exits e.out).map fun c => ⟨(c.stage, e.src, c.ctx), (e.dest, e.elem, e.ctx), e.port, e.s⟩

/-- What is reached from some contexts over edges in at most `n` rounds. -/
def reached (net : List NetEdge) : Nat → List GraphNode → List GraphNode
  | 0, ns => ns
  | n + 1, ns =>
    let new := net.foldl (fun (acc : List GraphNode) e => if ns.contains e.src && !ns.contains e.dst && !acc.contains e.dst then e.dst :: acc else acc) []
    if new.isEmpty then ns else reached net n (new ++ ns)

/-- An edge with its ends exchanged. -/
def NetEdge.flip (e : NetEdge) : NetEdge := { e with src := e.dst, dst := e.src }

/-- The occupancy limit of a merge at a node with feedback port `fb` (R55, R288): the capacities of the edges on its cycles, less one, at most 65535. -/
def mergeLimit (net : List NetEdge) (m : GraphNode) (fb : PortId) : Nat :=
  let n := net.length + 1
  let from_ := reached net n [m]
  let ends := (net.filter fun e => e.dst == m && e.port == fb).map NetEdge.src
  let back := reached (net.map NetEdge.flip) n ends
  let on := net.filter fun e => from_.contains e.src && (if e.dst == m then e.port == fb else back.contains e.dst)
  Nat.min (sumList (on.map NetEdge.cap) - 1) 65535

/-- Every context of a drift stage is reached from its input edges or one of its source contexts, and, where its code injects, from a context that no route feeds (R63, R85, assumption log 91). -/
def Turvik.allReached (o : Turvik) (us : List CodeUse) (k : Nat) : Bool :=
  let cs := (o.stageCtxs k).flatMap fun c => c.copies.map fun p => (c, ((k, p, c.ctx) : GraphNode))
  let net := (o.stageCtxs k).flatMap o.localNet
  let injects := us.any fun u => u.stage == k && u.injects
  let starts := (o.edges.filter fun e => e.dest == k).map (fun e => ((k, e.elem, e.ctx) : GraphNode)) ++
    (cs.filter fun c => hSource c.1.hdr || (injects && !net.any fun e => e.dst == c.2)).map fun c => c.2
  let all := reached net (net.length + 1) starts
  cs.all fun c => all.contains c.2

/-! Numbers of VCT entries and scale registers (R69). -/

/-- New numbers in a half of `n` for the old ones: each keeps its low bits where that number is free, else it takes the lowest free one that agrees modulo `step`, or the lowest free one (DESIGN CHOICE, assumption log 92). -/
def renumber (n step half : Nat) (used : List Nat) : List (Nat × Nat) :=
  used.foldl (fun (ms : List (Nat × Nat)) v =>
    let near := (upTo n).filter fun x => x % step == v % step
    let cands := (v % n :: near ++ upTo n).map fun x => n * half + x
    match cands.find? fun x => !(ms.any fun m => m.2 == x) with
    | some x => ms ++ [(v, x)]
    | none => ms) []

/-- The half of the tables that a drift stage uses: that of its position, or none where the whole tables are its own (R69). -/
def Turvik.half (o : Turvik) (t : Task) (k : Nat) : Option Nat :=
  if t.drift && decide (2 ≤ (o.hosting t (k % t.b)).length) then some (k / t.b % 2) else none

/-- The VCT entry that takes the place of one that a stage names at a position. -/
def Turvik.vchAt (o : Turvik) (t : Task) (k pos v : Nat) : Nat :=
  match o.half t k with
  | none => v
  | some h => lookupD v v (renumber 16 4 h (o.vctUse k pos))

/-- The scale register that takes the place of one that a stage names at a position. -/
def Turvik.scrAt (o : Turvik) (t : Task) (k pos r : Nat) : Nat :=
  match o.half t k with
  | none => r
  | some h => lookupD r r (renumber 8 1 h (o.scrUse k pos))

/-! Configuration parts. -/

/-- The `exit` word of an index (R303). -/
def exitWord (i : Nat) : Half := BitVec.ofNat 16 (0x7000 + i % 128 * 32)

/-- The indices of the exits that leave an output port of an element of a stage: its links in the order of the graph, then its engines. -/
def Turvik.exitsOf (o : Turvik) (m : MapperPlan) (k elem : Nat) (p : PortId) : List Nat :=
  ((mapFrom (fun i e => (i, e)) 0 o.edges).filter fun q => q.2.from_ == k && q.2.src == elem && q.2.out == p).filterMap
    (fun q => (m.links.find? fun l => l.1 == q.1).map fun l => l.2) ++
  (m.te.filter fun l => l.stage == k && l.elem == elem && l.port == p).map fun l => l.index

/-- A route with its `exit` words filled in, in order. -/
def fillExits : List Nat → List Half → List Half
  | _, [] => []
  | ixs, h :: hs =>
    if (swOf h).form = 7 then
      match ixs with
      | i :: r => exitWord i :: fillExits r hs
      | [] => h :: fillExits [] hs
    else h :: fillExits ixs hs

/-- A switch word of a record with its VCH in the half of the stage that it feeds. -/
def Turvik.switchIn (o : Turvik) (t : Task) (c : GraphCtx) (h : Half) : Half :=
  let w := swOf h
  match (o.landings c c.elem w).head? with
  | some l => putField h 0 (BitVec.ofNat 3 (o.vchAt t c.stage l.1 w.vch.toNat / 4))
  | none => h

/-- The route of an output port: an output with a link and no route of its own gets a route of the exit alone (R303). -/
def Turvik.routeIn (o : Turvik) (t : Task) (m : MapperPlan) (c : GraphCtx) (p : PortId) (hs : List Half) : List Half :=
  let ixs := o.exitsOf m c.stage c.elem p
  if hs.isEmpty then (ixs.take 1).map exitWord else (fillExits ixs hs).map (o.switchIn t c)

/-- The VCH of a completion token of a record, renumbered for the stage that its port feeds (R69, R140). -/
def Turvik.compIn (o : Turvik) (t : Task) (c : GraphCtx) (c6 : Word) : Word :=
  let v := bitsNat c6 7 3
  let inner := (c.switchWords.filter fun w => w.1 == c6Port c6).flatMap fun w => (o.landings c c.elem w.2).map fun l => (c.stage, l.1)
  let outer := (o.edges.filter fun e => e.from_ == c.stage && e.src == c.elem && e.out == c6Port c6).map fun e => (e.dest, e.elem)
  match (inner ++ outer).head? with
  | some l => if hRole c.hdr == .ag && c6.getLsbD 0 then putField c6 3 (BitVec.ofNat 5 (o.vchAt t l.1 l.2 v)) else c6
  | none => c6

/-- The header of a record: in a drift band SHADOW and SWSUB are the mapper's (R63). -/
def Turvik.headerIn (o : Turvik) (t : Task) (d : Drift) (c : GraphCtx) : Word :=
  if !t.drift then c.hdr
  else if (o.half t c.stage).isNone then putField c.hdr 0 (BitVec.ofNat 2 c.ctx.val)
  else putField (putField c.hdr 0 (BitVec.ofNat 2 (d.partner (fin 31 c.elem) c.ctx).val)) 2 (6 : BitVec 3)

/-- The content of a record's part as the mapper writes it, with its CMASK; none where the record's own content breaks R189 or R190. `d` holds the hosting sequence of the slot. -/
def Turvik.partIn (o : Turvik) (t : Task) (m : MapperPlan) (d : Drift) (c : GraphCtx) : Option (Part × Nat) :=
  match c.part with
  | none => none
  | some p =>
    let mask := bitsNat (nth 0 c.words 2) 7 0
    let merge := match ewsOf p.prog with | [w] => if opOf w == .merge then some (portOf w.b) else none | _ => none
    let eword (w : Word) : Word := let e := ewOf w; if opOf e == .vfscl then ewWord { e with imm := e.imm / 16 * 16 + o.scrAt t c.stage c.elem (e.imm % 16) } else w
    let vct (q : Nat × Half) : Nat × Half := (o.vchAt t c.stage c.elem q.1, putField q.2 4 (BitVec.ofNat 4 (o.scrAt t c.stage c.elem (vctScr q.2))))
    let limit (fb : PortId) (w : Word) : Word := putField w 0 (BitVec.ofNat 16 (mergeLimit o.net (c.stage, c.elem, c.ctx) fb))
    let consts := vmod p.consts 6 (if mask.testBit 6 then o.compIn t c else fun w => w)
    let consts := match merge with | some fb => vmod consts 4 (limit fb) | none => consts
    some ({ p with hdr := o.headerIn t d c, prog := p.prog.map eword, consts := consts, vct := p.vct.map vct,
                   routes := vmapIdx (fun i hs => o.routeIn t m c (fin 3 i) hs) p.routes },
      if merge.isSome then mask ||| 16 else mask)

/-- The words of a part (R189). -/
def Part.words (p : Part) (mask : Nat) : List Word :=
  let n (i : Nat) : Nat := (p.routes.get (fin 3 i)).length
  let content := mask + p.vct.length * 2 ^ 8 + n 0 * 2 ^ 12 + n 1 * 2 ^ 15 + n 2 * 2 ^ 18 + n 3 * 2 ^ 21
  let hs := p.routes.toList.flatMap fun l => l
  let pairs := (upTo (ceilDiv hs.length 2)).map fun i => (nth 0 hs (2 * i + 1) : Half) ++ (nth 0 hs (2 * i) : Half)
  [p.hdr, p.seed, BitVec.ofNat 32 content] ++ p.prog ++ ((upTo 8).filter fun j => mask.testBit j).map (fun j => p.consts.get (fin 7 j)) ++
  p.vct.map (fun v => BitVec.ofNat 32 (v.1 * 2 ^ 16 + v.2.toNat)) ++ pairs

/-- The words that the mapper sends for a record. -/
def Turvik.wordsIn (o : Turvik) (t : Task) (m : MapperPlan) (d : Drift) (c : GraphCtx) : List Word :=
  match o.partIn t m d c with
  | some (p, mask) => p.words mask
  | none => c.words

/-- The number of words that count towards U (R190). -/
def useOf (ws : List Word) : Nat := partUse (nth 0 ws 0) (nth 0 ws 2)

/-- The control tokens of a part at an element (R41, R189). -/
def partTokens (e : ElemId) (c : CtxId) (ws : List Word) : List CfgToken :=
  let n := Nat.max 1 (ceilDiv (useOf ws) 8)
  (upTo n).map fun i => ⟨e, c, i, n - 1, BitVec.ofNat 256 (leNat (words32 ((upTo 8).map fun j => nth 0 ws (8 * i + j))))⟩

/-- The records of a stage with the copies that a slot holds (R16, R28). -/
def Turvik.copiesIn (o : Turvik) (t : Task) (k slot : Nat) : List (GraphCtx × ElemId) :=
  (o.stageCtxs k).flatMap fun c => (c.copies.filter fun p => o.firstSlot t k + p / 32 == slot).map fun p => (c, fin 31 (p % 32))

/-- The configuration of a stage at a slot. -/
def Turvik.cfgOf (o : Turvik) (t : Task) (m : MapperPlan) (d : Drift) (k slot : Nat) : List CfgToken :=
  (o.copiesIn t k slot).flatMap fun q => partTokens q.2 q.1.ctx (o.wordsIn t m d q.1)

/-! Exit tables (R48, R49, R308). -/

/-- An exit table entry in use. -/
def exitEntry (l s : Nat) (p : PortRef) (vch : Nat) : DWord :=
  BitVec.ofNat 64 (2 ^ 63 + l % 512 * 2 ^ 31 + (s - 1) % 512 * 2 ^ 22 + p.at_.ctx.val * 2 ^ 20 + vch % 32 * 2 ^ 15 + p.port.val * 2 ^ 13 +
    p.at_.elem.val * 2 ^ 8 + p.at_.col.val)

/-- The column of a slot. -/
def MapperPlan.colOf (m : MapperPlan) (slot : Nat) : ColId := (m.cols[slot]?).getD 0

/-- L between two slots (R48). -/
def MapperPlan.lat (m : MapperPlan) (i j : Nat) : Nat := if i = j then 1 else routeL (m.route i j (m.colOf i) (m.colOf j))

/-- The entries of a slot's links: every edge that leaves a stage which the slot hosts. -/
def Turvik.linkEntries (o : Turvik) (t : Task) (m : MapperPlan) (slot : Nat) : List (Nat × DWord) :=
  ((mapFrom (fun i e => (i, e)) 0 o.edges).filter fun q => (o.hosting t slot).contains q.2.from_).filterMap fun q =>
    let e := q.2
    let to_ := o.firstSlot t e.dest
    (m.links.find? fun l => l.1 == q.1).map fun l =>
      (l.2, exitEntry (m.lat slot to_) e.s ⟨⟨m.colOf to_, fin 31 e.elem, e.ctx⟩, e.port⟩ (o.vchAt t e.dest e.elem e.vch.toNat))

/-- The entries of a slot's exits to transfer engines (assumption log 10). -/
def Turvik.teEntries (o : Turvik) (t : Task) (m : MapperPlan) (slot : Nat) : List (Nat × DWord) :=
  (m.te.filter fun l => (o.hosting t slot).contains l.stage).map fun l => (l.index, exitEntry l.lat l.slots ⟨⟨0, 0, 0⟩, 0⟩ 0)

/-- The exits that the replicas of a slot need for a deal or a gather that crosses into the other slot of a wide stage (R306, R307): element, context, output port, replica, and where the exit leads. -/
def Turvik.crossings (o : Turvik) (t : Task) (m : MapperPlan) (slot : Nat) : List (Nat × Nat × Nat × Nat × Nat × PortRef × Nat) :=
  (o.hosting t slot).flatMap fun k => (o.copiesIn t k slot).flatMap fun q => q.1.switchWords.flatMap fun w =>
    let c := q.1
    let pos := (slot - o.firstSlot t k) * 32 + q.2.val
    let port (s : Nat) (l : Nat × CtxId × PortId) : PortRef := ⟨⟨m.colOf s, fin 31 (l.1 % 32), l.2.1⟩, l.2.2⟩
    let ls := o.landings c pos w.2
    let out := mapFrom (fun i l => (i, l)) 0 (ls.filter fun l => l.1 / 32 != pos / 32)
    let inside := (ls.filter fun l => l.1 / 32 == pos / 32).length
    out.map fun l =>
      let s := o.firstSlot t k + l.2.1 / 32
      (q.2.val, c.ctx.val, w.1.val, if w.2.form = 6 then pos - c.elem else inside + l.1, s, port s l.2, w.2.vch.toNat)

/-- The reservation that a slot's choices give a crossing. -/
def SlotChoice.spillAt (x : SlotChoice) (e c p r : Nat) : Option (Nat × Nat) :=
  (x.spill.find? fun q => q.1 == e && q.2.1 == c && q.2.2.1 == p && q.2.2.2.1 == r).map fun q => q.2.2.2.2

/-- The entries of a slot's crossings. -/
def Turvik.spillEntries (o : Turvik) (t : Task) (m : MapperPlan) (x : SlotChoice) (slot : Nat) : List (Nat × DWord) :=
  (o.crossings t m slot).filterMap fun q =>
    (x.spillAt q.1 q.2.1 q.2.2.1 q.2.2.2.1).map fun y => (y.1, exitEntry (m.lat slot q.2.2.2.2.1) y.2 q.2.2.2.2.2.1 q.2.2.2.2.2.2)

/-- The exit table of a slot (R308). -/
def Turvik.exitsIn (o : Turvik) (t : Task) (m : MapperPlan) (x : SlotChoice) (slot : Nat) : List (Nat × DWord) :=
  o.linkEntries t m slot ++ o.teEntries t m slot ++ o.spillEntries t m x slot

/-- The slots of a column's landing buffer that a task reserves: its edges, its crossings, and the injection port of each stage whose code injects (R49, R246). -/
def Turvik.reserved (o : Turvik) (t : Task) (us : List CodeUse) (slot : Nat) : Nat :=
  sumList ((o.edges.filter fun e => o.firstSlot t e.dest == slot).map fun e => e.s) +
  8 * ((o.hosting t slot).filter fun k => o.firstSlot t k == slot && us.any fun u => u.stage == k && u.injects).length

/-- The slots that the crossings of a placement reserve at a slot. -/
def Turvik.crossed (o : Turvik) (t : Task) (m : MapperPlan) (slot : Nat) : Nat :=
  sumList ((mapFrom (fun i x => (i, x)) 0 m.choices).flatMap fun q => (o.crossings t m q.1).map fun y =>
    if y.2.2.2.2.1 = slot then (match q.2.spillAt y.1 y.2.1 y.2.2.1 y.2.2.2.1 with | some z => z.2 | none => 0) else 0)

/-! Checks of the graph that need the code, and of the mapper's choices. -/

/-- The band is too small, or a column's landing reservations are too many: STATUS 4 (R16, R17, R49, R246). -/
def Turvik.bandOk (o : Turvik) (t : Task) (us : List CodeUse) : Bool :=
  let room := if t.drift then true else t.n ≤ t.b && sumList ((upTo t.n).map o.occupancy) ≤ t.b
  room && o.edges.all (fun e => 1 ≤ e.s && e.s ≤ 512) && (upTo t.b).all fun slot => o.reserved t us slot ≤ 512

/-- Every context of every drift stage is reached (R85). -/
def Turvik.reachOk (o : Turvik) (t : Task) (us : List CodeUse) : Bool := !t.drift || (upTo t.n).all (o.allReached us)

/-- The parts that the mapper sends fit three tokens (R190). -/
def Turvik.partsFit (o : Turvik) (t : Task) (m : MapperPlan) : Bool := o.ctxs.all fun c => useOf (o.wordsIn t m Drift.reset c) ≤ 24

/-- The choices for a slot are well-formed: a place in the exit table for each of its exits, a place for each crossing, and as many reserved vertical slots for each stage as its record says, each with an owner (R112, R200, R308). -/
def Turvik.choiceOk (o : Turvik) (t : Task) (m : MapperPlan) (x : SlotChoice) (slot : Nat) : Bool :=
  let ixs := (o.exitsIn t m x slot).map fun e => e.1
  let mine := o.hosting t slot
  let owner (k : Nat) (q : Nat × Nat × Nat) : Bool := (o.copiesIn t k slot).any fun y => y.2.val == q.2.1 && y.1.ctx.val == q.2.2
  decide ixs.Nodup && ixs.all (fun i => decide (i < 128)) &&
  (mapFrom (fun i e => (i, e)) 0 o.edges).all (fun q => !(mine.contains q.2.from_) || m.links.any fun l => l.1 == q.1) &&
  (o.crossings t m slot).all (fun q => match x.spillAt q.1 q.2.1 q.2.2.1 q.2.2.2.1 with | some y => 1 ≤ y.2 && y.2 ≤ 512 | none => false) &&
  decide (x.resv.map fun q => q.1).Nodup && x.resv.all (fun q => decide (q.1 < 16) && mine.any fun k => owner k q) &&
  mine.all fun k => o.firstSlot t k != slot || (x.resv.filter (owner k)).length == (o.resOf k).q

/-- The mapper's choices are well-formed. -/
def Turvik.choicesOk (o : Turvik) (t : Task) (m : MapperPlan) (us : List CodeUse) : Bool :=
  m.cols.length == t.b && m.choices.length == t.b && decide m.cols.Nodup &&
  (mapFrom (fun i x => (i, x)) 0 m.choices).all (fun q => o.choiceOk t m q.2 q.1 && o.reserved t us q.1 + o.crossed t m q.1 ≤ 512) &&
  m.te.all fun l => 1 ≤ l.slots && l.slots ≤ 512 && l.lat < 512

/-! Links (R401). -/

/-- A placement lies across links in service only: its stacks' links to the hub, and a way round the ring for each crossing of the band (R401). -/
def State.linksOk (s : State) (drift : Bool) (p : MapperPlan) : Bool :=
  let up (k : Nat) : Bool := s.hub.links.get (fin 7 k)
  p.cols.all (fun c => up (4 + (stackOf c).val)) && (neighbours drift p.cols).all fun q => (p.ways q).any fun l => l.all up

/-- A task's band crosses a UCIe link: the link joins one of its stacks to the hub, or every way of one of its crossings takes it (R401). -/
def Task.crosses (t : Task) (k : Fin 8) : Bool :=
  t.cols.any (fun c => 4 + (stackOf c).val == k.val) ||
  match t.place with
  | none => false
  | some p => (neighbours t.drift t.cols).any fun q => let w := p.toMapperPlan.ways q; !w.isEmpty && w.all fun l => l.contains k.val

/-! The cache of placed images (R201, R364). -/

/-- The stacks that a task may use: SMASK, restricted to stacks in service in which its partition holds columns. -/
def State.usable (s : State) (t : Task) : BitVec 4 :=
  (upTo 4).foldl (fun (v : BitVec 4) k =>
    let holds := s.cols.toList.zipIdx.any fun x => x.2 / 64 == k && x.1.part == some t.part
    putBit v k (t.smask.testBit k && (s.stack (fin 3 k)).inService && holds)) 0

/-- The key of a task's placement: hash, B, DRIFT, DCTX and usable stacks. -/
def State.cacheKey (s : State) (t : Task) : PlaceKey := ⟨(t.record.drop 0x10).take 32, t.b, t.drift, t.dctx, s.usable t⟩

/-- Positions to which a placed image can move: an exchange of stacks, and in each stack a shift of its columns (R364, assumption log 93). -/
def movedTo (from_ to_ : List ColId) : Bool :=
  let ps := from_.zip to_
  from_.length == to_.length && ps.all fun a => ps.all fun b =>
    (stackOf a.1 == stackOf b.1) == (stackOf a.2 == stackOf b.2) &&
    (stackOf a.1 != stackOf b.1 || (a.1.val : Int) - b.1.val == (a.2.val : Int) - b.2.val)

/-- A stack's columns of an image, shifted by some distance into another stack, are all free. -/
def fits (free : ColId → Bool) (cols : List ColId) (from_ to_ : StackId) : Bool :=
  let mine := (cols.filter fun c => stackOf c == from_).map fun c => c.val % 64
  (upTo 127).any fun d => mine.all fun c => decide (63 ≤ c + d) && decide (c + d < 127) && free (fin 255 (to_.val * 64 + (c + d - 63)))

/-- The arrangements of some stacks in different ones. -/
def arrangements : List StackId → List (List (StackId × StackId))
  | [] => [[]]
  | a :: r => (arrangements r).flatMap fun m => (([0, 1, 2, 3] : List StackId).filter fun k => !(m.any fun q => q.2 == k)).map fun k => (a, k) :: m

/-- Some position of an image has all its columns free. -/
def hasPosition (free : ColId → Bool) (cols : List ColId) : Bool :=
  let used := ([0, 1, 2, 3] : List StackId).filter fun k => cols.any fun c => stackOf c == k
  (arrangements used).any fun m => m.all fun q => fits free cols q.1 q.2

/-- Two sets of choices are the same image, wherever they lie. -/
def MapperPlan.sameImage (a b : MapperPlan) : Bool :=
  a.links == b.links && a.hops == b.hops && movedTo a.cols b.cols &&
  a.choices.map (fun x => (x.spill, x.resv)) == b.choices.map (fun x => (x.spill, x.resv)) &&
  a.te.map (fun l => (l.stage, l.elem, l.port, l.index, l.te, l.slots, l.lat)) == b.te.map (fun l => (l.stage, l.elem, l.port, l.index, l.te, l.slots, l.lat))

/-- Images in the cache. -/
def cacheDepth : Nat := 1024

/-- A mapper's answer agrees with its cache: on a hit with a free position it is the image in one of those (R364). -/
def State.cacheOk (s : State) (t : Task) (free : ColId → Bool) (m : MapperPlan) : Bool :=
  match s.hub.placed.find? fun e => e.1 == s.cacheKey t with
  | none => true
  | some e => e.2.sameImage m || !hasPosition free e.2.cols

/-- The image just used is the cache's newest; the least recently used one goes. -/
def State.cached (s : State) (t : Task) (m : MapperPlan) : State :=
  let k := s.cacheKey t
  s.modHub fun h => { h with placed := ((k, m) :: h.placed.filter fun e => e.1 != k).take cacheDepth }

end Sys2Proof.Machine
end

