-- ==== Sys2Proof/Machine/Moves.lean ====
section
/-! DEFINITION. Page moves as the migration engine takes them (R381): from a descriptor, or from the mapper for a pinned binding (R364). -/

namespace Sys2Proof.Machine

/-- The address space and partition that an ASID names: a task's that is placed. -/
def Hub.spaceOf (h : Hub) (asid : BitVec 16) : Option (DWord × PartId) :=
  (h.tasks.find? fun t => t.st != .ended && match t.place with | some p => (field p.ptb 48 16 : BitVec 16) == asid | none => false).map fun t =>
    ((match t.place with | some p => p.ptb | none => 0), t.part)

/-- Whole pages from an address on: the range of `n` 4 KiB pages consists of them, and each keeps `ok`. -/
def wholePages (h : Hub) (root va : Nat) (ok : Leaf → Bool) : Nat → Nat → Bool
  | 0, n => n == 0
  | f + 1, n =>
    if n = 0 then true
    else match walk h root va with
      | .leaf l => va % 2 ^ l.bits == 0 && decide (2 ^ l.bits ≤ 4096 * n) && ok l && wholePages h root (va + 2 ^ l.bits) ok f (n - 2 ^ l.bits / 4096)
      | _ => false

/-- A move of `n` pages of an address space from `va` to `dst`, as the engine takes it. -/
def newMove (op : Nat) (ptb : DWord) (p : PartId) (va n dst : Nat) (tag : BitVec 16) (mbox : Option Nat) : Move :=
  { op := op, asid := field ptb 48 16, root := ptb, va := va, left := n, dst := dst, tag := tag, mbox := mbox, force := false, part := p,
    moved := 0, bytes := 0, skipped := 0, status := 0, taint := false, transit := false, done := false }

/-- A move is queued at the migration engine: whole, or refused with status 2 where it breaks R381, or with status 1 where the partition's weight is 0 (R348). `ok` says what its descriptor keeps. -/
def Hub.queueMove (h : Hub) (m : Move) (ok : Bool) : Hub :=
  let group (l : Leaf) : Bool := l.bits == 16 && l.disc != .sa
  let dst (l : Leaf) : Bool := m.op != 0 || m.dst % 2 ^ l.bits == 0
  let good := ok && m.op != 3 && wholePages h (bitsNat m.root 45 12 * 4096) m.va (fun l => (m.op != 1 || group l) && dst l) m.left m.left
  let st := if !good then 2 else if h.engWeight m.part 4 = 0 then 1 else 0
  { h with moves := h.moves ++ [{ m with status := st, left := if st = 0 then m.left else 0 }] }

end Sys2Proof.Machine
end

