-- ==== Sys2Proof/Machine/Dispatcher.lean ====
section
/-! DEFINITION. The dispatcher: launch ports and queues (R356, R357), placement and loading (R33, R358, R364), the entry message, and the end of a task (R11). -/

namespace Sys2Proof.Machine

open Sys2Proof

/-! The end of a task (R11). -/

/-- Writes the completion mailbox with a release store and signals VEC if IRQ is 1. -/
def State.mailbox (s : State) (t : Task) (status : Nat) : State :=
  let put (s : State) (a : Nat) (v : DWord) : State :=
    if (s.hub.channel? a).isSome then s.modHub fun h => h.writeChannel (a / 8) 0xFF#8 v else s
  let s := s.flushOrd fun o => o.pa / 16 == t.mbox / 16
  let s := put s t.mbox (BitVec.ofNat 64 (status % 2 ^ 32 + t.faults % 2 ^ 32 * 2 ^ 32))
  let s := put s (t.mbox + 8) (s.cyc 0)
  if t.irq then s.signal (.vec t.vec) else s

/-- The task leaves every launch queue. -/
def Hub.unqueue (h : Hub) (id : BitVec 16) : Hub := { h with queues := vmap (fun q => q.filter fun i => i != id) h.queues }
/-- The task enters the tail, or the head, of a level's queue. -/
def Hub.enqueue (h : Hub) (level : Nat) (id : BitVec 16) (head : Bool) : Hub :=
  { h with queues := vmod h.queues (fin 15 level) fun q => if head then id :: q else q ++ [id] }

/-- The task ends with a STATUS (R11). -/
def State.endTask (s : State) (t : Task) (status : Nat) : State :=
  let s := s.mailbox t status
  let s := s.modHub fun h => h.unqueue t.id
  s.modTask t.id fun t => { t with st := .ended, cols := [], images := [], spill := [], ending := none }

/-! Launch ports (R356, R357). -/

/-- Entries of a launch queue. -/
def queueDepth : Nat := 1024

/-- A task as its record makes it. -/
def newTask (id : BitVec 16) (record : List Byte) (addr : Nat) (p : PartId) (q now : Nat) : Task :=
  { id := id, record := record, addr := addr, part := p, level := q, home := q, promoted := false, st := .queued, cols := [],
    place := none, sbt := [], since := now, started := 0, expired := false, faults := 0, fired := 0, offQ := 0, waited := 0, preAt := 0, images := [], spill := [],
    spillFull := false, ending := none, spillStop := none, delivered := 0, susp := false, areas := [] }

/-- A store to launch port `q` of partition `p`: accepted when the queue has a free entry and the address is aligned, or counted in LREJ. An accepted record that is broken is refused at once (R11, R356). -/
def State.launch256 (s : State) (p : PartId) (q : Fin 16) (v : DWord) : State :=
  let h := s.hub
  if bitsNat v 7 0 ≠ 0 || queueDepth ≤ (h.queues.get q).length then { s with hub := { h with lrej := vmod h.lrej p fun x => satInc x 1 } }
  else
    let a := bitsNat v 47 0
    let s := s.flushOrd fun o => o.pa / 256 == a / 256
    let s := s.hubReads a 256
    let t := newTask s.hub.nextTask (s.hub.peek a 256) a p q.val s.hub.tick
    let s := s.modHub fun h => { h with tasks := h.tasks ++ [t], nextTask := h.nextTask + 1 }
    match t.recordStatus p.val q.val with
    | some k => s.endTask t k
    | none => s.modHub fun h => h.enqueue q.val t.id false

/-- The candidate of a partition: its oldest entry in its highest level (R357). -/
def Hub.candidate (h : Hub) (p : PartId) : Option Task :=
  let ids := h.queues.toList.reverse.flatMap fun q => q
  (ids.filterMap fun i => h.tasks.find? fun t => t.id == i).find? fun t => t.part == p

/-- The partition that is served next: the first in turn that has a candidate. -/
def Hub.served (h : Hub) : Option PartId :=
  ((upTo 8).map fun i => fin 7 (h.turn.val + i)).find? fun p => (h.candidate p).isSome

/-- The turn passes to the next partition. -/
def Hub.nextTurn (h : Hub) (p : PartId) : Hub := { h with turn := p + 1 }

/-- A column is free for a task: of its partition and stacks, in service, held by no task and not skipped (R14, R363, R364). -/
def State.freeFor (s : State) (t : Task) (c : ColId) : Bool :=
  let x := s.col c
  x.part == some t.part && x.band.isNone && x.pre == .none && x.inService && !s.hub.skip.get c && t.smask.testBit (stackOf c).val &&
  (s.stack (stackOf c)).inService

/-! Loading (R33, R41, R70, R107, R199, R358). -/

/-- A column with bytes at vertical addresses that lie in some shelves; a retired bus drops them. -/
def Column.loadVertIn (x : Column) (shelves : BitVec 16) (a : Nat) (bs : List Byte) : Column :=
  (mapFrom (fun i b => (i, b)) 0 bs).foldl (fun (x : Column) q =>
    match vertDecode (a + q.1) with
    | some p => if x.vret.getLsbD (vLayer p) || !shelves.getLsbD (vShelf p) then x
        else { x with vert := x.vert.writeWord (p / 8) (byteMask (p % 8) 1) (BitVec.ofNat 64 (q.2.toNat * 2 ^ (8 * (p % 8)))) }
    | none => x) x

/-- A column with bytes at vertical addresses. -/
def Column.loadVert (x : Column) (a : Nat) (bs : List Byte) : Column := x.loadVertIn 0xFFFF a bs

/-- A column with bytes at local near-store addresses; a word of a single-assignment block is full after it. -/
def Column.loadNear (x : Column) (a : Nat) (bs : List Byte) : Column :=
  (mapFrom (fun i b => (i, b)) 0 bs).foldl (fun (x : Column) q =>
    let la := a + q.1
    if 0x18000 ≤ la then x
    else
      let p := x.nearPhys la
      let m := x.cpu.near.writeWord (p / 8) (byteMask (p % 8) 1) (BitVec.ofNat 64 (q.2.toNat * 2 ^ (8 * (p % 8))))
      let m := if x.nearSa la then m.setPresence (p / 8) (some .full) else m
      { x with cpu := { x.cpu with near := m } }) x

/-- The allowance that placement gives a class: min(request, limit), with the partition's default for a request of 0 (R10, R358). -/
def State.budgetFor (s : State) (t : Task) (c : Nat) : BitVec 13 × BitVec 13 :=
  let reg (off : Nat) : DWord := s.hub.reg (0x0F0000 + 0x1000 * t.part.val + off + 8 * c)
  let want := Nat.min (t.fieldAt (0xA0 + 2 * c) 2) 4096
  let r (lo : Nat) : Nat := if want = 0 then bitsNat (reg 0xB0) (lo + 12) lo else want
  let lim (lo : Nat) : Nat := bitsNat (reg 0x70) (lo + 12) lo
  (BitVec.ofNat 13 (Nat.min (r 0) (lim 0)), BitVec.ofNat 13 (Nat.min (r 16) (lim 16)))

/-- A column with the budgets of a task. -/
def State.withBudgets (s : State) (t : Task) (x : Column) : Column :=
  { x with budL := vmapIdx (fun i _ => (s.budgetFor t i).1) x.budL, budV := vmapIdx (fun i _ => (s.budgetFor t i).2) x.budV }

/-- The handler bindings of a stage: the words at the end of its code sections (R199). -/
def handlerWords (h : Hub) (ptb : DWord) (o : Turvik) : List Section → Obj (List Word)
  | [] => .ok []
  | z :: r => do
    let bs ← objBytes h ptb (o.obj + z.off + z.code) 80
    let ws ← handlerWords h ptb o r
    .ok (word32s bs ++ ws)

/-- The bytes of sections in a space, each with its load address. -/
def sectionBytes (h : Hub) (ptb : DWord) (o : Turvik) : List Section → Obj (List (Nat × List Byte))
  | [] => .ok []
  | z :: r => do
    let bs ← objBytes h ptb (o.obj + z.off) (if z.kind = 2 then z.code else z.size)
    let ws ← sectionBytes h ptb o r
    .ok ((z.addr, bs) :: ws)

/-- What one stage of a slot starts with (R70, R79): the content of its parts, its near-store sections, its weight sections, and its handler words. -/
structure StageLoad where
  stage : Nat
  parts : List (ElemId × CtxId × Part)
  near : List (Nat × List Byte)
  weights : List (Nat × List Byte)
  hte : List Word
  deriving DecidableEq, Repr

/-- What one slot is loaded with. -/
structure SlotLoad where
  plan : SlotPlan
  near : List (Nat × List Byte)
  vert : List (Nat × List Byte)
  starts : List StageLoad
  deriving DecidableEq, Repr

/-- The contents of the parts that the mapper sends for a stage at a slot. -/
def Turvik.partsOf (o : Turvik) (t : Task) (m : MapperPlan) (d : Drift) (k slot : Nat) : List (ElemId × CtxId × Part) :=
  (o.copiesIn t k slot).filterMap fun q => (o.partIn t m d q.1).map fun p => (q.2, q.1.ctx, p.1)

/-- The extents that the mapper patches into a context: those of the binding that its choice names (R296, R364, R375). -/
def extentsAt (h : Hub) (ptb : DWord) (sbt : List (Nat × Nat × Nat)) (x : SlotChoice) (k : Nat) (e : ElemId) (c : CtxId) : List DWord :=
  match x.binds.find? fun b => b.1 == k && b.2.1 == e.val && b.2.2.1 == c.val with
  | some b => (match sbt[b.2.2.2]? with | some (base, size, disc) => extentsFrom h ptb base size (discOf disc) 0 4 | none => [])
  | none => []

/-- The record of a stage that a slot hosts, as the task is loaded. -/
def Turvik.stageRes (o : Turvik) (n k : Nat) : StageRes :=
  let g := o.resOf k
  { stage := k, shelves := g.shelves, frows := g.frows, ctxs := o.used k, q := g.q, images := if 2 ≤ n then o.weightRuns k else [],
    resident := false, saved := false, stored := false, taint := false, final := false, wiring := [] }

/-- What the stages of a slot start with. -/
def Turvik.stageLoads (o : Turvik) (h : Hub) (t : Task) (m : MapperPlan) (d : Drift) (slot : Nat) : List Nat → Obj (List StageLoad)
  | [] => .ok []
  | k :: r => do
    let near ← sectionBytes h m.ptb o (o.sections.filter fun z => z.loads 1 && z.of k)
    let ws ← sectionBytes h m.ptb o (o.sections.filter fun z => z.kind == 4 && z.loads 2 && z.of k)
    let hw ← handlerWords h m.ptb o (o.codeOf k)
    let ls ← o.stageLoads h t m d slot r
    .ok (⟨k, o.partsOf t m d k slot, near, ws, hw⟩ :: ls)

/-- What a slot is loaded with, from the object and the mapper's choices (R56, R199, R200, R364). Of the stages after the first, sections outside their private window, and outside weight shelves, are loaded with the first (assumption log 98). -/
def Turvik.slotLoad (o : Turvik) (h : Hub) (t : Task) (m : MapperPlan) (sbt : List (Nat × Nat × Nat)) (slot : Nat) (x : SlotChoice) : Obj SlotLoad := do
  let k := o.stageAt t slot
  let mine := o.hosting t slot
  let r := o.resOf k
  let rs := mine.map (o.stageRes mine.length)
  let d := { Drift.reset with seq := rs }
  let starts ← o.stageLoads h t m d slot mine
  let first := starts.find? fun l => l.stage == k
  let later := o.sections.filter fun z => z.loads 2 && z.kind != 4 && mine.any fun j => j != k && z.of j
  let vert ← sectionBytes h m.ptb o ((if t.drift then later else []) ++ if mine.isEmpty then [] else o.sections.filter fun z => z.loads 2 && z.of k)
  let shared := (starts.filter fun l => l.stage != k).flatMap fun l => l.near.filter fun q => decide (0x12000 ≤ q.1)
  let bind (i : Nat) (w : Word) : Option (Nat × Nat × Nat) := if w.getLsbD 31 then some (i % 20, bitsNat w 27 24, bitsNat w 16 2) else none
  let hw := match first with | some l => l.hte | none => []
  let prime (q : GraphEdge × List Byte) : PortRef × BitVec 5 × List Vec :=
    (⟨⟨0, fin 31 q.1.elem, q.1.ctx⟩, q.1.port⟩, BitVec.ofNat 5 (o.vchAt t k q.1.elem q.1.vch.toNat), (chunks 32 q.1.s q.2).map fun b => BitVec.ofNat 256 (leNat b))
  let ext (k : Nat) (e : ElemId) (c : CtxId) : List DWord := extentsAt h m.ptb sbt x k e c
  let wire (l : StageLoad) : List Wiring := l.parts.map fun p =>
    ⟨p.1, p.2.1, p.2.2.seed, p.2.2.routes, vmapIdx (fun i _ => nth 0 (ext l.stage p.1 p.2.1) i) (vfill 4 ())⟩
  let wired (r : StageRes) : StageRes := { r with wiring := match starts.find? fun l => l.stage == r.stage with | some l => wire l | none => [] }
  .ok
    { plan :=
        { nsmap := r.nsmap, nssa := r.nssa, handlers := (mapFrom bind 0 hw).filterMap fun x => x, cfg := if mine.isEmpty then [] else o.cfgOf t m d k slot,
          exits := o.exitsIn t m x slot, exitTe := (m.te.filter fun l => mine.contains l.stage).map fun l => (l.index, l.stack, l.te),
          spill := (o.crossings t m slot).filterMap fun q => (x.spillAt q.1 q.2.1 q.2.2.1 q.2.2.2.1).map fun y => (q.1, q.2.1, q.2.2.1, q.2.2.2.1, y.1),
          resv := x.resv, dicts := x.dicts,
          extents := (o.copiesIn t k slot).flatMap fun q => mapFrom (fun i v => (q.2.val, q.1.ctx.val, i, v)) 0 (ext k q.2 q.1.ctx),
          primes := (o.primes.filter fun q => q.1.dest == k && o.firstSlot t k == slot).map prime, stages := rs.map wired },
      near := shared ++ (match first with | some l => l.near | none => []), vert := vert, starts := starts }

/-- A merge context of a slot's configuration: its limit and feedback port (R197, R288). -/
def SlotPlan.mergeAt (p : SlotPlan) (e : ElemId) (c : CtxId) : Option (PortId × Nat) :=
  let toks := p.cfg.filter fun k => k.elem == e && k.ctx == c
  let ws := toks.flatMap fun k => payloadWords k.payload
  match parsePart (toks.length - 1) ws with
  | none => none
  | some q => match ewsOf q.prog with
    | [w] => if opOf w == .merge then some (portOf w.b, bitsNat (q.consts.get 4) 15 0) else none
    | _ => none

/-- Every primed port is the feedback port of a merge whose limit the count stays below (R56, R197). -/
def SlotPlan.primesOk (p : SlotPlan) : Bool :=
  p.primes.all fun y => match p.mergeAt y.1.at_.elem y.1.at_.ctx with
    | some (fb, lim) => fb == y.1.port && decide (y.2.2.length < lim)
    | none => false

/-- A slot gives away all four slots of some port while the code of a stage that it hosts holds one of the vertical forms (R113). -/
def SlotLoad.vertBad (l : SlotLoad) (us : List CodeUse) : Bool := l.plan.portFull && l.starts.any fun z => us.any fun u => u.stage == z.stage && u.vertical

/-- The drift controller of a column as a task is loaded (R61, R66, R79). -/
def driftAt (t : Task) (b : Option (Fin 16)) (stage : Nat) (rs : List StageRes) : Drift :=
  let ring := t.drift && decide (2 ≤ rs.length)
  let first := (rs.find? fun r => r.stage == stage).map fun r => r.shelves
  let shelf (h : Nat) : Shelf :=
    if !ring then .hosted
    else if b == some (fin 15 h) then .berth
    else if (first.getD 0).getLsbD h then .hosted else .free
  { Drift.reset with on := t.drift, hosted := stage, seq := rs, berth := if ring then b else none, shelves := vmapIdx (fun h _ => shelf h) (vfill 16 ()) }

/-- The column of a slot as loading begins: what belongs to the column itself stays, and everything of a task is new (R18, R33). -/
def State.loadColumn (s : State) (t : Task) (slot : Nat) (stage : Nat) (ptb : DWord) (berth : Option (Fin 16)) (l : SlotLoad) (x : Column) : Column :=
  let p := l.plan
  let hte := p.handlers.foldl (fun (v : Vector Word 20) b =>
    vset v (fin 19 b.1) (BitVec.ofNat 32 (2 ^ 31 + b.2.1 % 16 * 2 ^ 24 + b.2.2 % 2 ^ 15 * 4))) hteReset
  let cpu := { x.cpu with
    busy := false, sup := false, psup := false, halt := false, supIdle := false, clr := none, ready := s.now, pend := [], grants := 0, selfq := [],
    outq := [], storeQ := [], dictRx := vfill 16 .empty, dictTx := [], hte := hte, starve := 0, dirty := false,
    near := { x.cpu.near with sa := [] } }
  let ext (els : Vector Elem 32) (q : Nat × Nat × Nat × DWord) : Vector Elem 32 :=
    vmod els (fin 31 q.1) fun e => { e with ctxs := vmod e.ctxs (fin 3 q.2.1) fun y => { y with b := vset y.b (fin 3 q.2.2.1) q.2.2.2 } }
  let exits := p.exits.foldl (fun (v : Vector DWord 128) q => vset v (fin 127 q.1) q.2) (vfill 128 0)
  let y :=
    { x with
      cpu := cpu, elems := p.extents.foldl ext (vfill 32 .empty), gathers := [], turns := vfill 4 .empty, fab := .empty,
      drift := driftAt t berth stage p.stages, band := some ⟨t.id, slot, t.b, t.drift, false, t.dbg⟩, ptb := ptb, nsmap := p.nsmap, nssa := p.nssa,
      watches := [], fired := [], barr := none, cfgl := none, wpre := none, exits := exits,
      exitFree := vmap (fun e : DWord => if e.getLsbD 63 then bitsNat e 30 22 + 1 else 0) exits, exitTe := p.exitTe, spill := p.spill, resv := p.resv,
      inj := [], vslot := vfill 4 [], vseq := none, sampling := [], pre := .none, gated := false, idleFor := 0, jobs := [], parkSeen := false, lastTask := some t.id, nearDirty := [] }
  let y := l.near.foldl (fun y q => y.loadNear q.1 q.2) y
  s.withBudgets t (l.vert.foldl (fun y q => y.loadVert q.1 q.2) y.powerShelves)

/-- A stage of a slot as it starts, alone in a column (R70): its registers, its handler table, its private window, its contexts, and its half of the tables with every scale register at 127. -/
def StageLoad.column (l : StageLoad) (d : Drift) (nsmap nssa : BitVec 16) : Column :=
  let odd := decide (d.position l.stage % 2 = 1)
  let hte := (mapFrom (fun i w => (i, w)) 0 l.hte).foldl (fun (v : Vector Word 20) q => if q.2.getLsbD 31 then vset v (fin 19 (q.1 % 20)) q.2 else v) hteReset
  let part (els : Vector Elem 32) (q : ElemId × CtxId × Part) : Vector Elem 32 :=
    vmod els q.1 fun e => { e.withVct q.2.2 with ctxs := vmod e.ctxs q.2.1 fun y => y.withPart q.2.2 }
  let x : Column := { Column.reset with
    cpu := { Cpu.reset with hte := hte }, elems := l.parts.foldl part (vfill 32 .empty), drift := { d with on := true, hosted := l.stage, odd := odd }, nsmap := nsmap, nssa := nssa }
  (l.near.filter fun q => decide (q.1 < 0x9000)).foldl (fun x q => x.loadNear q.1 q.2) x

/-- Whole images of the stages that share a slot go into their berths, and those of the stages from the 49th on into the task's save area; none where that has no room (R66, R70). -/
def State.loadBerths (s : State) (c : ColId) (nsmap nssa : BitVec 16) (starts : List StageLoad) : Option State :=
  let d := (s.col c).drift
  if d.berth.isNone then some s
  else
    starts.foldl (fun (s : Option State) l => match s, d.res l.stage with
      | some s, some r =>
        let img := berthImage (l.stage / Nat.max (s.col c).bandSize 1) l.stage false ((l.column d nsmap nssa).rawImage r)
        let near := decide (d.position l.stage < 48)
        let s := s.modDrift c fun d => d.modRes l.stage fun r => { r with resident := near, saved := true }
        if near then some (s.vertPut c (d.berthAt l.stage) img) else s.berthOut c l.stage img
      | s, _ => s) (some s)

/-- The configuration of a slot starts as control tokens (R41, R364). -/
def State.loadTokens (s : State) (c : ColId) (p : SlotPlan) : State :=
  let tok (k : CfgToken) : CtlFlight := ⟨⟨ctlHeader c.val k.elem.val k.pidx k.plen k.ctx.val, k.payload, false⟩, s.now, none⟩
  { s with ctl := s.ctl ++ p.cfg.map tok }

/-- Dictionary slots of a column are assigned, at both ends (R133). -/
def State.loadDicts (s : State) (c : ColId) (p : SlotPlan) : State :=
  p.dicts.foldl (fun (s : State) q =>
    let y : ColId := fin 255 q.2
    let d : Dict := { Dict.empty with peer := some y.val }
    let s := s.modCpu (.col c) fun u => { u with dictRx := vset u.dictRx (fin 15 q.1) d }
    s.modCpu (.col y) fun u => { u with dictTx := insertKey (c.val * 16 + q.1 % 16) d u.dictTx }) s

/-- Device sections go to the task's device base (R199). -/
def State.loadDevice (s : State) (ptb : DWord) (base : Nat) (zs : List (Nat × List Byte)) : State :=
  let one (s : State) (a : Nat) (b : Byte) : State :=
    match walk s.hub (bitsNat ptb 45 12 * 4096) a with
    | .leaf l =>
      let pa := l.pa s.hub a
      let s := s.modHub fun h => h.writeChannel (pa / 8) (byteMask (pa % 8) 1) (BitVec.ofNat 64 (b.toNat * 2 ^ (8 * (pa % 8))))
      if l.disc == .sa then s.setPresence ⟨.dev, 0, pa⟩ (some .full) else s
    | _ => s
  zs.foldl (fun s z => (mapFrom (fun i b => (i, b)) 0 z.2).foldl (fun s q => one s (base + z.1 + q.1) q.2) s) s

/-- The mapper's answer is a placement that R14 and R364 admit: well-formed choices, columns that are free, and an image in the cache kept. -/
def State.placeOk (s : State) (t : Task) (o : Turvik) (us : List CodeUse) (m : MapperPlan) : Bool :=
  m.cols.all (fun c => s.freeFor t c) && s.linksOk t.drift m && o.choicesOk t m us && s.cacheOk t (fun c => s.freeFor t c) m

/-- Each slot that several stages share has a shelf for its berths (R66, R85). -/
def State.berthsOk (s : State) (t : Task) (o : Turvik) (m : MapperPlan) : Bool :=
  !t.drift || (mapFrom (fun i c => (i, c)) 0 m.cols).all fun q => (o.hosting t q.1).length ≤ 1 || (o.berthShelf t q.1 (s.col q.2).vret).isSome

/-- The slots' loads, or the first refusal. -/
def slotLoads (h : Hub) (t : Task) (o : Turvik) (m : MapperPlan) (sbt : List (Nat × Nat × Nat)) (us : List CodeUse) : Nat → List SlotChoice → Obj (List SlotLoad)
  | _, [] => .ok []
  | i, x :: r => do
    let l ← o.slotLoad h t m sbt i x
    objNeed (l.plan.primesOk && !l.vertBad us) 6
    let ls ← slotLoads h t o m sbt us (i + 1) r
    .ok (l :: ls)

/-- What the dispatcher loads for a task: the object, its code's use, its bindings, its slots' loads and its device sections. -/
structure TaskLoad where
  obj : Turvik
  code : List CodeUse
  sbt : List (Nat × Nat × Nat)
  slots : List SlotLoad
  dev : List (Nat × List Byte)
  deriving DecidableEq, Repr

/-- What the object gives a placement, or a refusal (R11, R85). -/
def State.placement (s : State) (t : Task) (m : MapperPlan) : Obj TaskLoad := do
  let h := s.hub
  let sbt ← t.bindings h m.ptb
  let o ← t.object h m.ptb
  objNeed (o.graphOk t) 6
  let us ← codeUses h m.ptb o t.n
  objNeed (o.reachOk t us && o.partsFit t m && s.berthsOk t o m) 6
  objNeed (o.bandOk t us) 4
  let ls ← slotLoads h t o m sbt us 0 m.choices
  let dev ← sectionBytes h m.ptb o (o.sections.filter fun z => z.loads 3)
  .ok ⟨o, us, sbt, ls, dev⟩

/-- The placement that a task holds. -/
def TaskLoad.placed (l : TaskLoad) (m : MapperPlan) : Placement := { m with slots := l.slots.map fun z => z.plan }

/-- Loads every column of a placement; none while the save area lacks room for a berth. -/
def State.loadBand (s : State) (t : Task) (o : Turvik) (m : MapperPlan) (ls : List SlotLoad) : Option State :=
  let slots := mapFrom (fun i (q : ColId × SlotLoad) => (i, q)) 0 (m.cols.zip ls)
  let one (s : Option State) (q : Nat × ColId × SlotLoad) : Option State :=
    let (i, c, l) := q
    match s with
    | none => none
    | some s =>
      let b := o.berthShelf t i (s.col c).vret
      let s := s.modCol c fun x => s.loadColumn t i (o.stageAt t i) m.ptb b l x
      (s.loadBerths c l.plan.nsmap l.plan.nssa l.starts).map fun s => s.loadTokens c l.plan
  (slots.foldl one (some s)).map fun s => slots.foldl (fun s q => s.loadDicts q.2.1 q.2.2.plan) s

/-- Bindings of a task with PIN = 1: each with its base and size (R365). -/
def Task.pins (t : Task) (h : Hub) (ptb : DWord) (sbt : List (Nat × Nat × Nat)) : List (Nat × Nat × Nat) :=
  let pin (i : Nat) : Bool := match h.readVirt ptb (t.fieldAt 0x60 6 + 16 * i + 8) 8 with | some bs => (leNat bs).testBit 42 | none => false
  (mapFrom (fun i b => (i, b.1, b.2.1)) 0 sbt).filter fun q => pin q.1

/-- Each binding with PIN = 1 is queued at the migration engine, to go where the mapper puts it: to a GDDR7 channel (R364). A binding for which the mapper has no room stays. -/
def State.queuePins (s : State) (t : Task) (m : MapperPlan) (sbt : List (Nat × Nat × Nat)) : State :=
  (t.pins s.hub m.ptb sbt).foldl (fun (s : State) q =>
    match m.pins.find? fun x => x.1 == q.1 with
    | some x => s.modHub fun h => h.queueMove (newMove 0 m.ptb t.part q.2.1 (ceilDiv q.2.2 4096) x.2 0 none) (match h.channel? x.2 with | some k => decide (k < 16) | none => false)
    | none => s) s

/-- The task that the dispatcher works on for a partition: the one that it is placing, or the partition's candidate (R33, R357). -/
def Hub.subject (h : Hub) (p : PartId) : Option Task :=
  match h.tasks.find? fun t => t.part == p && t.st == .placing with
  | some t => some t
  | none => h.candidate p

/-- The partition that the dispatcher serves: one whose task it is placing, or the next in turn with a candidate. -/
def Hub.serving (h : Hub) : Option PartId :=
  match h.tasks.find? fun t => t.st == .placing with
  | some t => some t.part
  | none => h.served

/-- `TASK_PLACE` (R33, R357, R364): the dispatcher takes the served partition's candidate from its queue and passes it to the mapper, whose answer may come with it or later; the task is refused, waits, or is placed and begins to load. A task that waits goes back to the head of its level (assumption log 48). -/
def execTaskPlace (p : PartId) (reply : MapperReply) (s : State) : Out :=
  match s.hub.serving, s.hub.subject p with
  | some q, some t =>
    if q != p || (t.st != .queued && t.st != .placing) || s.hub.pwr != .run then .next s
    else
      let turned := s.modHub fun h => h.nextTurn p
      match reply with
      | .asked => .next ((s.modHub fun h => h.unqueue t.id).modTask t.id fun t => { t with st := .placing })
      | .later => .next (if t.st == .queued then turned else (turned.modHub fun h => h.enqueue t.level t.id true).modTask t.id fun t => { t with st := .queued })
      | .refused k => .next (if k = 4 || k = 6 then turned.endTask t k else s)
      | .placed m =>
        match s.placement t m with
        | .error none => .next s
        | .error (some k) => .next (turned.endTask t k)
        | .ok l =>
          if !s.placeOk t l.obj l.code m then .next s
          else
            let s := (turned.modHub fun h => h.unqueue t.id).cached t m
            let s := s.modTask t.id fun t => { t with st := .loading, cols := m.cols, place := some (l.placed m), sbt := l.sbt, since := s.hub.tick }
            match ((s.loadDevice m.ptb m.devBase l.dev).queuePins t m l.sbt).loadBand t l.obj m l.slots with
            | some s => .next s
            | none => .next turned
  | _, _ => .next s

/-! The start (R33, R397). -/

/-- Every part that was sent to the band has arrived. -/
def State.loaded (s : State) (t : Task) : Bool :=
  !(s.ctl.any fun f => t.cols.contains (ctlDest f.tok.hdr).col) &&
  t.cols.all fun c => (s.col c).elems.toList.all fun e => e.ctxs.toList.all fun x => x.st != .loading

/-- Bitmap of a column's parked contexts. -/
def Column.parkedMap (x : Column) : Nat :=
  sumList ((upTo 128).map fun i => if (x.ctx (fin 31 (i / 4)) (fin 3 (i % 4))).st == .parked then 2 ^ i else 0)

/-- A column with parked contexts gets its class-19 message of cause 26, with the bitmap, and event 10 is raised (R397, R402). -/
def State.reportParked (s : State) (c : ColId) : State :=
  let x := s.col c
  let m := x.parkedMap
  if m = 0 || x.parkSeen then s
  else
    let n : Node := .col c
    let s := (s.modCol c fun x => { x with parkSeen := true }).countFault n
    let u := s.cpu n
    let s := if u.escalates false then (s.modCpu n fun u => u.recordFault u.pc .parked 0 none).enterSup n .parked
      else
        let msg := selfMsg n 19 (faultG1 .parked 0 0 true (s.stageOf n)) 0 (BitVec.ofNat 64 m) none
        s.pendAdd n { msg with area := msg.area.take 16 ++ leBytes 16 m }
    s.sysEvent (s.partOf n) 10 c.val (leBytes 8 c.val)

/-- The second stage of a slot that several stages share is restored before the task runs, and its weights are asked for (R62, R79). -/
def State.firstRestore (s : State) (c : ColId) : State :=
  let d := (s.col c).drift
  if d.seq.length < 2 then s
  else match d.next with
    | none => s
    | some n =>
      match (s.loadShadows c n).readBerth c n with
      | (none, s) => s
      | (some (raw, m, t), s) =>
        let s := (s.taintStage c n.stage t).putImage c n (d.view n.stage) raw s.now
        (s.modDrift c fun d => { d with restored := true, stgBytes := m }).askRefills c

/-- The sequencer of a column has a sequence number for the next message of the dispatcher. -/
def State.dispatcherSeq (s : State) (c : ColId) : BitVec 12 × State :=
  let k := 0x28 + 256
  let q := lookupD (0 : BitVec 12) k (s.col c).cpu.seqRx
  (q, s.modCpu (.col c) fun u => { u with seqRx := insertKey k (q + 1) u.seqRx })

/-- The entry message (R33). -/
def State.entryTo (s : State) (t : Task) (c : ColId) : State :=
  let (q, s) := s.dispatcherSeq c
  let w (i : Nat) : DWord := BitVec.ofNat 64 (leNat ((t.epay.drop (8 * i)).take 8))
  s.arrive (.col c)
    { cls := BitVec.ofNat 5 t.eclass, src := ⟨true, 0x28⟩, len := 0, seq := q, g1 := w 0, g2 := w 1, g3 := w 2, area := (t.epay ++ List.replicate 32 0).take 32,
      handler := none, stamp := none }

/-- `ENTRY_MESSAGE` (R33): every stage has loaded, so the task runs. -/
def execEntryMessage (task : BitVec 16) (s : State) : Out :=
  match s.task? task with
  | none => .next s
  | some t =>
    if t.st != .loading || !s.loaded t then .next s
    else
      let s := t.cols.foldl (fun (s : State) c => (s.firstRestore c).reportParked c) s
      let s := s.modTask task fun t => { t with st := .running, started := s.now, expired := false, fired := s.now, offQ := 0, waited := 0 }
      match t.cols[t.eslot]? with
      | some c => .next (s.entryTo t c)
      | none => .next s

/-! Leaving the columns. -/

/-- A column is given up by its task: its budgets are 0, and nothing of the task is left at it (R358). -/
def Column.freed (x : Column) (now : Nat) : Column :=
  let y : Column := { x with
    cpu := { x.cpu with busy := false, sup := false, psup := false, halt := false, supIdle := false, clr := none, ready := now, pend := [], grants := 0,
                        selfq := [], outq := [], storeQ := [], dictRx := vfill 16 .empty, dictTx := [], hte := hteReset, starve := 0, dirty := false },
    elems := vfill 32 .empty, gathers := [], turns := vfill 4 .empty, fab := .empty, drift := Drift.reset, band := none, ptb := 0, budL := vfill 8 0, budV := vfill 8 0,
    watches := [], fired := [], barr := none, cfgl := none, wpre := none, exits := vfill 128 0, exitFree := vfill 128 0, exitTe := [], spill := [], resv := [],
    inj := [], vslot := vfill 4 [], vseq := none, sampling := [], pre := .none, jobs := [], parkSeen := false,
    dbg := { x.dbg with dhalt := false, sqstop := false, inexact := false, squall := none, stepping := false, busy := x.dbg.pending.isSome } }
  y.powerShelves

/-- A flight ends at, or comes from, one of some columns. -/
def Flight.touches (cs : List ColId) (f : Flight) : Bool :=
  let at_ := match f.dest with
    | .port p => cs.contains p.at_.col
    | .frost c | .gather c _ _ | .turn c _ => cs.contains c
    | .engine _ _ => false
  let src := match f.cred with
    | .port p => cs.contains p.at_.col
    | .exit c _ | .gather c _ _ | .turn c _ | .frost c | .inj c _ => cs.contains c
    | .free => false
  at_ || src

/-- Where a credit goes. -/
def Feeder.within (cs : List ColId) : Feeder → Bool
  | .port p => cs.contains p.at_.col
  | .exit c _ | .gather c _ _ | .turn c _ | .frost c | .inj c _ => cs.contains c
  | .free => false

/-- The columns of a task are freed, with what is on its links; a message on its way to one is dropped and counted (R33, R35). -/
def State.freeCols (s : State) (cs : List ColId) : State :=
  let s := s.msgs.foldl (fun (s : State) m => match m.dst with | .col c => if cs.contains c then s.dropMsg (.col c) else s | .hart _ => s) s
  let s := { s with
    flights := s.flights.filter fun f => !f.touches cs, credits := s.credits.filter fun c => !c.feeder.within cs,
    decs := s.decs.filter fun d => !cs.contains d.merge.col, ctl := s.ctl.filter fun f => !cs.contains (ctlDest f.tok.hdr).col,
    msgs := s.msgs.filter fun m => match m.dst with | .col c => !cs.contains c | .hart _ => true,
    resets := s.resets.filter fun r => !cs.contains (fin 255 r.1) }
  cs.foldl (fun (s : State) c => s.modCol c fun x => x.freed s.now) s

/-- Work of a task at the engines ends with it: transfers, refills, graphs and packets of its columns. -/
def State.dropWork (s : State) (task : BitVec 16) (cs : List ColId) : State :=
  let te (e : Te) : Te :=
    { e with q := e.q.filter fun x => x.task != task, cur := (match e.cur with | some m => if m.x.task = task then none else some m | none => none) }
  let col (w : Waiter) : Bool := match w with | .stream r => cs.contains r.col | .column c => cs.contains c | _ => false
  { s with stk := vmap (fun k =>
      { k with
        te := vmap te k.te, lseQ := k.lseQ.filter fun r => r.task != task,
        lse := (match k.lse with | some r => if r.r.task = task then none else some r | none => none),
        graphs := k.graphs.filter fun g => g.task != task, replay := k.replay.filter fun q => !col q.who }) s.stk }

/-- The task ends while it holds columns: they are freed and the mailbox is written (R11). -/
def State.closeTask (s : State) (t : Task) (status : Nat) : State :=
  (((s.flushOrd fun o => match o.node with | .col c => t.cols.contains c | .hart _ => false).dropWork t.id t.cols).freeCols t.cols).endTask t status

/-- Every stage that a column hosts or will host is finished (R33): of several that share the slot, each has been saved as final (R84). -/
def Column.stagesDone (x : Column) : Bool :=
  let now := match x.band with | some b => b.finished | none => true
  if x.drift.on && decide (2 ≤ x.drift.seq.length) then
    x.drift.seq.all (fun r => r.final) && (match x.drift.phase with | .saving _ _ | .window _ _ _ => false | _ => true)
  else now

/-- Slots that hold the first column of a stage (R16, R33). -/
def Task.stageSlots (t : Task) : List Nat :=
  match t.place with
  | none => []
  | some p =>
    let st (i : Nat) : List Nat := match p.slots[i]? with | some q => q.stages.map fun r => r.stage | none => []
    (upTo t.cols.length).filter fun i => !(st i).isEmpty && !(1 ≤ i && st (i - 1) == st i)

/-- `TASK_RETIRE` (R11, R33): every stage is finished. -/
def execTaskRetire (task : BitVec 16) (s : State) : Out :=
  match s.task? task with
  | none => .next s
  | some t =>
    let done := t.stageSlots.all fun i => match t.cols[i]? with | some c => (s.col c).stagesDone && (s.cpu (.col c)).outq.isEmpty && (s.cpu (.col c)).storeQ.isEmpty | none => true
    if t.st != .running || !done then .next s else .next (s.closeTask t 0)

end Sys2Proof.Machine
end

