-- ==== Sys2Proof/Machine/Checkpoint.lean ====
section
/-! DEFINITION. Checkpoint images: what a column's image holds, as bytes (R368), and a column's state carried to other columns (R34, R369). -/

namespace Sys2Proof.Machine

/-! The bytes of an image (R368). -/

/-- `stat` as the image holds it: the taint bit. -/
def Cpu.statWord (u : Cpu) : Nat := if u.taint then 1 else 0
/-- Granule 0 of an image: registers, handler table, the sequencer's own registers, debug state, and words cleared by an interrupted clrsa. -/
def Column.granule0 (x : Column) : List Byte :=
  let u := x.cpu
  let stopped := sumList ((upTo 128).map fun i => if (x.ctx (fin 31 (i / 4)) (fin 3 (i % 4))).stopped then 2 ^ i else 0)
  padTo 512 ((Sys2Proof.Machine.granule0 u.g u.hte).take 328 ++ leBytes 8 u.pc.toNat ++ leBytes 8 u.task.toNat ++ leBytes 8 u.xid.toNat ++ leBytes 8 u.statWord ++
    leBytes 8 u.lclk.toNat ++ leBytes 8 u.starve ++ leBytes 8 u.modeWord.toNat ++
    leBytes 8 ((if x.dbg.dhalt then 1 else 0) + (if x.dbg.sqstop then 2 else 0)) ++ leBytes 16 stopped ++ leBytes 8 (u.clr.getD 0))

/-- A context's record: as in a berth, ending in the stall counters and the weight count with BLAME. -/
def Ctx.checkRecord (x : Ctx) : List Byte := (x.record).take 490 ++ words32 x.stall.toList ++ leBytes 2 (x.wcnt + x.blame.toNat * 2 ^ 14)

/-- What an image holds of a context's stream: descriptor, tokens owed, LFSR. -/
def Ctx.streamRecord (x : Ctx) : List Byte :=
  let ds : List DWord := match x.strm with | some m => [m.d0, m.d1, m.d2, m.d3] | none => [0, 0, 0, 0]
  let owed := match x.strm with | some m => m.issuedReqs - m.covered | none => 0
  padTo 64 (wordsBytes ds ++ leBytes 4 owed ++ leBytes 4 x.lfsr.toNat)

/-- The frost bank's taint bits and the planes. -/
def Fabric.record (f : Fabric) : List Byte :=
  let plane (p : Plane) : List Byte :=
    leBytes 8 ((match p.st with | .empty => 0 | .loading => 1 | .ready => 2) + (if p.taint then 4 else 0) + (match p.addr with | some a => 8 + a.toNat * 2 ^ 8 | none => 0))
  padTo 512 (leBytes 8 f.accTaint.toNat ++ f.planes.toList.flatMap plane ++
    leBytes 8 (f.act.val + (match f.armed with | some m => 2 + m.toNat * 2 ^ 2 | none => 0) + f.pos.toNat * 2 ^ 8))

/-- The 40 bytes of a token: header and payload. -/
def tokenBytes (d : PortRef) (t : Token) : List Byte := leBytes 8 (t.header d).toNat ++ leBytes 32 t.payload.toNat

/-- Queued and reply tokens of a column, in order of element, context and port. -/
def Column.heldTokens (x : Column) (c : ColId) : List (List Byte) :=
  (upTo 128).flatMap fun i =>
    let e := fin 31 (i / 4)
    let k := fin 3 (i % 4)
    let y := x.ctx e k
    let at_ (p : PortId) : PortRef := ⟨⟨c, e, k⟩, p⟩
    (([0, 1, 2, 3] : List PortId).flatMap fun p => (y.q.get p).toks.map fun q => tokenBytes (at_ p) q.tok) ++
    (match y.strm with | some m => m.out.map (tokenBytes (at_ 0)) | none => [])

/-- Tokens of a column that have landed and are in no queue bank: at gather points, in corner turns, and at the frost fabric's input. -/
def Column.landedTokens (x : Column) (c : ColId) : List (List Byte) :=
  let loose : PortRef := ⟨⟨c, 0, 0⟩, 0⟩
  (x.gathers.flatMap fun g => g.slots.flatMap fun q => (q.map fun y => tokenBytes g.dest y.1.tok).toList) ++
  (x.turns.toList.flatMap fun t => (t.inq.map (·.tok) ++ t.out).map (tokenBytes (t.owner.getD loose))) ++
  ((x.fab.half.map fun q => tokenBytes loose q.1).toList) ++ x.fab.q.map fun q => tokenBytes loose q.tok

/-- A pending message in an image. -/
def PendMsg.bytes (m : PendMsg) : List Byte :=
  leBytes 8 (m.cls.toNat + m.len.toNat * 2 ^ 9 + m.src.id.toNat * 2 ^ 12 + (if m.src.snc then 2 ^ 20 else 0) + m.seq.toNat * 2 ^ 21 + (if m.handler.isSome then 2 ^ 33 else 0)) ++
  leBytes 8 ((m.stamp.map fun w => w.toNat).getD 0) ++ m.area

/-- A watch in an image. -/
def Watch.bytes (w : Watch) : List Byte := leBytes 8 w.addr.toNat ++ leBytes 8 w.tag.toNat

/-- The raw granules of a column's checkpoint image; none stands for a granule that is not written. -/
def Column.checkGranules (x : Column) (c : ColId) : List (Option (List Byte)) :=
  let used (i : Nat) : Bool := (x.ctx (fin 31 (i / 4)) (fin 3 (i % 4))).st != .empty
  let ctx (i : Nat) : Ctx := x.ctx (fin 31 (i / 4)) (fin 3 (i % 4))
  let tables := x.elems.toList.flatMap fun e => (e.vct.toList.flatMap fun h => leBytes 2 h.toNat) ++ e.sc.toList.flatMap fun b => leBytes 1 b.toNat
  let streams := (upTo 128).flatMap fun i => (ctx i).streamRecord
  let toks := x.heldTokens c ++ x.landedTokens c
  let tail := (x.cpu.pend.flatMap PendMsg.bytes) ++ x.watches.flatMap Watch.bytes
  [some x.granule0] ++ ((upTo 192).map fun i => if x.nearDirty.contains i then some (x.cpu.near.getBytes (512 * i) 512) else none) ++
  ((upTo 5).map fun i => some (padTo 512 ((tables.drop (512 * i)).take 512))) ++
  ((upTo 128).map fun i => if used i then some (padTo 512 (ctx i).checkRecord) else none) ++
  ((upTo 16).map fun i => some (padTo 512 ((streams.drop (512 * i)).take 512))) ++
  ((upTo 128).map fun i => some ((upTo 2).flatMap fun k => rowBytes x.fab.acc (2 * i + k))) ++ [some x.fab.record] ++
  ((upTo (ceilDiv toks.length 12)).map fun i => some (padTo 512 (((toks.drop (12 * i)).take 12).flatMap fun b => b))) ++
  (upTo (ceilDiv tail.length 512)).map fun i => some (padTo 512 ((tail.drop (512 * i)).take 512))

/-- The coded image: header, directory, and a frame of 528 bytes a granule (R67, R134, R368). -/
def Column.checkImage (x : Column) (c : ColId) : List Byte :=
  let gs := x.checkGranules c
  let fs := gs.map fun g => match g with | some b => codeGranule b | none => []
  let code := sumList (fs.map List.length)
  let nqt := (x.heldTokens c).length
  let nlb := (x.landedTokens c).length
  padTo 0x800 (leBytes 8 (x.drift.hosted % 65536 + x.drift.lap.toNat * 2 ^ 16) ++ leBytes 8 (code % 2 ^ 32 + 512 * gs.length * 2 ^ 32) ++
    leBytes 8 (nqt % 65536 + nlb % 65536 * 2 ^ 16 + x.cpu.pend.length * 2 ^ 32 + x.watches.length * 2 ^ 48)) ++
  padTo 0x800 (fs.flatMap fun f => leBytes 2 f.length) ++ fs.flatMap (padTo 528)

/-! A column's state at another column (R34, R369). -/

/-- How columns of a band have moved. -/
abbrev Moves := ColId → ColId

def CtxRef.move (f : Moves) (r : CtxRef) : CtxRef := { r with col := f r.col }
def PortRef.move (f : Moves) (p : PortRef) : PortRef := { p with at_ := p.at_.move f }
def Feeder.move (f : Moves) : Feeder → Feeder
  | .port p => .port (p.move f)
  | .exit c i => .exit (f c) i
  | .gather c p k => .gather (f c) p k
  | .turn c k => .turn (f c) k
  | .frost c => .frost (f c)
  | .inj c k => .inj (f c) k
  | .free => .free
def QTok.move (f : Moves) (q : QTok) : QTok := { q with cred := q.cred.move f }
def Loc.move (f : Moves) (l : Loc) : Loc := match l.space with | .dev => l | _ => { l with col := f l.col }
def Sender.move (f : Moves) (x : Sender) : Sender := if x.snc then x else { x with id := BitVec.ofNat 8 (f (fin 255 x.id.toNat)).val }
def Target.move (f : Moves) : Target → Target
  | .col c => .col (f c)
  | .hart h => .hart h
/-- A 9-bit key of a pair. -/
def keyMove (f : Moves) (k : Nat) : Nat := if k < 256 then (f (fin 255 k)).val else k

/-- Keys of an association list changed; the list stays in rising order. -/
def rekey {α : Type} (g : Nat → Nat) (l : List (Nat × α)) : List (Nat × α) := l.foldl (fun a q => insertKey (g q.1) q.2 a) []

def Stream.move (f : Moves) (m : Stream) : Stream :=
  let piece (p : Piece) : Piece := { p with loc := p.loc.move f }
  { m with reqs := m.reqs.map fun q => { q with pieces := q.pieces.map piece } }

/-- Extents lapse: every address is translated again (R375). -/
def Ctx.move (f : Moves) (x : Ctx) : Ctx :=
  { x with q := vmap (fun q => { q with toks := q.toks.map (QTok.move f) }) x.q, strm := x.strm.map (Stream.move f), b := vfill 4 0 }

/-- A sequencer's state carried to other columns; every dictionary table and every copy of one is zero again (R133). -/
def Cpu.move (f : Moves) (u : Cpu) : Cpu :=
  let out (o : OutMsg) : OutMsg := { o with dests := o.dests.map (Target.move f), msg := { o.msg with src := o.msg.src.move f } }
  let dict (d : Dict) : Dict := { Dict.empty with peer := d.peer.map (keyMove f) }
  { u with
    pend := u.pend.map fun m => { m with src := m.src.move f }, selfq := u.selfq.map fun m => { m with src := m.src.move f },
    outq := u.outq.map out, seqTx := rekey (keyMove f) u.seqTx, seqRx := rekey (keyMove f) u.seqRx, dictRx := vmap dict u.dictRx,
    dictTx := (rekey (fun k => (f (fin 255 (k / 16))).val * 16 + k % 16) u.dictTx).map fun q => (q.1, dict q.2) }

/-- A configuration load whose parts lie at other columns. -/
def Cfgl.move (f : Moves) (l : Cfgl) : Cfgl := { l with parts := l.parts.map fun p => { p with at_ := p.at_.move f } }

/-- The state of a task's column carried to the columns that a move names. -/
def Column.move (f : Moves) (x : Column) : Column :=
  let elem (e : Elem) : Elem := { e with ctxs := vmap (Ctx.move f) e.ctxs }
  let slot (q : Option (QTok × Nat)) : Option (QTok × Nat) := q.map fun y => (y.1.move f, y.2)
  let gather (g : Gather) : Gather := { g with dest := g.dest.move f, slots := g.slots.map slot }
  let turn (t : Turn) : Turn := { t with owner := t.owner.map (PortRef.move f), inq := t.inq.map (QTok.move f) }
  { x with
    cpu := x.cpu.move f, elems := vmap elem x.elems, gathers := x.gathers.map gather, turns := vmap turn x.turns,
    fab := { x.fab with q := x.fab.q.map (QTok.move f), fo := x.fab.fo.map (PortRef.move f) },
    drift := { x.drift with scrollq := x.drift.scrollq.map fun q => (q.1.move f, q.2) },
    cfgl := x.cfgl.map (Cfgl.move f), watches := x.watches.map fun w => { w with loc := w.loc.move f }, fired := x.fired.map fun w => ({ w.1 with loc := w.1.loc.move f }, w.2),
    inj := x.inj.map fun p => { p with ord := p.ord.map fun q => (q.1.move f, q.2) }, sampling := x.sampling.map fun q => { q with port := q.port.move f } }

/-- A column that receives the state of a task's column: what belongs to the receiving column itself stays, the rest is the image's. -/
def Column.receive (x img : Column) : Column :=
  { img with
    vert := x.vert, dbg := { x.dbg with dhalt := img.dbg.dhalt, sqstop := img.dbg.sqstop, inexact := img.dbg.inexact, squall := img.dbg.squall, brkcnt := img.dbg.brkcnt },
    part := x.part, useL := x.useL, useV := x.useV, ecorr := x.ecorr, euncor := x.euncor, shpw := x.shpw, wasOff := x.wasOff, vret := x.vret, buses := x.buses,
    errinj := x.errinj, bankTag := x.bankTag, shelfTag := x.shelfTag, bankShut := x.bankShut, shelfShut := x.shelfShut, tlb := x.tlb, pre := .none,
    gated := false, droop := x.droop, dstr := x.dstr, idleFor := 0, inService := x.inService, lastTask := x.lastTask,
    cpu := { img.cpu with grants := 0, near := { img.cpu.near with bad := img.cpu.near.bad } } }

/-- Bytes of a shelf copied from one column to another. -/
def Column.copyShelf (x img : Column) (h : Nat) : Column :=
  let lo := shelfBase h
  let inside (c : Host.Cell) : Bool := decide (lo ≤ c.1) && decide (c.1 < lo + shelfBytes)
  let m := x.vert.zeroRange lo shelfBytes
  { x with vert := (img.vert.bytes.filter inside).foldl (fun m c => m.putByte c.1 c.2) m }

end Sys2Proof.Machine
end

