-- ==== Sys2Proof/Machine/Frost.lean ====
section
/-! DEFINITION. The frost fabric (R154 to R174): pages and their checks, planes, admission of vectors and markers, the accumulator bank, and the frost forms (R249 to R252). -/

namespace Sys2Proof.Machine

/-! Pages. -/

/-- Fields of the header (R159). -/
def Plane.nodesN (p : Plane) : Nat := bitsNat p.h0 15 0
def Plane.nin (p : Plane) : Nat := bitsNat p.h0 23 18
def Plane.iw16 (p : Plane) : Bool := p.h0.getLsbD 24
def Plane.rowsN (p : Plane) : Nat := bitsNat p.h0 33 25
def Plane.pageId (p : Plane) : Word := field p.h1 0 32
/-- Bytes of the image that a header gives. -/
def imageLen (h0 : DWord) : Nat := 16 + 4 * bitsNat h0 15 0 + 2 * bitsNat h0 33 25

/-- Operands, shift and operation of a node word (R155). -/
def nodeA (w : Word) : Nat := bitsNat w 31 19
def nodeB (w : Word) : Nat := bitsNat w 18 6
def nodeS (w : Word) : Nat := bitsNat w 5 2
def nodeOp (w : Word) : Nat := bitsNat w 1 0

/-- The result of a node (R155). -/
def nodeResult (op : Nat) (a b : Word) (s : Nat) : Word :=
  let b := b <<< s
  match op with
  | 0 => a + b
  | 1 => a - b
  | 2 => b - a
  | _ => 0 - a - b

/-- A reference to an input at or beyond NIN. -/
def badInput (nin r : Nat) : Bool := r < 32 && nin ≤ r
/-- A reference of a node in a level breaks R156 or R157. -/
def badReach (level r : Nat) : Bool :=
  if r = 8191 then false
  else if r < 32 then decide (3 < level)
  else if 6176 ≤ r then true
  else let m := (r - 32) / 256; !(m < level && level ≤ m + 4)
/-- A row's reference breaks R156 or R158. -/
def badRow (nodes r : Nat) : Bool := r != 8191 && 32 ≤ r && (6176 ≤ r || nodes ≤ r - 32)

/-- The width of a reference (R160). -/
def refWidth (iw16 : Bool) (ws : List Nat) (r : Nat) : Nat :=
  if r = 8191 then 0 else if r < 32 then (if iw16 then 16 else 8) else nth 0 ws (r - 32)

/-- The width of a node (R160). -/
def nodeWidth (iw16 : Bool) (ws : List Nat) (w : Word) : Nat :=
  let wa := refWidth iw16 ws (nodeA w)
  let wb := refWidth iw16 ws (nodeB w) + nodeS w
  if nodeOp w = 0 && nodeB w = 8191 then wa
  else if nodeOp w = 0 && nodeA w = 8191 then wb
  else Nat.max wa wb + 1

/-- Widths of nodes in order. -/
def nodeWidths (iw16 : Bool) : List Nat → List Word → List Nat
  | ws, [] => ws
  | ws, w :: r => nodeWidths iw16 (ws ++ [nodeWidth iw16 ws w]) r

/-- Widths of the rows below ROWS. -/
def Plane.rowWidths (p : Plane) (ws : List Nat) : List Nat := p.rowMap.map fun h => refWidth p.iw16 ws (bitsNat h 12 0) + bitsNat h 15 13

/-- The node, or 0x2000 + row, at which a check first fails. -/
def firstBad (p : Plane) (node : Nat → Word → Bool) (row : Half → Bool) : Option Nat :=
  match indexOf? id (mapFrom node 0 p.nodes) with
  | some n => some n
  | none => (indexOf? row p.rowMap).map fun j => 0x2000 + j

/-- A `res0` field of the header is not zero, or MAGIC is wrong. -/
def badHeader (h0 h1 : DWord) : Bool := bitsNat h0 63 48 != 0x4652 || bitsNat h0 47 40 != 0 || bitsNat h0 17 16 != 0 || bitsNat h1 63 32 != 0

/-- The lowest subcode that applies to a page as read, with the offending index (R161, R162). A header field out of range reports no index, even where a node or row offends under the same subcode (assumption log 78). -/
def Plane.refusal (p : Plane) : Option (Nat × Nat) :=
  let some_ (k : Nat) (o : Option Nat) : Option (Nat × Nat) := o.map fun i => (k, i)
  if 6144 < p.nodesN then some (1, 0x3FFF)
  else if p.nin = 0 || 32 < p.nin then some (2, 0x3FFF)
  else match firstBad p (fun _ w => badInput p.nin (nodeA w) || badInput p.nin (nodeB w)) (fun h => badInput p.nin (bitsNat h 12 0)) with
  | some i => some (2, i)
  | none =>
    if p.rowsN = 0 || 256 < p.rowsN then some (3, 0x3FFF)
    else match firstBad p (fun n w => badReach (n / 256) (nodeA w) || badReach (n / 256) (nodeB w)) (fun h => badRow p.nodesN (bitsNat h 12 0)) with
    | some i => some (4, i)
    | none =>
      let ws := nodeWidths p.iw16 [] p.nodes
      match indexOf? (fun w => decide (32 < w)) ws with
      | some i => some (5, i)
      | none => match indexOf? (fun w => decide (32 < w)) (p.rowWidths ws) with
        | some j => some (5, 0x2000 + j)
        | none => if badHeader p.h0 p.h1 then some_ 7 (some 0x3FFF) else none

/-- The subcode of an image that runs past its aperture: the header's fields alone decide (R249). -/
def headerRefusal (h0 : DWord) : Nat :=
  if 6144 < bitsNat h0 15 0 then 1
  else if bitsNat h0 23 18 = 0 || 32 < bitsNat h0 23 18 then 2
  else if bitsNat h0 33 25 = 0 || 256 < bitsNat h0 33 25 then 3
  else 7

/-- The page that an image's bytes hold. -/
def pageOf (bs : List Byte) (taint : Bool) (addr : BitVec 28) : Plane :=
  let h0 : DWord := BitVec.ofNat 64 (leNat (bs.take 8))
  let h1 : DWord := BitVec.ofNat 64 (leNat ((bs.drop 8).take 8))
  let n := bitsNat h0 15 0
  let rest := bs.drop 16
  { st := .ready, h0 := h0, h1 := h1, nodes := (chunks 4 n rest).map fun c => BitVec.ofNat 32 (leNat c),
    rowMap := (chunks 2 (bitsNat h0 33 25) (rest.drop (4 * n))).map fun c => BitVec.ofNat 16 (leNat c),
    wres := 0, taint := taint, addr := some addr }

/-- The value of a reference. -/
def refValue (ins vals : List Word) (r : Nat) : Word := if r = 8191 then 0 else if r < 32 then nth 0 ins r else nth 0 vals (r - 32)

/-- Node values in order (R155). -/
def nodeValues (ins : List Word) : List Word → List Word → List Word
  | vals, [] => vals
  | vals, w :: r => nodeValues ins (vals ++ [nodeResult (nodeOp w) (refValue ins vals (nodeA w)) (refValue ins vals (nodeB w)) (nodeS w)]) r

/-- The row values of a vector (R154, R158). -/
def Plane.rowValues (p : Plane) (ins : List Word) : List Word :=
  let vals := nodeValues ins [] p.nodes
  p.rowMap.map fun h => refValue ins vals (bitsNat h 12 0) <<< bitsNat h 15 13

/-! Planes. -/

/-- The shadow plane. -/
def Fabric.shadow (f : Fabric) : Fin 2 := 1 - f.act
/-- The shadow is busy (R163). -/
def Fabric.busy (f : Fabric) : Bool :=
  let s := (f.planes.get f.shadow).st
  s == .loading || (s == .ready && f.armed.isSome)
/-- A fabric counter counts (R174). -/
def Fabric.count (f : Fabric) (k n : Nat) : Fabric := { f with cnt := vmod f.cnt (fin 5 k) fun c => satInc c n }
/-- A swap takes effect (R165, R169). -/
def Fabric.swap (f : Fabric) : Fabric := { (f.count 3 1) with act := f.shadow, armed := none, pos := 0 }

/-- The class-16 message of a load (R162). -/
def State.frostNotice (s : State) (c : ColId) (plane : Fin 2) (refused : Option (Nat × Nat)) (taint : Bool) (page : Word) (wres : Nat) : State :=
  let (sub, idx) := refused.getD (0, 0x3FFF)
  let g1 := (if refused.isSome then 1 else 0) + sub * 2 ^ 8 + plane.val * 2 ^ 16 + (if taint then 2 ^ 17 else 0) + idx * 2 ^ 32
  let g2 := page.toNat + (if refused.isSome then 0 else wres) * 2 ^ 32
  s.selfQueue (.col c) (selfMsg (.col c) 16 (BitVec.ofNat 64 g1) (BitVec.ofNat 64 g2) (s.cyc (stackOf c)) none)

/-- The state of a column's fabric changed. -/
def State.modFab (s : State) (c : ColId) (f : Fabric → Fabric) : State := s.modCol c fun x => { x with fab := f x.fab }

/-- The address just past the aperture that a vertical address lies in (R111). -/
def apertureEnd (a : Nat) : Nat := if a < 0x8000000 then a / 2 ^ 25 * 2 ^ 25 + layerBytes else 0xE000000

/-- `fgld`. -/
def execFgld (d a : BitVec 5) (s : State) : Out :=
  onColumn s fun c => do
    let v := s.g a
    if 2 ^ 28 ≤ v.toNat || v.toNat % 128 ≠ 0 || (vertDecode v.toNat).isNone then faultAt .verticalRange v
    else
      let f := (s.col c).fab
      if f.busy then .ok ((s.ret d 1).frostNotice c f.shadow (some (6, 0x3FFF)) false 0 0)
      else
        let s := s.drainFor (.col c) .sys
        let (j, s) := s.startJob c
        let load : FrostLoad := ⟨f.shadow, field v 0 28, s.now, [], false, j, (s.cpu (.col c)).lclk⟩
        .ok ((s.modFab c fun f => { f with load := some load, planes := vmod f.planes f.shadow fun p => { p with st := .loading, addr := some (field v 0 28) } }).ret d 0)

/-- Reads granule `g` of the image that a load is reading. -/
def State.frostRead (s : State) (c : ColId) (g : Nat) : State :=
  match (s.col c).fab.load with
  | none => s
  | some l =>
    match vertDecode (l.addr.toNat + 128 * g) with
    | none => s
    | some p =>
      if s.asleep ⟨.vert, c, p⟩ then s.wakeFor ⟨.vert, c, p⟩ else
      let one (a : List Byte × Bool × State) (i : Nat) : List Byte × Bool × State :=
        let s := a.2.2
        match s.access ⟨.vert, c, p + 8 * i⟩ with
        | .open_ => let ((w, t), s) := s.readVert c (p / 8 + i); (a.1 ++ leBytes 8 w.toNat, a.2.1 || t, s)
        | _ => (a.1 ++ List.replicate 8 0, true, s)
      let (bs, t, s) := (upTo 16).foldl one ([], false, s)
      let s := s.modCol c fun x => x.chargeV 2 (vLayer p) 1
      s.modFab c fun f => { f with load := some { l with got := insertKey g bs l.got, taint := l.taint || t } }

/-- Reads the granules below `n` that have not been read. -/
def State.frostReadTo (s : State) (c : ColId) (n : Nat) : State :=
  (upTo n).foldl (fun s g => match (s.col c).fab.load with
    | some l => if l.got.any fun q => q.1 == g then s else s.frostRead c g
    | none => s) s

/-- A granule of the image below `n` lies in a shelf that is not on. -/
def State.frostSleeps (s : State) (c : ColId) (l : FrostLoad) (n : Nat) : Bool :=
  (upTo n).any fun g => match vertDecode (l.addr.toNat + 128 * g) with | some p => s.asleep ⟨.vert, c, p⟩ | none => false

/-- Bytes of the granules below `n`. -/
def FrostLoad.bytes (l : FrostLoad) (n : Nat) : List Byte := (upTo n).flatMap fun g => lookupD [] g l.got

/-- A load ends: its outcome is reported, and the plane is ready or empty (R161, R162, R172). -/
def State.frostEnd (s : State) (c : ColId) (l : FrostLoad) (p : Plane) (refused : Option (Nat × Nat)) : State :=
  let s := match refused with
    | some _ => s.modFab c fun f => { f with load := none, armed := none, planes := vset f.planes l.plane { Plane.empty with addr := some l.addr } }
    | none => s.modFab c fun f => { f with load := none, planes := vset f.planes l.plane p }
  (s.frostNotice c l.plane refused l.taint p.pageId p.wres).endJobTaint c l.job l.taint

/-- The free bandwidth, in bytes a cycle, of the ports that an image spans (R72, R164). -/
def Column.pageWidth (x : Column) (addr : Nat) : Nat :=
  let used (p : Nat) : Nat := (x.resv.filter fun q => q.1 / 4 == p).length
  if addr < 0x8000000 then 128 - 32 * used (addr / 2 ^ 25) else 512 - 32 * x.resv.length

/-- `FROST_LOAD_DONE` (R164): ceil(bytes/W) + 24 of the column's cycles after issue; where no slot is free, no time is given. -/
def execFrostLoadDone (c : ColId) (s : State) : Out :=
  match (s.col c).fab.load with
  | none => .next s
  | some l =>
    let w := (s.col c).pageWidth l.addr.toNat
    let s1 := s.frostReadTo c 1
    if s.frostSleeps c l 1 then .next s1 else
    let first := match (s1.col c).fab.load with | some k => k.bytes 1 | none => []
    let len := imageLen (BitVec.ofNat 64 (leNat (first.take 8)))
    let past := decide (apertureEnd l.addr.toNat < l.addr.toNat + len)
    let n := if past then 1 else ceilDiv len 128
    let bytes := if past then 16 else len
    if 0 < w && s.now < l.due + s.colCycles c (ceilDiv bytes w + 24) then .next s
    else
      let s2 := s1.frostReadTo c n
      if s1.frostSleeps c l n then .next s2 else
      match (s2.col c).fab.load with
      | none => .next s2
      | some k =>
        let p := pageOf ((k.bytes n).take bytes) k.taint l.addr
        if past then .next (s2.frostEnd c k p (some (headerRefusal p.h0, 0x3FFF)))
        else match p.refusal with
          | some r => .next (s2.frostEnd c k p (some r))
          | none => .next (s2.frostEnd c k { p with wres := maxList (p.rowWidths (nodeWidths p.iw16 [] p.nodes)) } none)

/-- `fgsw` (R165, R166, R250). -/
def execFgsw (d : BitVec 5) (x : BitVec 1) (k : BitVec 4) (r : BitVec 1) (s : State) : Out :=
  onColumn s fun c =>
    let f := (s.col c).fab
    let st := (f.planes.get f.shadow).st
    let put (g : Fabric) : Res State := .ok ((s.modFab c fun _ => g).ret d 0)
    if x = 1#1 then (if f.armed.isSome then put { f with armed := none } else .ok (s.ret d 1))
    else if r = 1#1 then
      (if f.armed.isSome || st == .empty then .ok (s.ret d 1) else put { f with armed := some k })
    else if st != .ready then .ok (s.ret d 1)
    else put f.swap

/-- The number of a plane's state in `fgqy`. -/
def Fabric.stCode (f : Fabric) (k : Fin 2) : Nat :=
  match (f.planes.get k).st with
  | .empty => 0
  | .loading => 1
  | .ready => if f.act = k then 3 else 2

/-- The plane state word (R251). -/
def Fabric.stateWord (f : Fabric) : Nat :=
  f.stCode 0 + f.stCode 1 * 4 + f.act.val * 2 ^ 4 + (if f.armed.isSome then 2 ^ 5 else 0) + (f.armed.getD 0).toNat * 2 ^ 6 +
  (if (f.planes.get 0).taint then 2 ^ 10 else 0) + (if (f.planes.get 1).taint then 2 ^ 11 else 0)

/-- PAGEID of a plane; 0 when it is empty. -/
def Fabric.idOf (f : Fabric) (k : Fin 2) : DWord := if (f.planes.get k).st = .empty then 0 else BitVec.setWidth 64 (f.planes.get k).pageId

/-- `fgqy` (R251). -/
def execFgqy (d : BitVec 5) (x : BitVec 1) (k : BitVec 4) (s : State) : Out :=
  onColumn s fun c =>
    let f := (s.col c).fab
    match k.toNat with
    | 0 => .ok (s.ret d (BitVec.ofNat 64 f.stateWord))
    | 7 => .ok (s.ret d (f.idOf f.act))
    | 8 => .ok (s.ret d (f.idOf f.shadow))
    | 9 => .ok (s.ret d (BitVec.setWidth 64 f.pos))
    | n =>
      let i := fin 5 (n - 1)
      let v : DWord := BitVec.setWidth 64 (f.cnt.get i)
      let s := if x = 1#1 then s.modFab c fun f => { f with cnt := vset f.cnt i 0 } else s
      .ok (s.ret d v)

/-! The bank. -/

/-- Adds a word into the bank. -/
def addBank (acc : List (Nat × Word)) (k : Nat) (v : Word) : List (Nat × Word) :=
  let w := lookupD 0 k acc + v
  if w = 0 then eraseKey k acc else insertKey k w acc

/-- The rows of a vector added at its position (R169). -/
def Fabric.addRows (f : Fabric) (pos : Nat) (rows : List Word) (taint : Bool) : Fabric :=
  let acc := (mapFrom (fun j v => (j, v)) 0 rows).foldl (fun a q => addBank a (q.1 * 64 + pos) q.2) f.acc
  { f with acc := acc, accTaint := if taint then putBit f.accTaint pos true else f.accTaint,
           dirtyRows := f.dirtyRows ||| BitVec.ofNat 256 (2 ^ rows.length - 1) }

/-- A position zeroed with its taint. -/
def Fabric.clearPos (f : Fabric) (pos : Nat) : Fabric :=
  { f with acc := f.acc.filter fun q => q.1 % 64 != pos, accTaint := putBit f.accTaint pos false, dirtyRows := BitVec.allOnes 256 }

/-- The FO route, with the port that holds it (R311). -/
def State.foRoute (s : State) (c : ColId) : Option (PortRef × Route) :=
  (s.col c).fab.fo.map fun p => (p, foRouteOf ((s.ctx p.at_).routes.get p.port))

/-- Free space of FO, of its corner turn where the route has one; 0 without a route (R309, R311). -/
def State.foFree (s : State) (c : ColId) : Nat :=
  match s.foRoute c with
  | some (p, rt) => match rt.turn with
    | some _ => (match (s.col c).turnOf p with | some k => ((s.col c).turns.get k).free | none => 0)
    | none => s.headFree c p.at_.elem p.at_.ctx p.port rt.head []
  | none => 0

/-- A token leaves on FO in this cycle. -/
def State.foSend (s : State) (c : ColId) (t : Token) : State :=
  match s.foRoute c with
  | none => s
  | some (p, rt) =>
    let t := { t with ord := (s.col c).fab.foOrd, vch := 0, vchSet := false, sonde := none }
    let s := (s.modFab c fun f => { f with foOrd := f.foOrd + 1 }).modCol c fun x => x.chargeL 0 1
    match rt.turn with
    | some _ => (match (s.col c).turnOf p with
      | some k => s.sendTo c p.at_.elem p.at_.ctx t s.now (.go ⟨.turn c k, .turn c k, 1, t.vch⟩)
      | none => s)
    | none => s.sendHead p.at_ p.port rt.head none t s.now

/-- What has come to the accumulator stage by now: vectors update the bank, and a marker leaves on FO in the next cycle, or waits there while FO has no free space (R169, R170, R311). `wait` says that an earlier marker waits. -/
def State.frostFlow (s : State) (c : ColId) : Bool → List FrostOp → State × List FrostOp
  | _, [] => (s, [])
  | wait, .vec due pos rows taint :: r =>
    if s.now < due then (s, .vec due pos rows taint :: r)
    else (s.modFab c fun f => f.addRows pos rows taint).frostFlow c wait r
  | wait, .mark due t :: r =>
    if s.now < due + 1 || wait || s.foFree c = 0 then
      let (s, l) := s.frostFlow c true r
      (s, .mark due t :: l)
    else (s.foSend c t).frostFlow c false r

/-- The fabric of a column as of now. -/
def State.settleFrost (s : State) (c : ColId) : State :=
  if (s.col c).fab.pipe.isEmpty then s
  else
    let (s, l) := s.frostFlow c false (s.col c).fab.pipe
    s.modFab c fun f => { f with pipe := l }

/-! Admission. -/

/-- Markers inside the fabric. -/
def Fabric.marks (f : Fabric) : Nat := (f.pipe.filter fun o => match o with | .mark .. => true | _ => false).length

/-- Inputs of a vector from its tokens (R168). -/
def frostIns (p : Plane) (ts : List Token) : List Word :=
  let w := if p.iw16 then 16 else 8
  (upTo p.nin).map fun i =>
    match ts[if p.iw16 then i / 16 else 0]? with
    | none => 0
    | some t =>
      let k := if p.iw16 then i % 16 else i
      if k ≤ t.valid.toNat then BitVec.ofInt 32 (signedNat w (laneOf t.payload.toNat w k)) else 0

/-- A vector whose position is being emitted or cleared, and not yet reached, is held (R171, R252). -/
def Fabric.posHeld (f : Fabric) (pos : BitVec 6) : Bool :=
  let p := pos.toNat
  (match f.emit with | some e => e.clear && e.pos ≤ p && p ≤ e.last | none => false) ||
  (match f.clr with | some k => k.pos ≤ p && p ≤ k.last | none => false)

/-- The fabric's input is at work: the part runs and no pre-emption stops the column. -/
def State.frostRuns (s : State) (c : ColId) : Bool := s.hub.pwr == .run && (s.col c).pre == .none

/-- A vector takes the next position (R169). -/
def Fabric.takePos (f : Fabric) : Fabric := { (if f.pos.toNat = 63 then f.count 2 1 else f) with pos := f.pos + 1 }

/-- Admits a vector of tokens under the plane it entered with, at its position (R165, R169). -/
def State.admitVec (s : State) (c : ColId) (p : Plane) (pos : BitVec 6) (ts : List Token) : State :=
  let op : FrostOp := .vec (s.now + s.colCycles c 28) pos.toNat (p.rowValues (frostIns p ts)) (p.taint || ts.any (·.taint))
  let s := s.modFab c fun f => { f.count 0 1 with pipe := f.pipe ++ [op], half := none, next := s.now + 1 }
  ts.foldl (fun s t => s.endTokSonde t 0) s

/-- `FROST_VECTOR_ADMIT` (R168, R169). A data token consumed with no active plane counts as one vector, in NOPAGE alone (assumption log 78). -/
def execFrostVectorAdmit (c : ColId) (s : State) : Out :=
  let s := s.settleFrost c
  let f := (s.col c).fab
  let p := f.planes.get f.act
  if s.now < f.next || !s.frostRuns c then .next s
  else match f.q with
    | [] => .next s
    | q :: rest =>
      if s.now < q.arr then .next s
      else if q.tok.marker then
        (match f.half with
         | some (t, p, pos) => .next (if f.posHeld pos then s else s.admitVec c p pos [t])
         | none => .next s)
      else
        let take (s : State) : State := (s.modFab c fun f => { f with q := rest }).credit q.cred s.now
        match f.half with
        | some (t, p, pos) => .next (if f.posHeld pos then s else (take s).admitVec c p pos [t, q.tok])
        | none =>
        if p.st != .ready then
          let s := ((take s).modFab c fun f => { (f.count 1 1) with next := s.now + 1, nopage := true }).endTokSonde q.tok 1
          .next (if f.nopage then s else s.unitFault c .frostNoPage 0 0 0)
        else if f.posHeld f.pos then .next s
        else
          let s := (take s).modFab c Fabric.takePos
          .next (if p.iw16 && decide (16 < p.nin) then s.modFab c fun g => { g with half := some (q.tok, p, f.pos), next := s.now + 1 }
            else s.admitVec c p f.pos [q.tok])

/-- A marker waits for a load under R166. -/
def Fabric.markHeld (f : Fabric) (t : Token) : Bool :=
  (match f.armed with | some k => k == t.sub | none => false) && (f.planes.get f.shadow).st == .loading

/-- `FROST_MARKER_ADMIT` (R166, R169, R170). -/
def execFrostMarkerAdmit (c : ColId) (s : State) : Out :=
  let s := s.settleFrost c
  let f := (s.col c).fab
  if s.now < f.next || !s.frostRuns c || f.half.isSome then .next s
  else match f.q with
    | [] => .next s
    | q :: rest =>
      if s.now < q.arr || !q.tok.marker || f.markHeld q.tok || s.foFree c < f.marks + 1 then .next s
      else
        let swaps : Bool := match f.armed with | some k => k == q.tok.sub && (f.planes.get f.shadow).st == .ready | none => false
        let s := s.modFab c fun f =>
          let g := if swaps then f.swap else f
          { g with q := rest, pipe := g.pipe ++ [.mark (s.now + s.colCycles c 28) q.tok], pos := if q.tok.sub = 0#4 then 0 else g.pos, next := s.now + 1 }
        .next (s.credit q.cred s.now)

/-! `fgclr` and `femit` (R171, R252). -/

/-- The first cycle by which every vector now in the fabric has updated the bank: the one after the last update (R171). -/
def Fabric.drainedAt (f : Fabric) (now : Nat) : Nat :=
  maxList (now :: f.pipe.map fun o => match o with | .vec due _ _ _ => due + 1 | .mark .. => 0)

/-- The range of R252: FIRST and COUNT. -/
def frostRange (v : DWord) : Res (Nat × Nat) :=
  let first := bitsNat v 5 0
  let count := bitsNat v 12 6
  if 1 ≤ count && count ≤ 64 && first + count ≤ 64 then .ok (first, count) else fault .operand

/-- `fgclr`. -/
def execFgclr (d a : BitVec 5) (s : State) : Out :=
  onColumn s fun c => do
    let v := s.g a
    res0 v 63 23
    res0 v 21 13
    let (first, count) ← frostRange v
    let s := s.settleFrost c
    let f := (s.col c).fab
    if f.clr.isSome || f.emit.isSome then .ok (s.ret d 1)
    else
      let k : FrostClr := ⟨first, first + count - 1, f.drainedAt (s.now + 1)⟩
      .ok ((s.modFab c fun f => { f with clr := some k, pos := if v.getLsbD 22 then 0 else f.pos }).ret d 0)

/-- `femit`. -/
def execFemit (d a : BitVec 5) (s : State) : Out :=
  onColumn s fun c => do
    let v := s.g a
    res0 v 63 23
    let (first, count) ← frostRange v
    let rows := bitsNat v 21 13
    inRange (1 ≤ rows && rows ≤ 256)
    let s := s.settleFrost c
    let f := (s.col c).fab
    if f.clr.isSome || f.emit.isSome then .ok (s.ret d 1)
    else
      let e : FrostEmit := ⟨0, rows, first, first + count - 1, 0, v.getLsbD 22, f.drainedAt (s.now + 1)⟩
      .ok ((s.modFab c fun f => { f with emit := some e }).ret d 0)

/-- `FGCLR_CYCLE`: four positions a cycle, in ascending order. -/
def execFgclrCycle (c : ColId) (s : State) : Out :=
  let s := s.settleFrost c
  match (s.col c).fab.clr with
  | none => .next s
  | some k =>
    if s.now < k.next then .next s
    else
      let n := Nat.min 4 (k.last + 1 - k.pos)
      .next (s.modFab c fun f =>
        let g := (countFrom k.pos n).foldl (fun f p => f.clearPos p) f
        let left : Option FrostClr := if k.last < k.pos + n then none else some ⟨k.pos + n, k.last, s.now + 1⟩
        { g with clr := left })

/-- `FEMIT_TOKEN`: the next token of rows leaves on FO (R171). It leaves room for the markers inside the fabric, and may leave in one cycle with a marker that goes ahead of it (assumption log 79). -/
def execFemitToken (c : ColId) (s : State) : Out :=
  let s := s.settleFrost c
  let f := (s.col c).fab
  match f.emit with
  | none => .next s
  | some e =>
    if s.now < e.next || !s.frostRuns c || s.foFree c < f.marks + 1 then .next s
    else
      let lanes := (upTo 8).map fun i => if 8 * e.tok + i < e.rows then (lookupD 0 ((8 * e.tok + i) * 64 + e.pos) f.acc).toNat else 0
      let lastTok := decide (e.rows ≤ 8 * e.tok + 8)
      let valid := if lastTok then e.rows - 8 * e.tok - 1 else 7
      let t := { dataToken (BitVec.ofNat 256 (packLanes 32 lanes)) (BitVec.ofNat 5 valid) (f.accTaint.getLsbD e.pos) with bfirst := true, scale := 127#8 }
      let s := s.foSend c t
      .next (s.modFab c fun f =>
        let g := if lastTok && e.clear then f.clearPos e.pos else f
        let n := s.now + 1
        let left : Option FrostEmit :=
          if !lastTok then some { e with tok := e.tok + 1, next := n }
          else if e.last ≤ e.pos then none
          else some { e with tok := 0, pos := e.pos + 1, next := n }
        { g with emit := left })

end Sys2Proof.Machine
end

