-- ==== Sys2Proof/Machine/Swaps.lean ====
section
/-! DEFINITION. The layer-swap engine (R79, R258), the bulk moves of engine harts (R259), and engine kicks (R149). -/

namespace Sys2Proof.Machine

/-! The layer-swap engine. -/

/-- The engine hart of a stack's layer-swap engine. -/
def lseHart (k : StackId) : HartId := fin 42 (32 + k.val)

/-- Requests that a layer-swap engine holds. -/
def Stack.swaps (k : Stack) : Nat := k.lseQ.length + (if k.lse.isSome then 1 else 0)

/-- The request that a swap block makes (R258); `bad` where a field breaks the table. -/
def refillOf (ws : List DWord) (c : ColId) (job : Nat) (stamp : BitVec 48) (task : BitVec 16) : Refill :=
  let (w0, w1, w2) := (wordAt ws 0, wordAt ws 1, wordAt ws 2)
  let len := bitsNat w1 31 0
  let src := bitsNat w0 47 0
  let ccls := bitsNat w2 19 15
  let base := shelfBase (bitsNat w0 51 48)
  { col := c, shelf := bitsNat w0 51 48, src := src, len := len, runs := [⟨base, src, 128, len / 128, src, src + len⟩], stage := bitsNat w1 47 32, xid := field w1 48 16, ccls := ccls,
    haddr := field w2 0 15, auto := false,
    bad := bitsNat w0 63 52 != 0 || src % 128 != 0 || len % 128 != 0 || len == 0 || decide (shelfBytes < len) || bitsNat w2 63 20 != 0 ||
      wordAt ws 3 != 0 || (decide (12 < ccls) && ccls != 31),
    job := job, stamp := stamp, task := task }

/-- `swap`. -/
def execSwap (d a : BitVec 5) (s : State) : Out :=
  onColumn s fun c => do
    let v := s.g a
    let (ws, _, s) ← s.readStruct (.col c) v 4 8
    if 32 ≤ (s.stack (stackOf c)).swaps then .ok (s.ret d 1)
    else
      let s := s.drainFor (.col c) .sys
      let (j, s) := s.startJob c
      let task : BitVec 16 := match (s.col c).band with | some b => b.task | none => 0
      .ok ((s.modStack (stackOf c) fun k => { k with lseQ := k.lseQ ++ [refillOf ws c j (s.col c).cpu.lclk task] }).ret d 0)

/-- The completion of a refill (R258); none while it must wait. -/
def State.refillReport (s : State) (k : StackId) (r : Refill) (status bytes : Nat) : Option State :=
  if 13 ≤ r.ccls then some s
  else s.engineMsg (lseHart k) r.task r.col (BitVec.ofNat 5 r.ccls) (BitVec.ofNat 64 status) (BitVec.ofNat 64 bytes) 0 (some (r.haddr, r.xid))

/-- The engine refuses a request: a hosted or berth shelf, a broken field, a weight of 0 (R258, R348). -/
def State.refillRefused (s : State) (r : Refill) : Bool :=
  let sh := (s.col r.col).drift.shelves.get (fin 15 r.shelf)
  r.bad || (!r.auto && (sh == .hosted || sh == .berth)) || s.hub.engWeight (s.taskSpace r.task).2 1 == 0

/-- The request fetches a berth from the save area (R66, R79). -/
def State.fetches (s : State) (r : Refill) : Bool := r.auto && (s.col r.col).drift.shelves.get (fin 15 r.shelf) == .berth

/-- A request asked by the drift controller may be asked again. -/
def State.unask (s : State) (r : Refill) : State :=
  let mark := if s.fetches r then 16 else r.shelf
  if r.auto then s.modDrift r.col fun d => { d with asked := d.asked.filter fun h => h != mark } else s

/-- The task of a request runs. -/
def State.refillRuns (s : State) (r : Refill) : Bool :=
  s.hub.pwr == .run && match s.task? r.task with | some t => t.st == .running | none => false

/-- A shelf that the next stage needs stays on from the start of that stage's restore (R421). -/
def Drift.keepsOn (d : Drift) (h : Nat) : Bool :=
  match d.next with
  | none => false
  | some r => r.shelves.getLsbD h && (d.restored || (match d.phase with | .restoring k _ => k == r.stage | _ => false))

/-- Sets the state of a shelf: a shelf in use, or ready for a next stage whose restore has begun, wakes; another rests (R421). -/
def State.setShelf (s : State) (c : ColId) (h : Nat) (k : Shelf) : State :=
  let s := s.modDrift c fun d => { d with shelves := vset d.shelves (fin 15 h) k }
  let keep := (s.col c).drift.keepsOn h
  s.modCol c fun x => match k with
    | .hosted | .berth | .filling _ => x.askShelf h 0
    | .ready _ | .free => if keep then x.askShelf h 0 else x.shelfRests h

/-- `SWAP_REFILL_START` (R258): the engine takes its oldest request and the shelf is filling, or the request ends with status 1. -/
def execSwapRefillStart (k : StackId) (s : State) : Out :=
  let e := s.stack k
  match e.lse, e.lseQ with
  | none, r :: rest =>
    if !s.refillRuns r then .next s
    else
      let s1 := (s.modStack k fun x => { x with lseQ := rest }).engineStart (lseHart k) r.stamp
      if s.refillRefused r then
        match s1.refillReport k r 1 0 with
        | some s => .next ((s.unask r).endJob r.col r.job)
        | none => .next s
      else
        let run : Refilling := { r := r, next := 0, taint := false, fault := false, paused := none, deferred := none, stalled := false, lastR := none, lastW := none }
        let take (s : State) : State := s.modStack k fun x => { x with lse := some run }
        if s.fetches r then
          match s1.displace r.col r.stage with
          | some s2 => .next (take s2)
          | none => .next s
        else .next ((take s1).setShelf r.col r.shelf (.filling r.stage))
  | _, _ => .next s

/-- The running refill replaced through `f`. -/
def State.modLse (s : State) (k : StackId) (f : Refilling → Refilling) : State := s.modStack k fun x => { x with lse := x.lse.map f }

/-- The words of device memory that a piece of `n` bytes at `pa` lies in. -/
def pieceWords (pa n : Nat) : List Loc := (upTo ((pa % 8 + n + 7) / 8)).map fun i => ⟨.dev, 0, (pa / 8 + i) * 8⟩

/-- Reads a piece of `n` bytes of device memory for a layer-swap engine: its bytes, and its taint. -/
def State.readPiece (s : State) (k : StackId) (sa : Bool) (pa n : Nat) : List Byte × Bool × State :=
  let r := (pieceWords pa n).foldl (fun (q : List Byte × Bool × State) l =>
    let ((v, t), s) := q.2.2.readLoc (some k) sa l
    (q.1 ++ leBytes 8 v.toNat, q.2.1 || t, s.noteSeen (.hart (lseHart k)) l)) (([] : List Byte), false, s)
  ((r.1.drop (pa % 8)).take n, r.2)

/-- Copies a piece of a granule from device memory to a shelf: the taint, and whether a store was dropped. -/
def State.copyPiece (s : State) (k : StackId) (c : ColId) (sa : Bool) (pa dst n : Nat) : Bool × Bool × State :=
  let (bs, t, s) := s.readPiece k sa pa n
  let whole := List.replicate (dst % 8) 0 ++ bs
  let (dropped, s) := (upTo (ceilDiv whole.length 8)).foldl (fun (q : Bool × State) i =>
    let l : Loc := ⟨.vert, c, (dst / 8 + i) * 8⟩
    let lo := if i = 0 then dst % 8 else 0
    let w := (whole.drop (8 * i)).take 8
    match q.2.access l with
    | .open_ => (q.1, q.2.writeLoc l (byteMask lo (w.length - lo)) (BitVec.ofNat 64 (leNat w)))
    | _ => (true, q.2.countDropped)) (false, s)
  (t, dropped, s)

/-- A running refill waits at an empty SA word, with one of the channel's 16 entries or stalled for one (R117). -/
def State.lseDefer (s : State) (k : StackId) (l : Option Loc) : State :=
  let full := match l with | some l => decide (16 ≤ s.deferCount l) | none => false
  s.modLse k fun f => if f.deferred == l && !f.stalled then f else { f with deferred := l, stalled := full }

/-- The next piece of a running refill (R258, R354, R378): it takes a slot of the shelf's port that fell free (R71). At an absent page a program's refill ends with status 2, and the controller's own waits at its engine (assumption log 107). -/
def State.moveGranule (s : State) (k : StackId) : State :=
  match (s.stack k).lse with
  | none => s
  | some f =>
    let r := f.r
    match pieceOf r.runs f.next with
    | none => s
    | some (dst, va, n) =>
      if n = 0 then s.modLse k fun f => { f with next := f.next + 1 }
      else if f.fault || f.paused.isSome || !s.refillRuns r || s.entryFull f.deferred f.stalled then s
      else
        let (ptb, p) := s.taskSpace r.task
        match s.engineVa k .lse ptb p va false with
        | (.error .fault, s) => s.modLse k fun f => { f with fault := true }
        | (.error (.page va bad), s) => (s.modLse k fun f => if r.auto then { f with paused := some va } else { f with fault := true }).enginePage (lseHart k) p ptb va bad 3
        | (.error _, s) => s
        | (.ok (pa, disc, tn), s) =>
          let wait := if disc == .sa then (pieceWords pa n).find? fun l => (s.presence l).isNone else none
          let two := decide (pa / 64 ≠ (pa + n - 1) / 64)
          if s.asleep ⟨.vert, r.col, dst⟩ then s.wakeFor ⟨.vert, r.col, dst⟩
          else if wait.isSome then s.lseDefer k wait
          else match s.admitBurst .refill p 2 ⟨.vert, r.col, dst⟩ f.lastW with
            | none => s
            | some (lw, s1) => match s1.admitBurst .refill p 2 ⟨.dev, 0, pa⟩ f.lastR with
              | none => s
              | some (lr, s2) => match (if two then s2.admitBurst .refill p 2 ⟨.dev, 0, pa + n - 1⟩ none else some (lr, s2)) with
                | none => s
                | some (lr, s3) =>
                  let (t, dropped, s) := s3.copyPiece k r.col (disc == .sa) pa dst n
                  s.modLse k fun f => { f with next := f.next + 1, taint := f.taint || t || tn, fault := dropped, deferred := none, stalled := false, lastR := lr, lastW := lw }

/-- A berth that lay in the save area is in the berth shelf again, and a restore that waits for it begins to read (R66, R79). -/
def State.berthIn (s : State) (c : ColId) (stage : Nat) : State :=
  (s.modDrift c fun d => { d.modRes stage fun r => { r with resident := true } with area := eraseKey stage d.area }).timeRestore c

/-- `SWAP_REFILL_DONE` (R258): the shelf is ready for its stage and the completion is sent; a refill that a fault ended leaves the shelf free. -/
def execSwapRefillDone (k : StackId) (s : State) : Out :=
  match (s.stack k).lse with
  | none => .next s
  | some f =>
    let r := f.r
    let berth := s.fetches r
    if !s.refillRuns r || f.paused.isSome || !(f.fault || decide (r.pieces ≤ f.next)) then .next s
    else
      let s := s.settleReads (.hart (lseHart k))
      match s.refillReport k r (if f.fault then 2 else if f.taint then 3 else 0) (128 * f.next) with
      | none => .next s
      | some s =>
        let s := (s.modStack k fun x => { x with lse := none }).unask r
        let s := if berth then (if f.fault then s else s.berthIn r.col r.stage) else s.setShelf r.col r.shelf (if f.fault then .free else .ready r.stage)
        .next (s.endJobTaint r.col r.job f.taint)

/-! Bulk moves (R259). -/

/-- The zero bits of a bulk block, and the range of its OPN (R232, R259). -/
def bulkFields (ws : List DWord) : Res Unit := do
  res0 (wordAt ws 0) 63 46
  res0 (wordAt ws 1) 63 46
  res0 (wordAt ws 2) 63 40
  res0 (wordAt ws 3) 63 32
  res0 (wordAt ws 3) 15 8
  inRange (decide (bitsNat (wordAt ws 3) 7 0 ≤ 3))

/-- The bulk move that a block asks for; `bad` where it is refused. -/
def bulkOf (ws : List DWord) (stamp : BitVec 48) : Bulk :=
  let (w0, w1, w2, w3) := (wordAt ws 0, wordAt ws 1, wordAt ws 2, wordAt ws 3)
  let (src, dst, len, opn) := (bitsNat w0 45 0, bitsNat w1 45 0, bitsNat w2 39 0, bitsNat w3 7 0)
  let aligned := if opn = 1 then len % 512 == 0 else src % 64 == 0 && dst % 64 == 0 && len % 64 == 0
  { src := src, dst := dst, len := len, tag := field w3 16 16, opn := opn,
    bad := !aligned,
    next := 0, written := 0, taint := false, fault := false, stamp := stamp }

/-- `bmov`: engine harts only. Every earlier access of the handler performs before the move's (R139). -/
def execBmov (d a : BitVec 5) (s : State) : Out :=
  match s.focus with
  | .col _ => .next (s.seqFault s.focus (.plain .illegal))
  | .hart h => seqResult s (do
      let v := s.g a
      let (ws, _, s) ← s.readStruct (.hart h) v 4 8
      bulkFields ws
      if 8 ≤ (s.hart h).moves.length then .ok (s.ret d 1)
      else
        let s := s.drainFor (.hart h) .sys
        .ok ((s.modHart h fun x => { x with moves := x.moves ++ [bulkOf ws x.cpu.lclk] }).ret d 0))

/-- A byte range of device memory is mapped. -/
def Hub.mapped (h : Hub) (pa n : Nat) : Bool := (h.channel? pa).isSome && (n == 0 || (h.channel? (pa + n - 1)).isSome)

/-- Reads `n` bytes for an engine hart at a physical address that need not be aligned, and whether any was uncorrectable. -/
def State.physBytes (s : State) (h : HartId) (pa n : Nat) : List Byte × Bool × State :=
  let first := pa % 8
  let r := (upTo ((first + n + 7) / 8)).foldl (fun (q : List Byte × Bool × State) i =>
    let ((v, t), s) := q.2.2.readDev (some (stackOfHart h)) (pa / 8 + i)
    (q.1 ++ leBytes 8 v.toNat, q.2.1 || t, s.noteSeen (.hart h) ⟨.dev, 0, (pa / 8 + i) * 8⟩)) (([] : List Byte), false, s)
  ((r.1.drop first).take n, r.2)

/-- Writes bytes at a physical address at the channel, after the stores that wait for those words. -/
def State.putPhys (s : State) (pa : Nat) (bs : List Byte) : State :=
  let s := s.flushOrd fun o => decide (pa / 8 ≤ o.pa / 8) && decide (o.pa / 8 ≤ (pa + bs.length - 1) / 8)
  (mapFrom (fun i b => (i, b)) 0 bs).foldl (fun s q =>
    let a := pa + q.1
    s.modHub fun h => h.writeChannel (a / 8) (byteMask (a % 8) 1) (BitVec.ofNat 64 (q.2.toNat * 2 ^ (8 * (a % 8))))) s

/-- A frame of a bulk move is filled to an 8-byte boundary, as in R384 (assumption log 14). -/
def padFrame (f : List Byte) : List Byte := f ++ List.replicate ((8 - f.length % 8) % 8) 0

/-- Bits that 64 coded words take; none where the bits do not hold them (R134). -/
def frameBits : Nat → List Bool → Option Nat
  | 0, _ => some 0
  | n + 1, bs =>
    let need := if natOfBits (bs.take 2) = 2 then 66 else 2
    if bs.length < need then none else (frameBits n (bs.drop need)).map (· + need)

/-- One bulk move replaced through `f`. -/
def State.modBulk (s : State) (h : HartId) (i : Nat) (f : Bulk → Bulk) : State := s.modHart h fun x => { x with moves := modNth f i x.moves }

/-- The next piece of a bulk move: a word of a copy or of a zero-fill, or a granule that is coded or decoded. -/
def State.moveBulk (s : State) (h : HartId) (i : Nat) : State :=
  match (s.hart h).moves[i]? with
  | none => s
  | some m =>
    let fail (s : State) : State := s.modBulk h i fun m => { m with fault := true }
    if m.bad || m.fault || m.len ≤ m.next || s.hub.pwr != .run then s
    else
      let src := m.src + m.next
      let dst := m.dst + m.written
      let n := if m.opn = 1 then 512 else if m.opn = 2 then Nat.min 528 (m.len - m.next) else 8
      if m.opn ≠ 3 && !s.hub.mapped src n then fail s
      else
        let (bs, t, s) := if m.opn = 3 then (List.replicate 8 0, false, s) else s.physBytes h src n
        let (out, used) :=
          if m.opn = 1 then (padFrame (codeGranule bs), 512)
          else if m.opn = 2 then
            (match frameBits 64 (bs.flatMap fun b => bitsOf 8 b.toNat) with
             | some k => (decodeGranule bs, ceilDiv (ceilDiv k 8) 8 * 8)
             | none => ([], m.len - m.next))
          else (bs, 8)
        if !out.isEmpty && !s.hub.mapped dst out.length then fail s
        else (if out.isEmpty then s else s.putPhys dst out).modBulk h i fun m => { m with next := m.next + used, written := m.written + out.length, taint := m.taint || t }

/-- `BMOV_COMPLETE`: a move that has ended queues its class-12 message at its hart, after every access of it has performed for `sys` (R149). -/
def execBmovComplete (h : HartId) (i : Nat) (s : State) : Out :=
  match (s.hart h).moves[i]? with
  | none => .next s
  | some m =>
    if !(m.bad || m.fault || decide (m.len ≤ m.next)) then .next s
    else
      let status := if m.bad then 1 else if m.fault then 2 else if m.taint then 3 else 0
      .next (((s.settleReads (.hart h)).modHart h fun x => { x with moves := dropNth i x.moves }).selfQueue (.hart h)
        (selfMsg (.hart h) 12 (BitVec.ofNat 64 status) (BitVec.ofNat 64 m.written) (BitVec.setWidth 64 m.tag) none))

/-! Kicks (R149). -/

/-- The message that an engine observes of a store to its kick register: class 0, with the value stored in g1 (assumption log 15). -/
def kickMsg (v : DWord) (stamp : BitVec 48) (from_ : Option ColId) : PendMsg :=
  { cls := 0, src := match from_ with | some c => ⟨false, BitVec.ofNat 8 c.val⟩ | none => ⟨true, 0x2C#8⟩, len := 0, seq := 0, g1 := v, g2 := 0, g3 := 0,
    area := leBytes 8 v.toNat ++ List.replicate 24 0, handler := none, stamp := some stamp }

/-- `ENGINE_KICK`: the oldest kick of an engine reaches its hart, which has an entry for it. -/
def execEngineKick (i : Nat) (s : State) : Out :=
  match s.hub.kicked[i]? with
  | none => .next s
  | some (eng, v, stamp, from_) =>
    let n := Node.hart (fin 42 (if eng < 40 then eng else eng - 1))
    if ((s.hub.kicked.take i).any fun k => k.1 == eng) || 64 ≤ (s.cpu n).pendCount then .next s
    else .next ((s.modHub fun h => { h with kicked := dropNth i h.kicked }).arrive n (kickMsg v stamp from_))

end Sys2Proof.Machine
end

