-- ==== Sys2Proof/Machine/Preempt.lean ====
section
/-! DEFINITION. Scheduling (R360 to R363), pre-emption, checkpoint and restore (R366 to R370), task commands (R356), the watchdog (R32) and fault quiescence (R380). -/

namespace Sys2Proof.Machine

open Sys2Proof

/-! The tick, the quantum and starvation. -/

/-- Cycles of a tick (R360). -/
def tickCycles : Nat := 290000

/-- dtherm: THI, TLO and EN. -/
def Hub.dtherm (h : Hub) : Nat × Nat × Bool := let r := h.reg 0x0E0108; (bitsNat r 7 0, bitsNat r 15 8, r.getLsbD 16)

/-- `DISPATCH_TICK` (R363): a tick has passed; the sensors give the temperatures of columns 0 on, and SKIP follows them. A column without a reading keeps its own. -/
def execDispatchTick (temps : List (BitVec 8)) (s : State) : Out :=
  if s.now < (s.hub.tick + 1) * tickCycles then .next s
  else
    let h := s.hub
    let (hi, lo, en) := h.dtherm
    let t (i : Nat) (old : BitVec 8) : BitVec 8 := nth old temps i
    let dt := vmapIdx t h.dtemp
    let sk (i : Nat) (old : Bool) : Bool :=
      let v := (dt.get (fin 255 i)).toNat
      if !en then old else if hi ≤ v then true else if v ≤ lo then false else old
    .next { s with hub := { h with tick := h.tick + 1, dtemp := dt, skip := vmapIdx sk h.skip } }

/-- `DTHERM_WRITE` (R360): no effect where TLO is at least THI. -/
def execDthermWrite (v : BitVec 64) (s : State) : Out :=
  s.opened (if bitsNat v 7 0 ≤ bitsNat v 15 8 then .next s else .next (s.modHub fun h => h.setReg 0x0E0108 (v &&& 0x1FFFF#64)))

/-- `QUANTUM_EXPIRY` (R361, R362): a running task has had its quantum; a promoted one goes back to its own level. -/
def execQuantumExpiry (task : BitVec 16) (s : State) : Out :=
  match s.task? task with
  | none => .next s
  | some t =>
    let q := bitsNat (s.hub.reg 0x0E0100) 15 0
    if t.st != .running || q = 0 || s.now < t.started + t.offQ + q * tickCycles then .next s
    else .next (s.modTask task fun t => { t with expired := true, level := t.home, promoted := false })

/-- `STARVATION_PROMOTION` (R361): a task that has waited LIMIT ticks goes to the tail of the next level, once. -/
def execStarvationPromotion (task : BitVec 16) (s : State) : Out :=
  match s.task? task with
  | none => .next s
  | some t =>
    let lim := bitsNat (s.hub.reg (0x0E0180 + 8 * t.level)) 15 0
    let waits := t.st == .queued || t.st == .preempted
    if !waits || t.promoted || 15 ≤ t.level || lim = 0 || s.hub.tick < t.since + lim then .next s
    else .next ((s.modHub fun h => (h.unqueue task).enqueue (t.level + 1) task false).modTask task fun t => { t with level := t.level + 1, promoted := true })

/-- Enough columns for a candidate are free, being freed, or held by the tasks of a group (R362): without them no victim is taken. -/
def State.mayFit (s : State) (c : Task) (group : List Task) : Bool :=
  let going := s.hub.tasks.filter fun t => t.st == .preempting
  let held (k : ColId) : Bool := (group ++ going).any fun t => t.cols.contains k
  let usable (k : ColId) : Bool := s.freeFor c k || (held k && (s.col k).part == some c.part && !s.hub.skip.get k && c.smask.testBit (stackOf k).val)
  decide (c.b ≤ (((upTo 256).map (fin 255 ·)).filter usable).length)

/-- The victim that a candidate takes first (R362): of the running tasks at levels below, the lowest and then the most recently started; otherwise of the expired ones at its level, the longest running. -/
def State.victim (s : State) (c : Task) : Option Task :=
  let run := s.hub.tasks.filter fun t => t.st == .running && t.part == c.part
  let fits (l : List Task) : List Task := if s.mayFit c l then l else []
  let low := fits (run.filter fun t => decide (t.level < c.level) && !t.nopre)
  let exp := fits (run.filter fun t => t.level == c.level && t.expired)
  let better (a b : Task) : Bool := decide (a.level < b.level) || (a.level == b.level && decide (b.started < a.started))
  let older (a b : Task) : Bool := decide (a.started < b.started)
  let best (lt : Task → Task → Bool) (l : List Task) : Option Task := l.foldl (fun m t => match m with | none => some t | some x => if lt t x then some t else m) none
  if low.isEmpty then best older exp else best better low

/-! The start of a pre-emption (R366 step 1, R370). -/

/-- Automatic refills of a task's shelves are cancelled, and the shelves are free again (R370). -/
def State.cancelRefills (s : State) (t : Task) : State :=
  let mine (r : Refill) : Bool := r.auto && r.task == t.id
  (upTo 4).foldl (fun (s : State) k =>
    let k := fin 3 k
    let x := s.stack k
    let s := match x.lse with
      | some f => if mine f.r && !((s.col f.r.col).drift.shelves.get (fin 15 f.r.shelf) == Shelf.berth) then s.setShelf f.r.col f.r.shelf .free else s
      | none => s
    s.modStack k fun x =>
      { x with lseQ := x.lseQ.filter fun r => !mine r, lse := (match x.lse with | some f => if mine f.r then none else some f | none => none) })
    (t.cols.foldl (fun (s : State) c => s.modDrift c fun d => { d with asked := [] }) s)

/-- A PRE-EMPTION STARTS (R366, R370): a loading task goes back to the head of its level, a running one stops at its columns, and a second request is merged with the first. -/
def State.startPreempt (s : State) (t : Task) : State :=
  match t.st with
  | .running =>
    let s := if t.drift then s.forceBand t.cols else s
    let s := t.cols.foldl (fun (s : State) c => s.modCol c fun x => { x with pre := .stopped }) s
    (s.cancelRefills t).modTask t.id fun t => { t with st := .preempting, level := t.home, promoted := false, expired := false, preAt := s.now }
  | .placing | .loading =>
    let s := ((s.dropWork t.id t.cols).freeCols t.cols).modTask t.id fun t =>
      { t with st := if t.susp then .suspended else .queued, cols := [], place := none, susp := false }
    if t.susp then s else s.modHub fun h => h.enqueue t.level t.id true
  | _ => s

/-- `PREEMPT` (R362, R366): the dispatcher takes the next victim of the partition's candidate. -/
def execPreempt (task : BitVec 16) (s : State) : Out :=
  match s.task? task with
  | none => .next s
  | some t =>
    match s.hub.candidate t.part with
    | none => .next s
    | some c => match s.victim c with
      | some v => if v.id = task then .next (s.startPreempt t) else .next s
      | none => .next s

/-- The sequencer of a column may halt: it is between instructions, or its instruction still waits before it takes effect (R205). -/
def State.mayHalt (s : State) (c : ColId) : Bool := (s.col c).cpu.await.isSome || decide ((s.col c).cpu.ready ≤ s.now)

/-- The sequencer of a column halts: an instruction that still waits is abandoned, and its issued stores perform (R205). -/
def State.haltSeq (s : State) (c : ColId) : State :=
  (s.drainQueue (.col c) fun _ => true).modCol c fun x => { x with pre := .halted, cpu := { x.cpu with await := none } }

/-- `PREEMPT_SEQUENCER_HALT` (R205, R366 step 2): the sequencer halts at an instruction boundary. -/
def execPreemptSequencerHalt (c : ColId) (s : State) : Out :=
  if (s.col c).pre != .stopped || !s.mayHalt c then .next s else .next (s.haltSeq c)

/-! The drain (R366 steps 3 to 5, R367). -/

/-- A stream gives up what it still waits for: reads from the first that has not performed on, with the iterators back at it. A stopped stream keeps its requests. -/
def Ctx.withdraw (x : Ctx) : Ctx :=
  match x.strm with
  | none => x
  | some m =>
    let undone (p : Piece) : Bool := match p.st with | .done _ _ => false | _ => true
    let open_ (q : AgReq) : Bool := !q.write && (q.pieces.any undone || !q.rest.isEmpty)
    match indexOf? open_ m.reqs with
    | none => x
    | some k =>
      if m.halt == .stopped || m.halt == .fault then x
      else
        let gone := m.reqs.drop k
        let first := gone.head?
        { x with
          it := (match first with | some q => q.start | none => x.it),
          strm := some { m with reqs := m.reqs.take k, issuedReqs := (match first with | some q => q.idx | none => m.issuedReqs), allIssued := false,
                                nElems := m.nElems - sumList (gone.map fun q => q.elems.length), halt := .run, stopVa := 0 } }

/-- Every context of a column. -/
def ctxRefs (c : ColId) : List CtxRef := (upTo 128).map fun i => ⟨c, fin 31 (i / 4), fin 3 (i % 4)⟩

/-- The pieces that a stream has issued and that have not performed, as request and piece. -/
def Stream.issuedPieces (m : Stream) : List (Nat × Nat) :=
  (mapFrom (fun k (q : AgReq) => mapFrom (fun p (a : Piece) => (k, p, a)) 0 q.pieces) 0 m.reqs).flatMap fun l =>
    (l.filter fun q => match q.2.2.st with | .done _ _ => false | _ => true).map fun q => (q.1, q.2.1)

/-- The accesses that a stream has issued perform. -/
def State.drainStream (s : State) (r : CtxRef) : State :=
  match (s.ctx r).strm with
  | none => s
  | some m =>
    m.issuedPieces.foldl (fun (s : State) q => s.performPiece r q.1 q.2) s

/-- Nothing is on its way to a column, or back to it. -/
def State.quietLinks (s : State) (c : ColId) : Bool :=
  let into (f : Flight) : Bool := match f.dest with
    | .port p => p.at_.col == c
    | .frost k | .gather k _ _ | .turn k _ => k == c
    | .engine _ _ => false
  !(s.flights.any into) && !(s.credits.any fun q => q.feeder.within [c]) && !(s.decs.any fun d => d.merge.col == c) &&
  !(s.msgs.any fun m => m.dst == .col c) && !(s.resets.any fun r => r.1 == c.val || r.2.2 == c.val)

/-- No vector is inside the fabric of a column. -/
def Fabric.noVector (f : Fabric) : Bool := f.pipe.all fun o => match o with | .vec _ _ _ _ => false | .mark _ _ => true

/-- The column may be called drained (R366 step 5). -/
def State.drainable (s : State) (c : ColId) : Bool :=
  let x := s.col c
  x.pre == .halted && s.quietLinks c && x.fab.noVector && x.drift.forced.isNone && (match x.drift.phase with | .idle => true | _ => !x.drift.on) &&
  x.elems.toList.all fun e => decide (e.busy ≤ s.now)

/-- Everything that the column has issued has performed, and withdrawn reads are given up. -/
def State.drainColumn (s : State) (c : ColId) : State :=
  let s := (ctxRefs c).foldl (fun (s : State) r => s.drainStream r) s
  let s := s.flushOrd fun o => o.node == .col c
  let s := (ctxRefs c).foldl (fun (s : State) r => (s.formReplies r).modCtx r Ctx.withdraw) s
  let gone (w : Waiter) : Bool := match w with | .stream r => r.col == c | .column k => k == c | _ => false
  s.modStack (stackOf c) fun k => { k with replay := k.replay.filter fun q => !gone q.who }

/-- tstat of a partition: the command in progress is done. -/
def State.tcmdDone (s : State) (p : PartId) : State := s.modHub fun h => { h with tstat := vset h.tstat p 0 }

/-- The columns of a task are drained and its image, if one is kept, is saved: it waits, is suspended, or ends (R366 step 6, R370). -/
def State.leaveColumns (s : State) (t : Task) : State :=
  match t.ending with
  | some k => let s := s.closeTask t k; if k = 8 || t.susp then s.tcmdDone t.part else s
  | none =>
    let imgs := mapFrom (fun i c => (i, s.col c)) 0 t.cols
    let s := (s.freeCols t.cols).modTask t.id fun t =>
      { t with st := if t.susp then .suspended else .preempted, images := imgs, since := s.hub.tick, susp := false }
    if t.susp then s.tcmdDone t.part else s.modHub fun h => h.enqueue t.home t.id false

/-- Every column of a task is drained, its image saved or not. -/
def State.allDrained (s : State) (t : Task) : Bool := t.cols.all fun c => (s.col c).pre == .drained || (s.col c).pre == .saved

/-- `PREEMPT_DRAINED` (R366, R367): links are empty and what was issued has performed. A killed task saves nothing. -/
def execPreemptDrained (c : ColId) (s : State) : Out :=
  if !(s.settleFrost c).drainable c then .next s
  else
    let s := ((s.settleFrost c).drainColumn c).modCol c fun x => { x with pre := .drained }
    match s.taskOf c with
    | none => .next s
    | some t =>
      if t.ending.isSome && s.allDrained t then .next (s.leaveColumns t) else .next s

/-! Saving (R368). -/

/-- The lowest free shelf of a column on a layer in service. -/
def Column.freeShelf (x : Column) : Option Nat :=
  (upTo 16).find? fun h => x.drift.shelves.get (fin 15 h) == .free && !x.vret.getLsbD (h / 4)

/-- The image goes to the lowest free shelf, or to the save area with its entry; none where it stays in the column. -/
def State.saveImage (s : State) (t : Task) (slot : Nat) (c : ColId) : Option State :=
  let x := s.col c
  let img := x.checkImage c
  match x.freeShelf with
  | some h => some (((s.modCol c fun x => x.shelfUp h).vertPut c (shelfBase h) img).chargeBerth c (shelfBase h) img.length)
  | none =>
    let n := ceilDiv img.length 4096 * 4096
    let (ptb, p) := s.taskSpace t.id
    match areaGap (s.areasOf t) t.saveSz n with
    | none => none
    | some o =>
      match s.spillPut ptb p (t.save + o) (dwords (padTo n img)) with
      | .error _ => none
      | .ok s =>
        match s.spillPut ptb p (t.save + 16 * slot) [BitVec.ofNat 64 (o % 2 ^ 40 + 2 ^ 63), BitVec.ofNat 64 img.length] with
        | .error _ => none
        | .ok s => some (s.modTask t.id fun t => { t with areas := t.areas ++ [(slot, o, img.length)] })

/-- `CHECKPOINT_SAVED` (R366, R368): a drained column's image is written; with the last one the band's columns are freed. An image that finds no room stays in the column. -/
def execCheckpointSaved (c : ColId) (s : State) : Out :=
  match s.taskOf c with
  | none => .next s
  | some t =>
    if (s.col c).pre != .drained || t.ending.isSome then .next s
    else match s.saveImage t ((indexOf? (· == c) t.cols).getD 0) c with
      | none => .next s
      | some s =>
        let s := s.modCol c fun x => { x with pre := .saved }
        match s.taskOf c with
        | none => .next s
        | some t => if t.cols.all fun k => (s.col k).pre == .saved then .next (s.leaveColumns t) else .next s

/-! Restore (R34, R369). -/

/-- Work of a task at the engines follows it to other columns (R370). -/
def State.moveWork (s : State) (id : BitVec 16) (f : Moves) : State :=
  let xf (x : Xfer) : Xfer := if x.task = id then
      { x with from_ := x.from_.map f, node := x.node.map fun q => (f q.1, q.2), reply := x.reply.map fun q => (q.1.move f, q.2) } else x
  let te (e : Te) : Te := { e with q := e.q.map xf, cur := e.cur.map fun m => { m with x := xf m.x }, packets := e.packets.map (QTok.move f) }
  let rf (r : Refill) : Refill := if r.task = id then { r with col := f r.col } else r
  let gr (g : Graph) : Graph := if g.task = id then { g with col := f g.col } else g
  let all : List Stack := s.stk.toList
  let gs := (all.flatMap fun k => k.graphs.filter fun g => g.task == id).map gr
  let rs := (all.flatMap fun k => (match k.lse with | some r => if r.r.task = id && stackOf (f r.r.col) != stackOf r.r.col then [r.r] else [] | none => []) ++
    k.lseQ.filter fun r => r.task == id).map rf
  let go (i : Nat) (k : Stack) : Stack :=
    let here (c : ColId) : Bool := (stackOf c).val == i
    { k with
      te := vmap te k.te, lseQ := (k.lseQ.filter fun r => r.task != id) ++ rs.filter fun r => here r.col,
      lse := (match k.lse with | some r => if r.r.task = id && stackOf (f r.r.col) != stackOf r.r.col then none else some { r with r := rf r.r } | none => none),
      graphs := (k.graphs.filter fun g => g.task != id) ++ gs.filter fun g => here g.col }
  { s with stk := vmapIdx go s.stk }

/-- The weights that shelves of a slot held, from the object again: those of the hosted stage, and those that were ready (R34, R79). -/
def Column.reloadWeights (x img : Column) (l : SlotLoad) : Column :=
  let holds (k h : Nat) : Bool := match img.drift.shelves.get (fin 15 h) with | .hosted => k == img.drift.hosted | .ready j => k == j | _ => false
  l.starts.foldl (fun (x : Column) z =>
    let mask := (upTo 16).foldl (fun (v : BitVec 16) h => putBit v h (holds z.stage h)) 0
    z.weights.foldl (fun x q => x.loadVertIn mask q.1 q.2) x) x

/-- The vertical contents that a restored column needs: the sections of the slot again where another task has used the shelves, and the slot's berths (R34, R66). -/
def Column.reloadVert (x img : Column) (moved : Bool) (t : Task) (l : SlotLoad) : Column :=
  let x := if moved || x.lastTask != some t.id then (l.vert.foldl (fun x q => x.loadVert q.1 q.2) x).reloadWeights img l else x
  let x := match img.drift.berth with
    | some h => if moved || x.lastTask != some t.id then x.copyShelf img h.val else x
    | none => x
  { x with lastTask := some t.id }

/-- Granules 0 to `n` - 1 of a frost image as the vertical store holds them, and whether any was uncorrectable. -/
def State.imageBytes (s : State) (c : ColId) (addr n : Nat) : List Byte × Bool × State :=
  (upTo n).foldl (fun (q : List Byte × Bool × State) g =>
    match vertDecode (addr + 128 * g) with
    | none => q
    | some p => let (bs, t, s) := q.2.2.vertGet c p 128; (q.1 ++ bs, q.2.1 || t, s)) ([], false, s)

/-- A plane is loaded again from the vertical address of its last load (R173); an image that is refused leaves it empty (assumption log 99). -/
def State.reloadPlane (s : State) (c : ColId) (k : Fin 2) : State :=
  let p := (s.col c).fab.planes.get k
  match p.addr with
  | none => s
  | some a =>
    if p.st == .loading then s
    else
      let (hd, _, s) := s.imageBytes c a.toNat 1
      let len := imageLen (BitVec.ofNat 64 (leNat (hd.take 8)))
      let put (s : State) (q : Plane) : State := s.modFab c fun f => { f with planes := vset f.planes k q }
      let gone : Plane := { Plane.empty with addr := some a }
      if apertureEnd a.toNat < a.toNat + len then put s gone
      else
        let (bs, t, s) := s.imageBytes c a.toNat (ceilDiv len 128)
        let q := pageOf (bs.take len) t a
        put s (match q.refusal with | some _ => gone | none => { q with wres := maxList (q.rowWidths (nodeWidths q.iw16 [] q.nodes)) })

/-- One column of a restored task: the image's state with the wiring of the placement. -/
def State.restoreColumn (s : State) (t : Task) (f : Moves) (moved : Bool) (ptb : DWord) (l : SlotLoad) (img : Column) (c : ColId) : State :=
  let s := s.modCol c fun x =>
    let x := x.reloadVert img moved t l
    let y := (x.receive (img.move f)).powerShelves
    let exits := l.plan.exits.foldl (fun (v : Vector DWord 128) q => vset v (fin 127 q.1) q.2) (vfill 128 0)
    let y := if moved then { y with exits := exits, exitTe := l.plan.exitTe, spill := l.plan.spill, resv := l.plan.resv } else y
    let again (g : FrostLoad) : FrostLoad := { g with got := [], due := s.now }
    let y := { y with ptb := ptb, fab := { y.fab with load := y.fab.load.map again }, cpu := { y.cpu with ready := s.now } }
    s.withBudgets t y
  (s.reloadPlane c 0).reloadPlane c 1

/-- Every column of a task is restored, and the task runs again (R369). -/
def State.restoreBand (s : State) (t : Task) (m : MapperPlan) (l : TaskLoad) (moved : Bool) : State :=
  let ls := l.slots
  let pairs := t.cols.zip m.cols
  let f : Moves := fun c => match pairs.find? fun q => q.1 == c with | some q => q.2 | none => c
  let one (s : State) (q : Nat × ColId × SlotLoad) : State :=
    match t.images.find? fun i => i.1 == q.1 with
    | some i => s.restoreColumn t f moved m.ptb q.2.2 i.2 q.2.1
    | none => s
  let s := (mapFrom (fun i (q : ColId × SlotLoad) => (i, q)) 0 (m.cols.zip ls)).foldl one (s.moveWork t.id f)
  let s := m.cols.foldl (fun (s : State) c => (s.reportParked c).askRefills c) s
  s.modTask t.id fun t =>
    { t with st := .running, cols := m.cols, place := some (l.placed m), images := [], areas := [], started := s.now, fired := s.now, offQ := 0, waited := 0, expired := false }

/-- `TASK_RESTORE` (R34, R357, R369): the served candidate goes back to its columns where they are all free, or to those that the mapper answers. -/
def execTaskRestore (task : BitVec 16) (reply : MapperReply) (s : State) : Out :=
  match s.task? task with
  | none => .next s
  | some t =>
    let cand := match s.hub.subject t.part with | some c => c.id == task | none => false
    if t.st != .preempted || s.hub.serving != some t.part || !cand || s.hub.pwr != .run then .next s
    else
      let turned := s.modHub fun h => h.nextTurn t.part
      let old := t.place.map fun q => q.toMapperPlan
      let same := t.cols.all (fun c => s.freeFor t c) && (match old with | some q => s.linksOk t.drift q | none => true)
      let plan := match reply with
        | .placed m => if same then (match old with | some q => some q | none => some m) else some m
        | _ => if same then old else none
      match plan with
      | none => .next turned
      | some m =>
        match s.placement t m with
        | .error _ => .next s
        | .ok l =>
          if !same && !s.placeOk t l.obj l.code m then .next s
          else .next (((turned.modHub fun h => h.unqueue task).cached t m).restoreBand t m l (!same))

/-! Task commands (R356, R357, R370). -/

/-- The task of a partition that a command names: the newest that has not ended. -/
def Hub.taskAt (h : Hub) (p : PartId) (addr : BitVec 48) : Option Task :=
  (h.tasks.filter fun t => t.st != .ended && t.part == p && t.addr == addr.toNat).getLast?

/-- A command's RESULT, with BUSY while it is in progress; a command that meets one in progress is answered busy (R356). -/
def State.tcmd (s : State) (p : PartId) (addr : BitVec 48) (f : Task → Nat × Bool × State) : State :=
  let put (s : State) (r : Nat) (busy : Bool) : State :=
    s.modHub fun h => { h with tstat := vset h.tstat p (BitVec.ofNat 4 (2 * r + if busy then 1 else 0)) }
  if (s.hub.tstat.get p).getLsbD 0 then put s 2 true
  else match s.hub.taskAt p addr with
    | none => put s 1 false
    | some t => let (r, busy, s) := f t; put s r busy

/-- `TCMD_SUSPEND`. -/
def execTcmdSuspend (p : PartId) (addr : BitVec 48) (s : State) : Out :=
  s.opened (
    .next (s.tcmd p addr fun t =>
      match t.st with
      | .running | .preempting =>
        let s := s.modTask t.id fun t => { t with susp := true }
        (0, true, s.startPreempt { t with susp := true })
      | .placing | .loading => (0, false, s.startPreempt { t with susp := true })
      | .queued | .preempted => (0, false, (s.modHub fun h => h.unqueue t.id).modTask t.id fun t => { t with st := .suspended })
      | _ => (3, false, s)))

/-- A task is killed with a STATUS: at once where it holds no columns or they are drained, else once they are; of two kills the command's STATUS stands (R370). True while it is still going on. -/
def State.kill (s : State) (t : Task) (status : Nat) : Bool × State :=
  match t.st with
  | .running =>
    let s := s.modTask t.id fun t => { t with ending := some status }
    (true, s.startPreempt t)
  | .preempting =>
    let k := Nat.max (t.ending.getD 0) status
    let s := s.modTask t.id fun t => { t with ending := some k }
    if s.allDrained t then (false, s.leaveColumns { t with ending := some k }) else (true, s)
  | .placing | .loading => (false, s.closeTask t status)
  | .ended => (false, s)
  | _ => (false, (s.dropWork t.id []).endTask t status)

/-- `TCMD_KILL`. -/
def execTcmdKill (p : PartId) (addr : BitVec 48) (s : State) : Out :=
  s.opened (.next (s.tcmd p addr fun t => let (b, s) := s.kill t 8; (0, b, s)))

/-- `TCMD_RELEASE`: a suspended task goes to the tail of its level. -/
def execTcmdRelease (p : PartId) (addr : BitVec 48) (s : State) : Out :=
  s.opened (
    .next (s.tcmd p addr fun t =>
      if t.st == .suspended then
        let st := if t.images.isEmpty then TaskSt.queued else .preempted
        (0, false, (s.modHub fun h => h.enqueue t.home t.id false).modTask t.id fun t => { t with st := st, level := t.home, since := s.hub.tick })
      else (3, false, s)))

/-! The watchdog and fault quiescence. -/

/-- A token is queued in a column: in a context's queue bank, at a gather point, in a corner turn or at the frost input. -/
def Column.holdsToken (x : Column) : Bool :=
  x.elems.toList.any (fun e => e.ctxs.toList.any fun y => y.q.toList.any fun q => !q.toks.isEmpty) ||
  x.gathers.any (fun g => g.slots.any fun q => q.isSome) || x.turns.toList.any (fun t => !t.inq.isEmpty || !t.out.isEmpty) || !x.fab.q.isEmpty

/-- A stream of a column is stopped on a fault. -/
def Column.streamStopped (x : Column) : Bool :=
  x.elems.toList.any fun e => e.ctxs.toList.any fun y => match y.strm with | some m => m.halt == .page || m.halt == .fault | none => false

/-- Cycles without a firing after which the watchdog speaks (R32). -/
def watchdogCycles : Nat := 2 ^ 24

/-- `WATCHDOG` (R32, R380, R399): no firing for 2^24 cycles in a row while a token is queued; slot 0 gets the fault, with `cyc` of the last firing, and the count starts again. -/
def execWatchdog (task : BitVec 16) (s : State) : Out :=
  match s.task? task with
  | none => .next s
  | some t =>
    if t.st != .running || t.waited < watchdogCycles then .next s
    else match t.cols.head? with
      | none => .next s
      | some c =>
        let last := s.cyc (stackOf c) - BitVec.ofNat 64 (s.now - t.fired)
        .next ((s.modTask task fun t => { t with waited := 0 }).unitFault c .watchdog 0 0 last)

/-- A party of the task is stopped on an absent page: a stream, a transfer or the spill engine. -/
def State.stoppedOnPage (s : State) (t : Task) : Bool :=
  t.spillStop.isSome ||
  (t.cols.any fun c => (s.col c).elems.toList.any fun e => e.ctxs.toList.any fun y => match y.strm with | some m => m.halt == .page | none => false) ||
  s.stk.toList.any fun k => k.te.toList.any fun e => match e.cur with | some m => m.x.task == t.id && m.paused.isSome | none => false

/-- `FAULT_QUIESCENT` (R380): the dispatcher treats the task as one whose quantum has expired. -/
def execFaultQuiescent (task : BitVec 16) (s : State) : Out :=
  match s.task? task with
  | none => .next s
  | some t =>
    if t.st != .running || !s.stoppedOnPage t || s.now < t.fired + 4096 then .next s
    else .next (s.modTask task fun t => { t with expired := true })

end Sys2Proof.Machine
end

