-- ==== Sys2Proof/Machine/Errors.lean ====
section
/-! DEFINITION. Errors of stores, buses and links (R109, R344, R394, R401), and the accesses of the Keano cores (R150, R151, R403). -/

namespace Sys2Proof.Machine

open Sys2Proof

/-! Stores and buses. -/

/-- A word's correctable error is written back. -/
def Store.scrub (m : Store) (w : Nat) : Store := { m with soft := m.soft.filter fun x => x / 64 != w }

/-- `ECC_WRITEBACK` (R109): a corrected word is written back. -/
def execEccWriteback (n : Node) (vertical : Bool) (word : Nat) (s : State) : Out :=
  match n, vertical with
  | .col c, true => .next (s.modCol c fun x => { x with vert := x.vert.scrub word })
  | _, _ => .next (s.modCpu n fun u => { u with near := u.near.scrub word })

/-- `VBUS_RETIRE` (R394): a bus that has reached a threshold retires. -/
def execVbusRetire (c : ColId) (layer : Fin 4) (s : State) : Out :=
  let b := (s.col c).buses.get layer
  .next (if 64 ≤ b.unc || 1024 ≤ b.run then s.retireBus c layer.val else s)

/-- `VBUS_ERROR_WINDOW` (R394): a window of 2^30 cycles begins, and the buses of a stack count from 0. -/
def execVbusErrorWindow (k : StackId) (s : State) : Out :=
  let n := (s.cyc k).toNat / 2 ^ 30
  if n = (s.stack k).window then .next s
  else
    let f (i : Nat) (x : Column) : Column := if i / 64 = k.val then { x with buses := vmap (fun b => { b with unc := 0 }) x.buses } else x
    let s := s.modStack k fun x => { x with window := n }
    .next { s with cols := vmapIdx f s.cols }

/-- A write to `vret`: 1 retires a bus, 0 has no effect (R344). -/
def State.putVret (s : State) (c : ColId) (v : DWord) : State :=
  (upTo 4).foldl (fun (s : State) i => if v.getLsbD i then s.retireBus c i else s) s

/-- `VRET_WRITE`. -/
def execVretWrite (c : ColId) (v : BitVec 64) (s : State) : Out :=
  s.opened (.next (s.putVret c v))

/-! Links (R393, R401). -/

/-- The error register of a link. -/
def LinkRef.reg : LinkRef → Nat
  | .ucie k => 0x0E0A88 + 8 * k.val
  | .pcie => 0x0E0AC8

/-- `LINK_RETRAIN` (R393): a link begins to retrain; or it recovers; or, without a retrain, it has replayed. -/
def execLinkRetrain (k : LinkRef) (recovered : Bool) (s : State) : Out :=
  let down := s.hub.retrain.any fun r => r.1 == k
  let up (h : Hub) : Hub := { h with retrain := h.retrain.filter fun r => r.1 != k }
  match k, recovered, down with
  | .ucie _, false, false => .next (s.modHub fun h => { h.bumpReg k.reg true 1 with retrain := h.retrain ++ [(k, s.now)] })
  | .pcie, false, false => .next (s.modHub fun h => { h with retrain := h.retrain ++ [(k, s.now)] })
  | _, false, true => .next s
  | .ucie _, true, true => .next (s.modHub up)
  | .pcie, true, true => .next (s.modHub fun h => (up h).bumpReg k.reg true 1)
  | _, true, false => .next (s.modHub fun h => h.bumpReg k.reg false 1)

/-- A millisecond in cycles (R360: a tick is 100 µs). -/
def millisecond : Nat := 10 * tickCycles

/-- `LINK_OUT_OF_SERVICE` (R401): a link that has not recovered within 1 ms goes out of service; the tasks whose band crosses it, and those whose traffic does, which the event names, end with STATUS 7. -/
def execLinkOutOfService (k : LinkRef) (tasks : List (BitVec 16)) (s : State) : Out :=
  match s.hub.retrain.find? fun r => r.1 == k with
  | none => .next s
  | some (_, t) =>
    if s.now < t + millisecond then .next s
    else
      let s := s.modHub fun h => { h with retrain := h.retrain.filter fun r => r.1 != k, links := (match k with | .ucie i => vset h.links i false | .pcie => h.links),
                                          degr := (match k with | .ucie _ => putBit h.degr 3 true | .pcie => h.degr),
                                          pcieUp := (match k with | .pcie => false | .ucie _ => h.pcieUp) }
      let crossed (t : Task) : Bool := match k with | .ucie i => t.crosses i | .pcie => false
      let live := s.hub.tasks.filter fun t => t.st != .ended && (tasks.contains t.id || (t.st != .preempted && crossed t))
      let s := live.foldl (fun (s : State) t => (s.kill t 7).2) s
      let info := leBytes 8 (match k with | .ucie i => i.val | .pcie => 8)
      let parts := (upTo 8).filter fun p => live.any fun t => t.part.val == p
      .next (if parts.isEmpty then s.allEvent 11 0 info else parts.foldl (fun (s : State) p => s.sysEvent (fin 7 p) 11 0 info) s)

/-- `PCIE_ENDPOINT_LINK_DOWN` (R401): event 11, and tasks go on. -/
def execPcieEndpointLinkDown (s : State) : Out :=
  if s.hub.pciemode = 0#2 then .next s else .next ((s.modHub fun h => { h with pcieUp := false }).allEvent 11 0 (leBytes 8 8))

/-! The Keano cores (R150, R151, R403). -/

/-- The RAS MSI. -/
def State.rasMsi (s : State) : State := s.signal (.msi (s.hub.reg 0x0E0AE0) (s.hub.reg 0x0E0AE8 &&& 0xFFFFFFFF#64))

/-- An uncorrectable burst answers a Keano load with an access fault. -/
def State.keanoBad (s : State) (core : Fin 16) (pa : Nat) : State :=
  let ch := (s.hub.channel? pa).getD 16
  ((s.modHub fun h => h.bumpReg (errReg ch) true 1).signal (.loadFault core)).rasMsi

/-- `KEANO_MEMORY_ERROR` (R403): an uncorrectable burst that a core loads; or an uncorrectable line of the last-level cache, which is dropped if clean and otherwise written back as zeros. -/
def execKeanoMemoryError (core : Fin 16) (pa : Nat) (cache : Bool) (s : State) : Out :=
  if cache then
    let held := s.hub.klines.find? fun k => k.line == pa / 64
    let dirty := match held with | some k => k.dirty | none => Config.cacheDirty s.fresh && s.hub.channel? pa == some 16
    let s := (s.modHub fun h => { h with klines := h.klines.filter fun k => k.line != pa / 64 }).tick
    let s := if dirty then (upTo 8).foldl (fun (s : State) i => s.modHub fun h => h.writeChannel (pa / 64 * 8 + i) 0xFF#8 0) s else s
    .next (s.modHub fun h => h.bumpReg 0x0E0A80 true 1).rasMsi
  else if s.hub.dev.isBad (pa / 64) then .next (s.keanoBad core pa) else .next s

/-- The value of a field of a word. -/
def subWord (w : DWord) (pa bytes : Nat) : DWord := BitVec.ofNat 64 (w.toNat / 2 ^ (8 * (pa % 8)) % 2 ^ (8 * bytes))

/-- Writes bytes of a word at a channel. -/
def Hub.putSub (h : Hub) (pa bytes : Nat) (v : DWord) : Hub :=
  h.writeChannel (pa / 8) (byteMask (pa % 8) bytes) (BitVec.ofNat 64 (v.toNat % 2 ^ (8 * bytes) * 2 ^ (8 * (pa % 8))))

/-- A read-modify-write of a Keano core: 0 add, 1 swap, 2 and, 3 or, 4 xor, 5 max, 6 min, 7 unsigned max, 8 unsigned min. -/
def amoResult (k bytes : Nat) (a b : DWord) : DWord :=
  let lt (x y : DWord) : Bool := decide (signedNat (8 * bytes) x.toNat < signedNat (8 * bytes) y.toNat)
  let ltu (x y : DWord) : Bool := decide (x.toNat % 2 ^ (8 * bytes) < y.toNat % 2 ^ (8 * bytes))
  match k with
  | 0 => a + b | 1 => b | 2 => a &&& b | 3 => a ||| b | 4 => a ^^^ b
  | 5 => if lt a b then b else a
  | 6 => if lt b a then b else a
  | 7 => if ltu a b then b else a
  | _ => if ltu b a then b else a

/-- A Keano load performs: its value, or an access fault. -/
def State.keanoLoad (s : State) (core : Fin 16) (pa bytes : Nat) : State :=
  if s.hub.dev.isBad (pa / 64) then s.keanoBad core pa
  else let ((w, _), s) := s.readChannel (pa / 8); s.signal (.loaded core (subWord w pa bytes))

/-! The cores' cache. LPDDR6 lines are coherent, so that no party can tell whether one is cached: an access to one acts on the memory itself. Lines of GDDR7 that is mapped cached are kept apart until they are written back (R150, assumption log 96). -/

/-- A line of GDDR7 as the cores see it: cached, or, with the burst good, filled from memory. -/
def Hub.keanoLine (h : Hub) (line : Nat) : Option KeanoLine :=
  match h.klines.find? fun k => k.line == line with
  | some k => some k
  | none => if h.dev.isBad line then none else some ⟨line, h.dev.getBytes (64 * line) 64, false⟩

/-- A line is in the cache as given. -/
def Hub.putLine (h : Hub) (k : KeanoLine) : Hub := { h with klines := k :: h.klines.filter fun x => x.line != k.line }

/-- Bytes of a line replaced. -/
def KeanoLine.put (k : KeanoLine) (pa bytes : Nat) (v : DWord) : KeanoLine :=
  let o := pa % 64
  { k with data := k.data.take o ++ leBytes bytes (v.toNat % 2 ^ (8 * bytes)) ++ k.data.drop (o + bytes), dirty := true }

/-- A line leaves the cache or stays clean, its data written back where it is dirty and `keep` says so. -/
def Hub.cleanLine (h : Hub) (line : Nat) (write stay : Bool) : Hub :=
  match h.klines.find? fun k => k.line == line with
  | none => h
  | some k =>
    let h := if k.dirty && write then (upTo 8).foldl (fun h i => h.writeChannel (8 * line + i) 0xFF#8 (BitVec.ofNat 64 (leNat ((k.data.drop (8 * i)).take 8)))) h else h
    let rest := h.klines.filter fun x => x.line != line
    { h with klines := if stay then { k with dirty := k.dirty && !write } :: rest else rest }

/-- An access to a line of GDDR7 that is mapped cached: what it reads, with what it leaves there; the line is filled first. -/
def State.keanoCached (s : State) (a : KeanoAccess) (f : KeanoLine → KeanoLine) (reads : Bool) : State :=
  match s.hub.keanoLine (a.pa / 64) with
  | none => s.keanoBad a.core a.pa
  | some k =>
    let s := s.modHub fun h => (if (f k).dirty && f k != k then h.unreserve k.line else h).putLine (f k)
    if reads then s.signal (.loaded a.core (BitVec.ofNat 64 (leNat ((k.data.drop (a.pa % 64)).take a.bytes)))) else s

/-- A line's value at an access. -/
def KeanoLine.value (k : KeanoLine) (a : KeanoAccess) : DWord := BitVec.ofNat 64 (leNat ((k.data.drop (a.pa % 64)).take a.bytes))

/-- A store of a core performs. -/
def State.keanoStore (s : State) (a : KeanoAccess) (far : Bool) (v : DWord) : State :=
  if far then s.keanoCached a (fun k => k.put a.pa a.bytes v) false else s.modHub fun h => h.putSub a.pa a.bytes v

/-- `KEANO_DEVICE_ACCESS` (R117, R118, R150): a core's access to device memory. -/
def execKeanoDeviceAccess (a : KeanoAccess) (s : State) : Out :=
  let l : Loc := ⟨.dev, 0, a.pa⟩
  let mapped := (s.hub.channel? a.pa).isSome && (a.bytes = 1 || a.bytes = 2 || a.bytes = 4 || a.bytes = 8) && a.pa % Nat.max a.bytes 1 == 0
  let loadFault := s.signal (.loadFault a.core)
  let storeFault := s.signal (.storeFault a.core)
  let cached := a.cached && !a.sa
  let far := cached && s.hub.channel? a.pa != some 16
  let line := a.pa / 64
  if s.hub.bstep ≠ 9 then (match a.op with | .store _ | .cbo _ => .next s | _ => .next (s.signal (.loaded a.core 0)))
  else match a.op with
  | .cbo k => .next (if far then s.modHub fun h => h.cleanLine line (k < 2) (k = 0) else s)
  | .lr =>
    if !mapped || !cached then .next loadFault
    else
      let s := s.modHub fun h => { h with kres := (a.core, line) :: h.kres.filter fun r => r.1 != a.core }
      .next (if far then s.keanoCached a id true else s.keanoLoad a.core a.pa a.bytes)
  | .sc v =>
    if !mapped || !cached then .next storeFault
    else
      let held := s.hub.kres.contains (a.core, line)
      let s := s.modHub fun h => { h with kres := h.kres.filter fun r => r.1 != a.core }
      if held then .next ((s.keanoStore a far v).signal (.loaded a.core 0)) else .next (s.signal (.loaded a.core 1))
  | .load =>
    if !mapped then .next loadFault
    else if a.sa && (s.presence l).isNone then
      if 16 ≤ s.deferCount l then .next s
      else .next (s.modHub fun h => { h with keano := h.keano ++ [⟨a.core, a.pa, a.bytes, s.now⟩] })
    else .next (if far then s.keanoCached a id true else s.keanoLoad a.core a.pa a.bytes)
  | .store v =>
    if !mapped then .next storeFault
    else if a.sa then
      if a.bytes != 8 then .next storeFault
      else
        let (full, s') := s.fillSa l 0xFF#8 v false
        .next (if full then storeFault else s')
    else .next (s.keanoStore a far v)
  | .amo k v =>
    if !mapped || a.sa || a.bytes < 4 then .next storeFault
    else if far then .next (s.keanoCached a (fun y => y.put a.pa a.bytes (amoResult k a.bytes (y.value a) v)) true)
    else if s.hub.dev.isBad line then .next (s.keanoBad a.core a.pa)
    else
      let ((w, _), s) := s.readChannel (a.pa / 8)
      let old := subWord w a.pa a.bytes
      .next ((s.modHub fun h => h.putSub a.pa a.bytes (amoResult k a.bytes old v)).signal (.loaded a.core old))

/-- Deferred Keano loads whose word has been written complete (R117, R150). -/
def State.settleKeano (s : State) : State :=
  let ready (w : KeanoWait) : Bool := (s.presence ⟨.dev, 0, w.pa⟩).isSome
  let done := s.hub.keano.filter ready
  if done.isEmpty then s
  else done.foldl (fun (s : State) w => s.keanoLoad w.core w.pa w.bytes) (s.modHub fun h => { h with keano := h.keano.filter fun w => !ready w })

/-- `SA_DEFER_TIMEOUT` (R151): a deferred Keano load that has waited LIMIT cycles is withdrawn and faults. -/
def execSaDeferTimeout (i : Nat) (s : State) : Out :=
  match s.hub.keano[i]? with
  | none => .next s
  | some w =>
    let lim := bitsNat (s.hub.reg 0x0E0D40) 47 0
    if lim = 0 || s.now < w.since + lim || (s.presence ⟨.dev, 0, w.pa⟩).isSome then .next s
    else .next ((s.modHub fun h => { h.bumpReg 0x0E0D48 false 1 with keano := dropNth i h.keano }).signal (.loadFault w.core))

end Sys2Proof.Machine
end

