-- ==== Sys2Proof/Machine/Bringup.lean ====
section
/-! DEFINITION. Bring-up (R428), the identity page (R429), the verification of firmware images (R430), and attestation (R431). -/

namespace Sys2Proof.Machine

/-! Identity. -/

/-- Bytes `0` to `n - 1` of a constant. -/
def constBytes (f : Nat → Byte) (n : Nat) : List Byte := (upTo n).map f

/-- `bstat` with a given DEGR (R429). -/
def Hub.bstatAs (h : Hub) (degr : BitVec 8) : DWord := BitVec.ofNat 64 (h.bstep % 16 + h.berr % 256 * 2 ^ 8 + degr.toNat * 2 ^ 24)
/-- `bstat`: DEGR follows the units that go out of service later (R394, R401, assumption log 105). -/
def Hub.bstat (h : Hub) : DWord := h.bstatAs h.degr

/-- The word PART, ARCH and STEP. -/
def Hub.partWord (h : Hub) : DWord := BitVec.ofNat 64 (0x00534834 + 0x0100 * 2 ^ 32 + h.stepping.toNat * 2 ^ 48)

/-- The identity page's bytes 0x00 to 0xFF. -/
def Hub.identity (h : Hub) : List Byte :=
  leBytes 8 h.partWord.toNat ++ leBytes 8 h.serial.toNat ++ constBytes Config.idrh 32 ++ constBytes Config.idsh 32 ++ constBytes Config.fwrh 32 ++
  constBytes Config.fwsh 32 ++ leBytes 8 h.bstat.toNat ++ List.replicate 104 0

/-- An 8-byte word of the identity page. -/
def Hub.identityWord (h : Hub) (i : Nat) : DWord := BitVec.ofNat 64 (leNat ((h.identity.drop (8 * i)).take 8))

/-! Images (R430). -/

/-- `n` bytes of an image from an offset. -/
def imgBytes (img : List Byte) (o n : Nat) : List Byte := (img.drop o).take n

/-- LEN of an image: its body's bytes. -/
def bodyLen (img : List Byte) : Nat := leNat (imgBytes img 0xC 4)

/-- The body of an image. -/
def imgBody (img : List Byte) : List Byte := imgBytes img 0x200 (bodyLen img)

/-- The `res0` fields of an image's header are zero (R430, R6). -/
def imgRes0 (img : List Byte) : Bool :=
  let zero (o n : Nat) : Bool := (imgBytes img o n).all (· == 0#8)
  zero 5 7 && zero 0x194 12 && zero 0x1D0 48

/-- A copy is valid: it is an image of the kind with zero `res0` fields, both keys hash to the fused values, and both signatures over bytes 0 to 0x1FF + LEN verify (R430, R6). -/
def validImage (kind : Nat) (img : List Byte) : Bool :=
  let n := bodyLen img
  let signed := imgBytes img 0 (0x200 + n)
  let modulus := imgBytes img 0x10 384
  let expo := imgBytes img 0x190 4
  let slh := imgBytes img 0x1A0 48
  leNat (imgBytes img 0 4) == 0x56524947 && leNat (imgBytes img 4 1) == kind && imgRes0 img &&
  sha3 (modulus ++ expo) == constBytes Config.fwrh 32 && sha3 slh == constBytes Config.fwsh 32 &&
  Config.rsaVerify modulus expo signed (imgBytes img (0x200 + n) 384) && Config.slhVerify slh signed (imgBytes img (0x380 + n) 16224)

/-- The copy of a kind that runs: A, then B; its number and its bytes. -/
def PowerOn.image (o : PowerOn) (kind : Nat) : Option (Nat × List Byte) :=
  let copy (k : Nat) : Option (Nat × List Byte) := (o.images.find? fun i => i.1 == kind && i.2.1 == k && validImage kind i.2.2).map fun i => (k, i.2.2)
  match copy 0 with
  | some r => some r
  | none => copy 1

/-! Bring-up (R428). -/

/-- The step at which bring-up stops and its code: 9 and 0 where it opens. -/
def PowerOn.outcome (o : PowerOn) : Nat × Nat :=
  match (if o.mode = 3#2 then some (1, 1) else none) with
  | some r => r
  | none =>
    match [1, 2, 3, 4].find? fun k => (o.image k).isNone with
    | some k => (2, 2 + Config.bootCode k % 3)
    | none =>
      if !o.lpddrOk then (4, 5)
      else if (upTo 4).all fun k => o.badStacks.contains k then (5, 6)
      else if (upTo 256).all fun c => o.badCols.contains c || o.badStacks.contains (c / 64) then (6, 7)
      else (9, 0)

/-- DEGR: GDDR7 channel, stack, column, UCIe link, vertical bus (R429). -/
def PowerOn.degr (o : PowerOn) : BitVec 8 :=
  let b (l : Bool) (i : Nat) : Nat := if l then 2 ^ i else 0
  BitVec.ofNat 8 (b (!o.badChannels.isEmpty) 0 + b (!o.badStacks.isEmpty) 1 + b (!o.badCols.isEmpty) 2 + b (!o.badLinks.isEmpty) 3 + b (!o.badBuses.isEmpty) 4)

/-- A store of consecutive bytes from address 0. -/
def storeOf (bs : List Byte) : Store := Store.empty.putBytes 0 bs

/-- A column after bring-up: out of service if it or its stack failed; its failed buses are retired, and its shelves rest. -/
def PowerOn.column (o : PowerOn) (c : Nat) : Column :=
  let ret : BitVec 4 := (o.badBuses.filter fun b => b.1 == c).foldl (fun v b => putBit v (b.2 % 4) true) 0
  { Column.reset with vret := ret, inService := !(o.badCols.contains c) && !(o.badStacks.contains (c / 64)), shpw := vfill 16 1 }

/-- An engine hart after bring-up: its microcode from address 0 of its local memory, and class 0 bound to it (assumption log 23). -/
def hartBoot (code : List Byte) : Hart := ⟨{ Cpu.reset with near := storeOf (code.take 0x18000), hte := vset hteReset 0 0x80000000#32 }, []⟩

/-- The part after power-on and bring-up; the schedule, which is the model's own, goes on. -/
def State.boot (s : State) (o : PowerOn) : State :=
  let (stp, code) := o.outcome
  let body (k : Nat) : List Byte := match o.image k with | some i => imgBody i.2 | none => []
  let z := { State.reset with agenda := s.agenda, focus := s.focus, fresh := s.fresh + 1 }
  let kinds := [1, 2, 3, 4].filterMap fun k => (o.image k).map fun i => (k, i.1, sha3 i.2)
  let hub := { z.hub with bstep := stp, berr := code, serial := o.serial, stepping := o.step, pciemode := o.mode }
  if stp ≠ 9 then { z with hub := hub }
  else
    { z with
      cols := vmapIdx (fun c _ => o.column c) z.cols, harts := vmap (fun _ => hartBoot (body 3)) z.harts,
      stk := vmapIdx (fun k x => { x with inService := !(o.badStacks.contains k) }) z.stk,
      hub := { hub with
        degr := o.degr, degrOpen := o.degr, fw := storeOf ((body 2).take 0x4000), measure := kinds, lpddr := (o.lpddr.val + 1) * 2 ^ 30,
        gddr := vmapIdx (fun i _ => if o.badChannels.contains i then 0 else if o.small then 3 * 2 ^ 30 else 2 ^ 32) hub.gddr,
        links := vmapIdx (fun i b => b && !(o.badLinks.contains i)) hub.links } }

/-- `POWER_ON`. -/
def execPowerOn (o : PowerOn) (s : State) : Out := .next (s.boot o)

/-! Attestation (R431). -/

/-- Bytes of a report. -/
def reportBytes : Nat := 16864

/-- A write to `atreq`. -/
def State.attestStart (s : State) (v : DWord) : State :=
  let h := s.hub
  let buf := bitsNat v 45 6 * 64
  if !v.getLsbD 63 then s
  else if h.attest.isSome then s.modHub fun h => { h with atres := 1 }
  else if h.channel? buf == some 16 && h.channel? (buf + reportBytes - 1) == some 16 then s.modHub fun h => { h with attest := some buf, atres := 0 }
  else s.modHub fun h => { h with atres := 2 }

/-- `ATTEST_REQUEST`. -/
def execAttestRequest (v : BitVec 64) (s : State) : Out := s.opened (.next (s.attestStart v))

/-- `atstat`. -/
def Hub.atstat (h : Hub) : DWord := BitVec.ofNat 64 (h.atres.toNat * 2 + if h.attest.isSome then 1 else 0)

/-- Bytes 0x000 to 0x0FF of a report over the buffer's nonce and user data. -/
def Hub.report (h : Hub) (buf : Nat) : List Byte :=
  let copy (k : Nat) : Byte := match h.measure.find? fun m => m.1 == k with | some m => BitVec.ofNat 8 m.2.1 | none => 0
  let meas (k : Nat) : List Byte := match h.measure.find? fun m => m.1 == k with | some m => m.2.2 | none => List.replicate 32 0
  leBytes 8 (0x54415447 + 2 ^ 32) ++ h.peek (buf + 8) 32 ++ leBytes 8 h.partWord.toNat ++ leBytes 8 h.serial.toNat ++
  [copy 1, copy 2, copy 3, copy 4] ++ List.replicate 12 0 ++ meas 1 ++ meas 2 ++ meas 3 ++ meas 4 ++ h.peek (buf + 0xC8) 32 ++
  leBytes 8 (h.bstatAs h.degrOpen).toNat ++ List.replicate 16 0

/-- `ATTEST_DONE`: the report is written, with both signatures over its first 256 bytes, and BUSY clears. -/
def execAttestDone (s : State) : Out :=
  match s.hub.attest with
  | none => .next s
  | some buf =>
    let s := s.flushOrd fun o => decide (buf ≤ o.pa) && decide (o.pa < buf + reportBytes)
    let r := s.hub.report buf
    let sig := (upTo 384).map (Config.rsaSign s.fresh r) ++ (upTo 16224).map (Config.slhSign s.fresh r)
    .next (({ s with hub := s.hub.poke buf (r ++ sig) }.modHub fun h => { h with attest := none, atres := 0 }).tick)

end Sys2Proof.Machine
end

