-- ==== Sys2Proof/Machine/ControlRegs.lean ====
section
/-! DEFINITION. The control registers (R226 to R230, R344, R353, R405, R414). -/

namespace Sys2Proof.Machine

/-- Numbers of the element window (R228). -/
def isWindowReg (n : Nat) : Bool :=
  decide (0x40 ≤ n) && decide (n ≤ 0x6A) && !([0x54, 0x55, 0x56, 0x57, 0x63].contains n)

/-- Numbers of the user-visible registers (R227). -/
def isUserReg (n : Nat) : Bool := decide (n ≤ 9) || (decide (0x10 ≤ n) && decide (n ≤ 0x23)) || isWindowReg n

/-- Numbers of the supervisor registers (R229). -/
def isSupReg (n : Nat) : Bool :=
  (decide (0x400 ≤ n) && decide (n ≤ 0x408)) || (decide (0x410 ≤ n) && decide (n ≤ 0x417)) || n == 0x420 || n == 0x421 ||
  (decide (0x430 ≤ n) && decide (n ≤ 0x433))

/-! The element window (R228). -/

/-- The context that `ewsel` selects. -/
def Cpu.window (u : Cpu) (c : ColId) : CtxRef := ⟨c, fin 31 (bitsNat u.ewsel 4 0), fin 3 (bitsNat u.ewsel 9 8)⟩

/-- CSTATE of a context. -/
def CtxState.code : CtxState → Nat
  | .empty => 0 | .loading => 1 | .live => 2 | .parked => 3

/-- A read of the window: CSTATE always, everything else zero for an idle or parked context (assumption log 18). -/
def State.readWindow (s : State) (r : CtxRef) (n : Nat) : DWord :=
  let x := s.ctx r
  let e := s.elem r.col r.elem
  let w (v : Word) : DWord := BitVec.setWidth 64 v
  if n = 0x46 then (if x.st == .live && !x.isLive s.now then 1 else BitVec.ofNat 64 x.st.code)
  else match x.st with
    | .empty | .parked => 0
    | .loading | .live =>
      if n < 0x45 then w (x.stall.get (fin 4 (n - 0x40)))
      else if n = 0x45 then BitVec.setWidth 64 x.blame
      else if n = 0x47 then w x.hdr
      else if n < 0x4C then (if hRole x.hdr = .ag then w (x.it.get (fin 3 (n - 0x48))) else 0)
      else if n < 0x50 then x.b.get (fin 3 (n - 0x4C))
      else if n < 0x54 then w (x.m.get (fin 3 (n - 0x50)))
      else if n < 0x60 then w (x.c.get (fin 7 (n - 0x58)))
      else if n = 0x60 then w x.sect
      else if n = 0x61 then w e.droptok
      else if n = 0x62 then w e.aldisc
      else w (x.stat.get (fin 6 (n - 0x64)))

/-- A write of the window; the extents take one in supervisor mode only, and their `res0` bits stay zero (R6, R296). -/
def Ctx.writeWindow (x : Ctx) (n : Nat) (sup : Bool) (v : DWord) : Ctx :=
  let w : Word := BitVec.setWidth 32 v
  match x.st with
  | .empty | .parked => x
  | .loading | .live =>
    if n < 0x45 then { x with stall := vset x.stall (fin 4 (n - 0x40)) w }
    else if 0x48 ≤ n ∧ n < 0x4C then (if hRole x.hdr = .ag then { x with it := vset x.it (fin 3 (n - 0x48)) w, dirty := true } else x)
    else if 0x4C ≤ n ∧ n < 0x50 then (if sup then { x with b := vset x.b (fin 3 (n - 0x4C)) (v &&& ~~~0xFFFF#64), dirty := true } else x)
    else if 0x50 ≤ n ∧ n < 0x54 then { x with m := vset x.m (fin 3 (n - 0x50)) w, dirty := true }
    else if 0x58 ≤ n ∧ n < 0x60 then { x with c := vset x.c (fin 7 (n - 0x58)) w, dirty := true }
    else if n = 0x60 then { x with sect := w, dirty := true }
    else x

/-! Column registers. -/

/-- The budget register of a class (R353). -/
def Column.budReg (x : Column) (k : Fin 8) : DWord :=
  let cap (n : Nat) : Nat := Nat.min n 8191
  BitVec.ofNat 64 (allow (x.budL.get k) + allow (x.budV.get k) * 2 ^ 16 + cap (x.useL.get k) * 2 ^ 32 + cap (maxList (x.useV.get k).toList) * 2 ^ 48)

/-- `shpwr` (R344). -/
def Column.shpwr (x : Column) : DWord := BitVec.ofNat 64 (sumList ((upTo 16).map fun h => (x.shpw.get (fin 15 h)).toNat * 4 ^ h))

/-- A write to `shpwr`: each shelf that is neither hosted, filling nor a berth shelf is asked for a state (R344). -/
def Column.putShpwr (x : Column) (v : DWord) : Column :=
  (upTo 16).foldl (fun (x : Column) h => match x.drift.shelves.get (fin 15 h) with
    | .hosted | .berth | .filling _ => x
    | _ => x.askShelf h (field v (2 * h) 2)) x

/-- A write to `errinj`: FIRED is cleared by writing 1 (R414). -/
def Column.putErrinj (x : Column) (v : DWord) : Column :=
  { x with errinj := putBit (v &&& 0xB0000003FFFFFFFF#64) 62 (x.errinj.getLsbD 62 && !v.getLsbD 62) }

/-- The bits of a page-table base register that a write reaches (R344). -/
def ptbMask : DWord := 0xFFFF3FFFFFFFF001#64

/-- A register that only a column has. -/
def Column.supReg (x : Column) (n : Nat) : DWord :=
  if n = 0x404 then x.ptb
  else if n = 0x405 then (match x.part with | some p => BitVec.ofNat 64 (8 + p.val) | none => 0)
  else if n = 0x406 then BitVec.setWidth 64 x.nsmap
  else if n = 0x407 then BitVec.setWidth 64 x.nssa
  else if 0x410 ≤ n ∧ n ≤ 0x417 then x.budReg (fin 7 (n - 0x410))
  else if n = 0x420 then BitVec.setWidth 64 x.ecorr
  else if n = 0x421 then BitVec.setWidth 64 x.euncor
  else if n = 0x430 then x.shpwr
  else if n = 0x431 then BitVec.setWidth 64 x.vret
  else if n = 0x432 then x.dbg.ctlWord
  else x.errinj

/-- A write to it; `nsmap` changes here only while no task holds the column (R107). -/
def Column.putSupReg (x : Column) (n : Nat) (v : DWord) : Column :=
  if n = 0x404 then { x with ptb := v &&& ptbMask }
  else if n = 0x406 then (if x.band.isSome then x else { x with nsmap := BitVec.setWidth 16 v })
  else if n = 0x407 then { x with nssa := BitVec.setWidth 16 v }
  else if 0x410 ≤ n ∧ n ≤ 0x417 then { x with budL := vset x.budL (fin 7 (n - 0x410)) (field v 0 13), budV := vset x.budV (fin 7 (n - 0x410)) (field v 16 13) }
  else if n = 0x420 then { x with ecorr := BitVec.setWidth 32 v }
  else if n = 0x421 then { x with euncor := BitVec.setWidth 32 v }
  else if n = 0x430 then x.putShpwr v
  else if n = 0x432 then { x with dbg := x.dbg.putCtl v }
  else if n = 0x433 then x.putErrinj v
  else x

/-! The map. -/

/-- CR(n). What an engine hart's sequencer has no unit for reads as a free value (assumption log 17). -/
def State.readCr (s : State) (m : Node) (n : Nat) : DWord :=
  let u := s.cpu m
  let unit (f : ColId → DWord) : DWord := match m with | .col c => f c | .hart _ => Config.deviceRead s.fresh
  if n = 0 then s.cyc m.stack
  else if n = 1 then BitVec.setWidth 64 u.lclk
  else if n = 2 then BitVec.setWidth 64 u.task
  else if n = 3 then BitVec.setWidth 64 u.xid
  else if n = 4 then s.statWord m
  else if n = 5 then unit fun c => BitVec.ofNat 64 (c.val + (stackOf c).val * 256)
  else if n = 6 then unit fun _ => s.bandWord m
  else if n = 7 then unit fun c => BitVec.ofNat 64 ((s.col c).drift.hosted % 2 ^ 16)
  else if n = 8 then u.ewsel
  else if n = 9 then BitVec.setWidth 64 u.dropmsg
  else if n < 0x24 then BitVec.setWidth 64 (u.hteOf (n - 0x10))
  else if n < 0x400 then unit fun c => s.readWindow (u.window c) n
  else if n = 0x400 then u.modeWord
  else if n = 0x401 then u.epc
  else if n = 0x402 then u.ecause
  else if n = 0x403 then u.evec
  else if n = 0x408 then u.ebad
  else unit fun c => (s.col c).supReg n

/-- The bits of a handler-table entry that a write reaches (R18). -/
def hteMask : Word := 0xCF01FFFC#32

/-- CR(n) := v, as far as n is writable. -/
def State.writeCr (s : State) (m : Node) (n : Nat) (v : DWord) : State :=
  let put (f : Cpu → Cpu) : State := s.modCpu m f
  let unit (f : ColId → State) : State := match m with | .col c => f c | .hart _ => s
  if n < 4 then s
  else if n = 4 then put fun u => { u with taint := v.getLsbD 0 }
  else if n < 8 || n = 9 then s
  else if n = 8 then put fun u => { u with ewsel := v &&& 0x31F#64 }
  else if n < 0x24 then put fun u => { u with hte := vset u.hte (fin 19 (n - 0x10)) (BitVec.setWidth 32 v &&& hteMask), dirty := true }
  else if n < 0x400 then unit fun c => s.modCtx ((s.cpu m).window c) fun x => x.writeWindow n (s.cpu m).sup v
  else if n = 0x400 then put fun u => u.putMode v
  else if n = 0x401 then put fun u => { u with epc := v }
  else if n = 0x402 then put fun u => { u with ecause := v &&& 0x7FFFF#64 }
  else if n = 0x403 then put fun u => { u with evec := v &&& ~~~3#64 }
  else if n = 0x408 then put fun u => { u with ebad := v }
  else if n = 0x431 then unit fun c => s.putVret c v
  else unit fun c => s.modCol c fun x => x.putSupReg n v

/-- The fault of a control-register form, if any (R181, R226). -/
def State.crCause (s : State) (n : Nat) : Option Cause :=
  if isUserReg n then none
  else if !isSupReg n then some .illegal
  else if (s.cpu s.focus).sup then none else some .privileged

/-- The four forms of R226: `f` makes the new value of the old one, or there is no write. -/
def crForm (d : BitVec 5) (n : BitVec 11) (f : Option (DWord → DWord)) (s : State) : Out :=
  match s.crCause n.toNat with
  | some c => seqResult s (fault c)
  | none =>
    let old := s.readCr s.focus n.toNat
    let s := match f with
      | some f => s.writeCr s.focus n.toNat (f old)
      | none => s
    .next (s.ret d old)

/-- `crd`. -/
def execCrd (d : BitVec 5) (n : BitVec 11) (s : State) : Out := crForm d n none s
/-- `cwr`. -/
def execCwr (d a : BitVec 5) (n : BitVec 11) (s : State) : Out := crForm d n (some fun _ => s.g a) s
/-- `cset`. -/
def execCset (d a : BitVec 5) (n : BitVec 11) (s : State) : Out := crForm d n (some fun old => old ||| s.g a) s
/-- `cclr`. -/
def execCclr (d a : BitVec 5) (n : BitVec 11) (s : State) : Out := crForm d n (some fun old => old &&& ~~~(s.g a)) s

/-- `SHPWR_WRITE`. -/
def execShpwrWrite (c : ColId) (v : BitVec 64) (s : State) : Out :=
  s.opened (.next (s.modCol c fun x => x.putShpwr v))

/-- `SHELF_WAKE_DONE` (R344, R421): a waking shelf is on. -/
def execShelfWakeDone (c : ColId) (h : Fin 16) (s : State) : Out :=
  .next (if (s.col c).shpw.get h == 3#2 then s.modCol c fun x => x.shelfUp h.val else s)

end Sys2Proof.Machine
end

