-- ==== Sys2Proof/Machine/Debug.lean ====
section
/-! DEFINITION. The column debug page: its commands, breakpoints, squalls, debug reads and writes, and the in-flight table (R404 to R413). -/

namespace Sys2Proof.Machine

/-- The debug registers of a column replaced through `f`. -/
def State.modDbg (s : State) (c : ColId) (f : Debug → Debug) : State := s.modCol c fun x => { x with dbg := f x.dbg }

/-- DBG of the task that holds a column; without a task it is 0 (R9, R404). -/
def Column.dbgOn (x : Column) : Bool := match x.band with | some b => b.dbg | none => false

/-- A command is answered with a RESULT. -/
def State.dbgResult (s : State) (c : ColId) (r : Nat) : State := s.modDbg c fun d => { d with result := BitVec.ofNat 3 r }

/-- A command written with GO (R404): busy while one is in progress, refused without DBG where it needs it, and otherwise `f`, which answers RESULT and the state. -/
def State.dcmd (s : State) (c : ColId) (needsDbg : Bool) (f : Nat × State) : Out :=
  let x := s.col c
  if s.hub.bstep != 9 then .next s
  else if x.dbg.busy then .next (s.dbgResult c 2)
  else if needsDbg && !x.dbgOn then .next (s.dbgResult c 1)
  else .next (f.2.dbgResult c f.1)

/-! The debug state and stepping (R406, R407). -/

/-- A sequencer stops for the debug state: an instruction that waits before its effect is abandoned, one that has had its effect is done, and issued stores perform (R205, R406). -/
def State.debugHalt (s : State) (c : ColId) : State :=
  (s.drainQueue (.col c) fun _ => true).modCol c fun x => { x with dbg := { x.dbg with dhalt := true }, cpu := { x.cpu with await := none } }

/-- `DBG_STOP`. -/
def execDbgStop (c : ColId) (s : State) : Out := s.dcmd c true (0, if (s.col c).dbg.dhalt then s else s.debugHalt c)

/-- A column resumes: its sequencer and its stopped contexts. -/
def Column.resume (x : Column) : Column :=
  { x with dbg := { x.dbg with dhalt := false, stepping := false, busy := x.dbg.pending.isSome, sqstop := false, squall := none, arrived := false },
           elems := vmap (fun e => { e with ctxs := vmap (fun y => { y with stopped := false }) e.ctxs }) x.elems }

/-- The columns of a column's band. -/
def State.bandCols (s : State) (c : ColId) : List ColId := match s.taskOf c with | some t => t.cols | none => [c]

/-- Resuming (R406, R410): a column whose band is stopped by a squall, or that one is reaching, resumes with its whole band. -/
def State.dbgResume (s : State) (c : ColId) : State :=
  if (s.col c).dbg.squall.isSome || (s.col c).dbg.sqstop then
    let s := (s.bandCols c).foldl (fun (s : State) k => s.modCol k Column.resume) s
    match (s.col c).band with
    | some b => s.modHub fun h => { h with squalls := h.squalls.filter fun q => q.1 != b.task }
    | none => s
  else s.modCol c Column.resume

/-- `DBG_RESUME`. -/
def execDbgResume (c : ColId) (s : State) : Out := s.dcmd c false (0, s.dbgResume c)

/-- `DBG_STEP_INSTRUCTION`: while an instruction of an earlier step still waits, the command stays in progress behind it; an idle sequencer with no message to dispatch has nothing to step. -/
def execDbgStepInstruction (c : ColId) (s : State) : Out :=
  let x := s.col c
  let t := s.modDbg c fun d => { d with busy := d.stepping, stepping := true }
  s.dcmd c true (if !x.dbg.dhalt then (3, s) else if x.dbg.stepping || x.cpu.busy || t.canDispatch (.col c) then (0, t) else (0, s))

/-- `DBG_STEP_FIRING`: one firing of a stopped context, if it is permitted. -/
def execDbgStepFiring (c : ColId) (e : ElemId) (x : CtxId) (s : State) : Out :=
  let r : CtxRef := ⟨c, e, x⟩
  let y := s.ctx r
  let live := y.st == .live && (s.col c).drift.fires e x && s.fires c && decide ((s.elem c e).busy ≤ s.now)
  s.dcmd c true (if !y.stopped then (3, s) else if live && s.permit r == .ok then (0, s.fire r) else (5, s))

/-! Breakpoints (R408). -/

/-- A breakpoint unit written: HIT is cleared by writing 1, and arming clears COUNT. -/
def Bpt.put (b : Bpt) (v : DWord) : Bpt :=
  { ctl := putBit (v &&& 0xE000001FFFFFFFFF#64) 60 (b.ctl.getLsbD 60 && !v.getLsbD 60), count := if v.getLsbD 63 then 0 else b.count }

/-- `BPT_WRITE`. -/
def execBptWrite (c : ColId) (u : Fin 4) (v : BitVec 64) (s : State) : Out :=
  s.opened (.next (s.modDbg c fun d => { d with bpts := vmod d.bpts u fun b => b.put v }))

/-! Squalls (R409). -/

/-- `DBG_SQUALL`. -/
def execDbgSquall (c : ColId) (s : State) : Out := s.dcmd c true (0, s.startSquall c)

/-- The squall marker of an id. -/
def squallMarker (id : DWord) : Token := markerToken 5 (BitVec.setWidth 256 id)

/-- A source context places its squall marker once its outputs take it, and is then stopped. -/
def State.squallSource (s : State) (r : CtxRef) (m : Token) : State :=
  let x := s.ctx r
  if x.st == .live && hSource x.hdr && !x.stopped && (s.col r.col).drift.fires r.elem r.ctx && s.fires r.col && s.atRest r && s.canPlace r m then
    (s.ownMarker r m).modCtx r fun x => { x with stopped := true }
  else s

/-- The element contexts of a column, in order. -/
def allCtxs (c : ColId) : List CtxRef := (upTo 128).map fun i => ⟨c, fin 31 (i / 4), fin 3 (i % 4)⟩

/-- `SQUALL_ARRIVE`: the sequencer enters the debug state, and the injection port and the source contexts place their markers. A source whose outputs are full places its own at a later arrival. -/
def execSquallArrive (c : ColId) (s : State) : Out :=
  let d := (s.col c).dbg
  match d.squall with
  | none => .next s
  | some id =>
    if d.sqstop then .next s
    else
      let m := squallMarker id
      let s :=
        if d.arrived then s
        else
          let ports := (s.col c).injOrd.map fun q => (q.1, m)
          let s := if d.dhalt then s else s.debugHalt c
          s.modCol c fun x => { x with dbg := { x.dbg with arrived := true }, drift := { x.drift with scrollq := x.drift.scrollq ++ ports } }
      .next ((allCtxs c).foldl (fun (s : State) r => s.squallSource r m) s)

/-- A live context of a column that fires in it has not stopped. -/
def Column.unstopped (x : Column) (r : CtxRef) : Bool :=
  let y := x.ctx r.elem r.ctx
  y.st == .live && !y.stopped && x.drift.fires r.elem r.ctx

/-- The band is stopped: SQSTOP everywhere, and the MSI of `rasmsd` (R393, R409). -/
def State.squallEnd (s : State) (task : BitVec 16) (cols : List ColId) : State :=
  let s := cols.foldl (fun (s : State) c => s.modDbg c fun d => { d with sqstop := true, dhalt := true, arrived := true }) s
  (s.modHub fun h => { h with squalls := h.squalls.filter fun q => q.1 != task }).rasMsi

/-- The columns of a task that a squall is stopping, and its start. -/
def State.squallOf (s : State) (task : BitVec 16) : Option (List ColId × Nat) :=
  match s.hub.squalls.find? fun q => q.1 == task, s.task? task with
  | some q, some t => some (t.cols, q.2)
  | _, _ => none

/-- `SQUALL_COMPLETE`: every live context of the band is stopped. -/
def execSquallComplete (task : BitVec 16) (s : State) : Out :=
  match s.squallOf task with
  | none => .next s
  | some (cols, _) =>
    if cols.all fun c => (s.col c).dbg.arrived && !((allCtxs c).any fun r => (s.col c).unstopped r) then .next (s.squallEnd task cols) else .next s

/-- A column at the timeout of a squall: what has not stopped stops now, and INEXACT says so. -/
def Column.squallOut (x : Column) (c : ColId) : Column :=
  if (allCtxs c).any fun r => x.unstopped r then
    { x with dbg := { x.dbg with inexact := true }, elems := vmap (fun e => { e with ctxs := vmap (fun y => { y with stopped := y.stopped || y.st == .live }) e.ctxs }) x.elems }
  else x

/-- `SQUALL_TIMEOUT`: 65,536 cycles after the start. -/
def execSquallTimeout (task : BitVec 16) (s : State) : Out :=
  match s.squallOf task with
  | none => .next s
  | some (cols, t) =>
    if s.now < t + 65536 then .next s
    else .next ((cols.foldl (fun (s : State) c => s.modCol c fun x => x.squallOut c) s).squallEnd task cols)

/-! Debug reads and writes (R412, R413). -/

/-- The location that `dbaddr` names; none for a bad operand. -/
def Column.debugLoc (x : Column) (c : ColId) : Option Loc :=
  let v := x.dbg.dbaddr
  let a := bitsNat v 27 0
  if a % 8 ≠ 0 then none
  else if v.getLsbD 63 then (vertDecode a).map fun p => ⟨.vert, c, p⟩
  else if (x.nearCause a).isSome then none
  else some ⟨.near, c, x.nearPhys a⟩

/-- What a debug access says of itself, before its own findings. -/
def Debug.accessed (d : Debug) (gated : Bool) : Debug := { d with gated := gated, taint := false, unpowered := false, woken := false }

/-- The word at a location as the debug path reads it: no counter, no injection, no presence (R412). -/
def Column.debugWord (x : Column) (l : Loc) : DWord × Bool :=
  match l.space with
  | .vert => if x.vret.getLsbD (vLayer l.addr) then (0, true) else x.vert.readWord (l.addr / 8)
  | _ => x.cpu.near.readWord (l.addr / 8)

/-- The debug path's write of a word; a retired bus drops it. -/
def Column.debugPut (x : Column) (l : Loc) (v : DWord) : Column :=
  match l.space with
  | .vert => if x.vret.getLsbD (vLayer l.addr) then x else { x with vert := x.vert.writeWord (l.addr / 8) 0xFF#8 v }
  | _ => x.writeNear (l.addr / 8) 0xFF#8 v

/-- A debug access performs. -/
def Column.debugDo (x : Column) (l : Loc) (write : Bool) : Column :=
  let x := if l.space == .vert then x.chargeV 6 (vLayer l.addr) 1 else x
  if write then x.debugPut l x.dbg.dbdata
  else let (v, t) := x.debugWord l; { x with dbg := { x.dbg with dbdata := v, taint := t } }

/-- A debug access starts: at once where its memory is on, after a wake, or, to a shelf that is off without FORCE, with zeros or dropped (R413). -/
def Column.debugStart (x : Column) (l : Loc) (write : Bool) (now : Nat) : Column :=
  let x := { x with dbg := x.dbg.accessed x.gated }
  let h := vShelf l.addr
  let k := fin 15 h
  if l.space != .vert || x.shelfOn h || x.vret.getLsbD (vLayer l.addr) then x.debugDo l write
  else if x.shpw.get k == 2#2 && !x.dbg.dbaddr.getLsbD 62 then
    { x with dbg := { x.dbg with unpowered := true, dbdata := if write then x.dbg.dbdata else 0 } }
  else
    let old := x.shpw.get k
    let y := x.askShelf h 0
    { y with dbg := { y.dbg with woken := true, busy := true, pending := some (write, now), back := if old = 1#2 then some (k, 1) else y.dbg.back } }

/-- OP 6 and OP 7. -/
def State.debugAccess (s : State) (c : ColId) (write : Bool) : Out :=
  let x := s.col c
  s.dcmd c false
    (if write && !x.dbg.dhalt then (3, s)
     else match x.debugLoc c with
       | none => (4, s)
       | some l => (0, s.modCol c fun x => x.debugStart l write s.now))

/-- `DBG_READ`. -/
def execDbgRead (c : ColId) (s : State) : Out := s.debugAccess c false
/-- `DBG_WRITE`. -/
def execDbgWrite (c : ColId) (s : State) : Out := s.debugAccess c true

/-- The shelf that a debug access woke goes back to its state, unless another requester wants it on. -/
def Column.debugBack (x : Column) : Column :=
  match x.dbg.back with
  | none => x
  | some (k, _) =>
    let x := { x with dbg := { x.dbg with back := none } }
    match x.drift.shelves.get k with
    | .hosted | .berth | .filling _ => x
    | _ => x.askShelf k.val 1

/-- `DEBUG_ACCESS_DONE`: the shelf is on, the access performs, and the shelf goes back. -/
def execDebugAccessDone (c : ColId) (s : State) : Out :=
  let x := s.col c
  match x.dbg.pending, x.debugLoc c with
  | some (write, _), some l =>
    let x := if x.shelfOn (vShelf l.addr) then x else x.shelfUp (vShelf l.addr)
    let x := (x.debugDo l write).debugBack
    .next (s.modCol c fun _ => { x with dbg := { x.dbg with pending := none, busy := false, result := 0 } })
  | some _, none => .next (s.modDbg c fun d => { d with pending := none, busy := false, result := 4 })
  | none, _ => .next s

/-! The in-flight table (R411). -/

/-- An entry of the table: KIND, ISSUER, CTX, ID, TARGET, LEFT, STAMP. -/
structure InFlight where
  kind : Nat
  issuer : Nat
  ctx : Nat
  id : Nat
  target : Nat
  left : Nat
  stamp : BitVec 48
  deriving DecidableEq, Repr

/-- An entry of the sequencer's own work. -/
def seqItem (kind id target left : Nat) (stamp : BitVec 48) : InFlight := ⟨kind, 0x20, 0, id, target, left, stamp⟩

/-- A sender as the TARGET of a message names it. -/
def Target.tableId (s : State) (c : ColId) : Target → Nat
  | .col d => (indexOf? (· == d) (s.bandCols c)).getD 0
  | .hart h => hartSender h

/-- Transfers of a column: queued and moving. -/
def State.xferItems (s : State) (c : ColId) : List InFlight :=
  let item (x : Xfer) (left : Nat) : InFlight := seqItem 1 x.xid.toNat (bitsNat (x.w 1) 47 0) left x.stamp
  let mine (x : Xfer) : Bool := x.from_ == some c
  (s.stack (stackOf c)).te.toList.flatMap fun e =>
    ((e.q.filter mine).map fun x => item x (x.total * memW x.dst.fmt / 8)) ++
    (match e.cur with | some m => if mine m.x then [item m.x ((m.total - m.next) * memW m.x.dst.fmt / 8)] else [] | none => [])

/-- Layer swaps of a column. -/
def State.swapItems (s : State) (c : ColId) : List InFlight :=
  let k := s.stack (stackOf c)
  let item (r : Refill) (n : Nat) : InFlight := seqItem 2 r.xid.toNat (shelfBase r.shelf) (r.len - 128 * n) r.stamp
  let mine (r : Refill) : Bool := r.col == c && !r.auto
  ((k.lseQ.filter mine).map fun r => item r 0) ++ (match k.lse with | some f => if mine f.r then [item f.r f.next] else [] | none => [])

/-- Elements that a stream has still to issue; unknown, and so zero, where its tokens give the coordinates (R411). -/
def Stream.left (m : Stream) (i : Its) : Nat :=
  if m.allIssued || m.mode = 3 then 0
  else m.cnt 0 * m.cnt 1 * m.cnt 2 * m.cnt 3 - (i.1 + m.cnt 0 * (i.2.1 + m.cnt 1 * (i.2.2.1 + m.cnt 2 * i.2.2.2)))

/-- Active streams of a column. -/
def Column.streamItems (x : Column) (c : ColId) : List InFlight :=
  (allCtxs c).filterMap fun r => (x.ctx r.elem r.ctx).strm.map fun m =>
    ⟨6, r.elem.val, r.ctx.val, m.daddr.toNat, 0, m.left (x.ctx r.elem r.ctx).its, m.stamp⟩

/-- What a column has in flight, oldest first by stamp. -/
def State.inFlight (s : State) (c : ColId) : List InFlight :=
  let x := s.col c
  let fg := match x.fab.load with | some l => [seqItem 3 0 l.addr.toNat 0 l.stamp] | none => []
  let cf := match x.cfgl with | some k => [seqItem 4 0 k.addr 0 k.stamp] | none => []
  let ba := match x.barr with | some b => [seqItem 5 b.tag.toNat 0 0 b.stamp] | none => []
  let ms := x.cpu.outq.flatMap fun m => (m.dests.take 1).map fun d => seqItem 7 m.msg.cls.toNat (d.tableId s c) 0 m.msg.stamp
  let ws := x.watches.map fun w => seqItem 8 w.tag.toNat w.addr.toNat 0 w.stamp
  let ac := match x.cpu.access with | some (a, t) => if x.cpu.await.isSome || s.now < x.cpu.ready then [seqItem 9 0 a.toNat 0 t] else [] | none => []
  let gs := ((s.stack (stackOf c)).graphs.filter fun g => g.col == c).map fun g => seqItem 10 0 0 0 g.stamp
  let all := s.xferItems c ++ s.swapItems c ++ fg ++ cf ++ ba ++ x.streamItems c ++ ms ++ ws ++ ac ++ gs
  all.insertionSort fun a b => a.stamp.toNat ≤ b.stamp.toNat

/-- The four words of an entry; an empty one is zero. -/
def InFlight.words (e : InFlight) : List DWord :=
  [BitVec.ofNat 64 (e.kind + e.issuer * 2 ^ 8 + e.ctx * 2 ^ 16 + e.id % 2 ^ 16 * 2 ^ 32), BitVec.ofNat 64 e.target,
   BitVec.ofNat 64 (Nat.min e.left (2 ^ 32 - 1)), BitVec.setWidth 64 e.stamp]

/-- Word `i` of the in-flight table. -/
def State.inFlightWord (s : State) (c : ColId) (i : Nat) : DWord :=
  match (s.inFlight c)[i / 4]? with
  | some e => nth 0 e.words (i % 4)
  | none => 0

/-- `dstat` (R404). -/
def Debug.dstat (d : Debug) : DWord :=
  let b (x : Bool) (i : Nat) : Nat := if x then 2 ^ i else 0
  BitVec.ofNat 64 (b d.busy 0 + b d.dhalt 1 + b d.sqstop 2 + b d.inexact 3 + d.result.toNat * 16 + b d.woken 8 + b d.unpowered 9 + b d.taint 10 + b d.gated 11)

end Sys2Proof.Machine
end

