-- ==== Sys2Proof/Machine/Paging.lean ====
section
/-! DEFINITION. Invalidation (R376, R377), retries (R379), migration and compression (R381 to R384), and flash paging (R385). -/

namespace Sys2Proof.Machine

open Sys2Proof

/-! Invalidation. -/

/-- An invalidation covers an address of an address space. -/
def Inval.covers (q : Inval) (asid : BitVec 16) (lo hi : Nat) : Bool := (q.all || q.asid == asid) && decide (lo < q.hi) && decide (q.lo < hi)

/-- A cached translation overlaps the range. -/
def Inval.hits (q : Inval) (e : TlbEntry) : Bool := q.covers e.asid (e.va / 2 ^ e.size * 2 ^ e.size) (e.va / 2 ^ e.size * 2 ^ e.size + 2 ^ e.size)

/-- Step 1 (R377): every overlapping entry leaves every TLB, and every entry on the path to the range leaves the walker cache. -/
def State.purge (s : State) (q : Inval) : State :=
  { s with cols := vmap (fun x => if x.tlb.isEmpty then x else { x with tlb := x.tlb.filter fun e => !q.hits e }) s.cols,
           stk := vmap (fun k => { k with tlb := k.tlb.filter fun e => !q.hits e }) s.stk,
           hub := { s.hub with wcache := s.hub.wcache.filter fun e => !q.hits e } }

/-- Bytes that four extents cover. -/
def extentBytes (b : Vector DWord 4) : Nat := sumList (b.toList.map fun e => bitsNat e 63 46 * 0x10000)

/-- The binding that the placement binds a context of a slot's hosted stage to: its base, size and discipline (R364, R365). -/
def State.boundTo (s : State) (r : CtxRef) : Option (Nat × Nat × Nat) :=
  match s.taskOf r.col, (s.col r.col).band with
  | some t, some b => (t.place.bind fun p => p.choices[b.slot]?).bind fun x =>
    (x.binds.find? fun q => q.1 == s.stageOf (.col r.col) && q.2.1 == r.elem.val && q.2.2.1 == r.ctx.val).bind fun q => t.sbt[q.2.2.2]?
  | _, _ => none

/-- The extents of a context of a column overlap the range; those of a context without a virtual stream cover the binding that it is bound to. -/
def State.extentHit (s : State) (q : Inval) (r : CtxRef) : Bool :=
  let x := s.ctx r
  let n := extentBytes x.b
  let asid : BitVec 16 := field (s.col r.col).ptb 48 16
  decide (0 < n) && (q.all || q.asid == asid) &&
  match x.strm with
  | some m => m.space == 2 && (let (base, _, _) := s.binding r.col m; q.covers asid base (base + n))
  | none => (match s.boundTo r with | some (base, _, _) => q.covers asid base (base + n) | none => true)

/-- Contexts of columns that a task holds. -/
def State.liveCtxs (s : State) : List CtxRef :=
  (upTo 256).flatMap fun c => if (s.col (fin 255 c)).band.isSome then ctxRefs (fin 255 c) else []

/-- Step 2: streams whose extents overlap pause; extents without a stream lapse until step 4. -/
def State.pauseExtents (s : State) (q : Inval) : State :=
  (s.liveCtxs.filter fun r => s.extentHit q r).foldl (fun (s : State) r => s.modCtx r fun x =>
    match x.strm with
    | some m => { x with strm := some { m with halt := if m.halt == .run then .inval else m.halt } }
    | none => { x with b := vfill 4 0 }) s

/-- An access of a stream that was translated through the range has still to perform for `sys`. -/
def State.streamPending (s : State) (q : Inval) (r : CtxRef) : Bool :=
  match (s.ctx r).strm with
  | none => false
  | some m =>
    let asid : BitVec 16 := field (s.col r.col).ptb 48 16
    m.space == 2 && m.reqs.any fun y => y.pieces.any fun p =>
      q.covers asid (p.lg * 8) (p.lg * 8 + 8) && (p.st == .waiting ||
        (y.write && (s.stack (stackOf r.col)).ord.any fun o => o.ag == some (r.elem, m.daddr, y.idx) && o.pa / 8 == p.loc.addr / 8))

/-- A store of a sequencer of the address space has still to perform. -/
def State.storesPending (s : State) (q : Inval) : Bool :=
  (upTo 256).any fun c =>
    let x := s.col (fin 255 c)
    (q.all || q.asid == field x.ptb 48 16) && x.band.isSome &&
    (x.cpu.storeQ.any (fun o => o.loc.space == .dev) || (s.stack (stackOf (fin 255 c))).ord.any fun o => o.node == .col (fin 255 c) && o.ag.isNone)

/-- Step 4: a paused stream's extents are patched again, and it goes on (R375, R377). -/
def State.repatch (s : State) (r : CtxRef) : State :=
  match (s.ctx r).strm with
  | none => s
  | some m =>
    if m.halt != .inval then s
    else
      let (base, size, disc) := s.binding r.col m
      let bs := extentsFrom s.hub (s.col r.col).ptb base size (discOf disc) 0 4
      s.modCtx r fun x => { x with b := vmapIdx (fun i _ => nth 0 bs i) x.b, strm := x.strm.map fun m => { m with halt := .run } }

/-- Extents that lapsed without a stream are patched again. -/
def State.repatchIdle (s : State) (q : Inval) (r : CtxRef) : State :=
  match (s.ctx r).strm, s.boundTo r with
  | none, some (base, size, disc) =>
    let asid : BitVec 16 := field (s.col r.col).ptb 48 16
    if extentBytes (s.ctx r).b ≠ 0 || !q.covers asid base (base + size) then s
    else
      let bs := extentsFrom s.hub (s.col r.col).ptb base size (discOf disc) 0 4
      s.modCtx r fun x => { x with b := vmapIdx (fun i _ => nth 0 bs i) x.b }
  | _, _ => s

/-- Every paused stream of an address space that an invalidation covers goes on. -/
def State.repatchAll (s : State) (q : Inval) : State :=
  (s.liveCtxs.filter fun r => q.all || q.asid == field (s.col r.col).ptb 48 16).foldl (fun (s : State) r => (s.repatch r).repatchIdle q r) s

/-- An invalidation starts (steps 1 and 2). -/
def State.startInval (s : State) (q : Inval) : State := { ((s.purge q).pauseExtents q) with hub := { ((s.purge q).pauseExtents q).hub with inval := some q } }

/-- `TLB_INVALIDATE` (R376, R377): tinva and tinvn; GO while one is in progress sets REJ. -/
def execTlbInvalidate (a n : BitVec 64) (s : State) : Out :=
  s.opened (
    if s.hub.inval.isSome then .next (if n.getLsbD 63 then s.modHub fun h => { h with tinvRej := true } else s)
    else
      let s := s.modHub fun h => (h.setReg 0x0E0800 (a &&& 0xFFFFFFFFFFFFF001#64)).setReg 0x0E0808 (n &&& 0xFFFFFFFF#64)
      if !n.getLsbD 63 then .next s
      else
        let np := bitsNat n 31 0
        let lo := if np = 0 then 0 else bitsNat a 47 12 * 4096
        .next (s.startInval { all := a.getLsbD 0, asid := field a 48 16, lo := lo, hi := if np = 0 then 2 ^ 48 else lo + np * 4096, due := s.now + 5800 }))

/-- `TLB_INVALIDATE_DONE` (R377 steps 3 and 4). -/
def execTlbInvalidateDone (s : State) : Out :=
  match s.hub.inval with
  | none => .next s
  | some q =>
    if s.storesPending q || s.liveCtxs.any (fun r => s.streamPending q r) then .next s
    else .next ((s.repatchAll q).modHub fun h => { h with inval := none })

/-! Retries (R378 to R380). -/

/-- A stopped or paused engine of the partition whose page holds an address goes on. -/
def State.retryEngines (s : State) (p : PartId) (asid : BitVec 16) (va : Nat) : State :=
  let same (id : BitVec 16) (o : Option Nat) : Bool :=
    match o with | some a => decide (a / 4096 = va / 4096) && (s.taskSpace id).2 == p && (field (s.taskSpace id).1 48 16 : BitVec 16) == asid | none => false
  let te (e : Te) : Te := { e with cur := e.cur.map fun m => if same m.x.task m.paused then { m with paused := none } else m }
  let lse (f : Refilling) : Refilling := if same f.r.task f.paused then { f with paused := none } else f
  { s with stk := vmap (fun k => { k with te := vmap te k.te, lse := k.lse.map lse }) s.stk }

/-- `PFRES_RETRY` (R379): every stopped or paused party of the partition whose faulting page holds VA retries. -/
def execPfresRetry (p : PartId) (v : BitVec 64) (s : State) : Out :=
  s.opened (
    let asid : BitVec 16 := field v 48 16
    let va := bitsNat v 47 12 * 4096
    let s := s.retryEngines p asid va
    let s := s.modHub fun h => { h with tasks := h.tasks.map fun t =>
      match t.spillStop with
      | some a => if t.part == p && (field (s.taskSpace t.id).1 48 16 : BitVec 16) == asid && decide (a / 4096 = va / 4096) then { t with spillStop := none } else t
      | none => t }
    let hit (r : CtxRef) : Bool :=
      (s.col r.col).part == some p && (field (s.col r.col).ptb 48 16 : BitVec 16) == asid &&
      match (s.ctx r).strm with | some m => m.halt == .page && decide (m.stopVa / 4096 = va / 4096) | none => false
    .next ((s.liveCtxs.filter hit).foldl (fun (s : State) r => s.resumeStream r) s))

/-- The pieces of a stream that a page of an address space holds perform, in order of issue (R378). -/
def State.replayStream (s : State) (r : CtxRef) (lo hi : Nat) : State :=
  match (s.ctx r).strm with
  | none => s
  | some m =>
    let held (q : Nat × Nat) : Bool := match m.reqs[q.1]?.bind fun y => y.pieces[q.2]? with
      | some p => p.st == .held && decide (lo ≤ p.lg * 8) && decide (p.lg * 8 < hi)
      | none => false
    (m.issuedPieces.filter held).foldl (fun (s : State) q => s.heldPerforms r q.1 q.2) s

/-- A page is present again: the entries that it held replay in arrival order, columns that wait for it are no longer halted, and streams that found the table full try again (R378, R380). -/
def State.replay (s : State) (asid : BitVec 16) (lo hi : Nat) : State :=
  let inside (q : Replay) : Bool := q.asid == asid && decide (lo ≤ q.va) && decide (q.va < hi)
  let all : List Stack := s.stk.toList
  let woken := all.flatMap fun k => k.replay.filter inside
  let s := { s with stk := vmap (fun k => { k with replay := k.replay.filter fun q => !inside q }) s.stk }
  let wake (s : State) (q : Replay) : State :=
    match q.who with
    | .column c => s.modCpu (.col c) fun u => { u with halt := false }
    | .stream r => s.replayStream r lo hi
    | _ => s
  let s := woken.foldl wake s
  let full (r : CtxRef) : Bool := match (s.ctx r).strm with | some m => m.halt == .full | none => false
  (s.liveCtxs.filter full).foldl (fun (s : State) r => s.resumeStream r) s

/-! Page moves (R381 to R384). -/

/-- Reads deferred at empty SA words of a page move into the replay table (R382 step 2). -/
def State.undeferPage (s : State) (asid : BitVec 16) (lo hi : Nat) : State :=
  let inPage (p : Piece) : Bool := p.st == .deferred && decide (lo ≤ p.lg * 8) && decide (p.lg * 8 < hi)
  (s.liveCtxs.filter fun r => (field (s.col r.col).ptb 48 16 : BitVec 16) == asid).foldl (fun (s : State) r =>
    match (s.ctx r).strm with
    | none => s
    | some m =>
      if m.space != 2 || !m.reqs.any (fun q => q.pieces.any inPage) then s
      else
        let hold (p : Piece) : Piece := if inPage p then { p with st := .held } else p
        let s := s.modCtx r fun x => { x with strm := x.strm.map fun m => { m with reqs := m.reqs.map fun q => { q with pieces := q.pieces.map hold } } }
        s.modStack (stackOf r.col) fun k => { k with replay := k.replay ++ [⟨.stream r, asid, lo⟩] }) s

/-- Entries of a leaf: their table addresses. -/
def Leaf.entries (l : Leaf) : List Nat := if pteContig l.ent then (upTo 16).map fun i => l.addr / 128 * 128 + 8 * i else [l.addr]
/-- Bytes that one entry of a leaf maps. -/
def Leaf.unit (l : Leaf) : Nat := if pteContig l.ent then 2 ^ (l.bits - 4) else 2 ^ l.bits

/-- Writes every entry of a leaf as `f` makes it from the entry's position and old value. -/
def Hub.putLeaf (h : Hub) (l : Leaf) (f : Nat → DWord → DWord) : Hub :=
  (mapFrom (fun i a => (i, a)) 0 l.entries).foldl (fun (h : Hub) q => h.writeChannel (q.2 / 8) 0xFF#8 (f q.1 (h.peekW q.2))) h

/-- TRANSIT of a leaf made `b`. -/
def Hub.setTransit (h : Hub) (l : Leaf) (b : Bool) : Hub := h.putLeaf l fun _ e => putBit e 58 b

/-- The leaf that maps an address of a move. -/
def Move.leaf (m : Move) (h : Hub) (va : Nat) : Option Leaf :=
  match walk h (bitsNat m.root 45 12 * 4096) va with | .leaf l => some l | _ => none

/-- Bytes, presence and error state of a device range carried to another; an uncorrectable burst is copied as zeros. -/
def Store.copyRange (m : Store) (src dst n : Nat) : Store :=
  let bytes := m.bytes.filter fun c => decide (src ≤ c.1) && decide (c.1 < src + n) && !m.bad.contains (c.1 / 64)
  let sa := m.sa.filter fun q => decide (src ≤ 8 * q.1) && decide (8 * q.1 < src + n)
  let z := m.zeroRange dst n
  let z := { z with bad := m.bad.filter fun b => !(decide (dst ≤ 64 * b) && decide (64 * b < dst + n)), soft := m.soft.filter fun x => !(decide (dst ≤ 8 * (x / 64)) && decide (8 * (x / 64) < dst + n)) }
  let z := bytes.foldl (fun (z : Store) c => z.putByte (dst + (c.1 - src)) c.2) z
  sa.foldl (fun (z : Store) q => z.setPresence ((dst + (8 * q.1 - src)) / 8) (some q.2)) z

/-- A range of device memory holds an uncorrectable burst. -/
def Store.badIn (m : Store) (a n : Nat) : Bool := m.bad.any fun b => decide (a ≤ 64 * b + 63) && decide (64 * b < a + n)

/-- Takes a frame from the free-frame ring of a partition (R379); none, with event 2 once per emptying, where it is empty or off (R383). -/
def State.takeFrame (s : State) (p : PartId) : Option Nat × State :=
  let h := s.hub
  let ctl := h.reg (partReg p 0x148)
  let n := bitsNat ctl 3 0
  let head := (h.ffHead.get p).toNat
  let on := ringOn ctl 4 4 16
  if !on || ringUsed head (bitsNat (h.reg (partReg p 0x158)) 15 0) n = 0 then
    if h.ringEmpty.get p then (none, s)
    else (none, (s.modHub fun h => { h with ringEmpty := vset h.ringEmpty p true }).sysEvent p 2 0x12A [])
  else
    let at_ := bitsNat (h.reg (partReg p 0x140)) 45 16 * 2 ^ 16 + 8 * (head % 2 ^ n)
    let e := h.peekW at_
    (some (bitsNat e 45 16 * 0x10000),
     (s.hubReads at_ 8).modHub fun h => { h with ffHead := vset h.ffHead p (BitVec.ofNat 16 ((head + 1) % 2 ^ n)), ringEmpty := vset h.ringEmpty p false })

/-- `FREE_FRAME_TAIL_WRITE` (R379, R383). -/
def execFreeFrameTailWrite (p : PartId) (v : BitVec 64) (s : State) : Out :=
  s.opened (.next (s.modHub fun h => { h.setReg (partReg p 0x158) (v &&& 0xFFFF#64) with ringEmpty := vset h.ringEmpty p false }))

/-- The descriptor of a move (R381). -/
def moveOf (h : Hub) (pa : Nat) : Move :=
  let w (i : Nat) : DWord := h.peekW (pa + 8 * i)
  let asid : BitVec 16 := field (w 0) 48 16
  let (root, p) := (h.spaceOf asid).getD (0, 0)
  { newMove (bitsNat (w 1) 33 32) root p (bitsNat (w 0) 47 12 * 4096) (bitsNat (w 1) 31 0) (bitsNat (w 2) 45 12 * 4096) (field (w 3) 48 16) (some (bitsNat (w 3) 47 4 * 16))
    with asid := asid }

/-- `MIGRATION_KICK` (R381): the descriptor is taken, or refused whole with status 2; a weight of 0 refuses it with status 1 (R348). -/
def execMigrationKick (pa : Nat) (s : State) : Out :=
  s.opened (
    let h := s.hub
    let m := moveOf h pa
    let w (i : Nat) : DWord := h.peekW (pa + 8 * i)
    let res0 := bitsNat (w 0) 11 0 == 0 && bitsNat (w 1) 63 34 == 0 && bitsNat (w 2) 63 46 == 0 && bitsNat (w 3) 3 0 == 0
    .next ((s.hubReads pa 32).modHub fun h => h.queueMove m (res0 && (h.spaceOf m.asid).isSome)))

/-- The move at the head of a list replaced through `f`. -/
def modHead (f : Move → Move) : List Move → List Move
  | [] => []
  | m :: r => f m :: r
def State.modMove (s : State) (f : Move → Move) : State := s.modHub fun h => { h with moves := modHead f h.moves }

/-- Steps 1 and 2 of a page (R382): TRANSIT is set and the page is invalidated. Nothing happens while an invalidation is in progress or another move has the page. -/
def State.beginPage (s : State) (m : Move) (l : Leaf) : Option State :=
  if s.hub.inval.isSome || l.st == .transit then none
  else
    let lo := m.va / 2 ^ l.bits * 2 ^ l.bits
    let hi := lo + 2 ^ l.bits
    let s := s.modHub fun h => h.setTransit l true
    let s := s.startInval { all := false, asid := m.asid, lo := lo, hi := hi, due := s.now + 5800 }
    some (s.undeferPage m.asid lo hi)

/-- The raw bytes of a compressed image (R384). -/
def readImage (h : Hub) (pa : Nat) : List Byte :=
  let dir := (upTo 128).map fun i => leNat (h.peek (pa + 8 + 2 * i) 2)
  (dir.foldl (fun (q : Nat × List Byte) n => (q.1 + ceilDiv n 8 * 8, q.2 ++ decodeGranule (h.peek q.1 n))) (pa + 264, [])).2

/-- The image of a 64 KiB group (R384). -/
def codeImage (raw : List Byte) : List Byte :=
  let fs := (chunks 512 128 raw).map codeGranule
  leBytes 8 (sumList (fs.map List.length)) ++ fs.flatMap (fun f => leBytes 2 f.length) ++ fs.flatMap fun f => padTo (ceilDiv f.length 8 * 8) f

/-- Bytes written at a channel with good check bits. -/
def Hub.pokeAll (h : Hub) (a : Nat) (bs : List Byte) : Hub :=
  let m := h.dev.zeroRange a bs.length
  let bad := h.dev.bad.filter fun b => !(decide (a ≤ 64 * b) && decide (64 * b + 64 ≤ a + bs.length))
  { h with dev := { m.putBytes a bs with bad := bad, sa := h.dev.sa } }

/-- Watches on single-assignment words of a page that moves follow them (R222, R382). -/
def State.moveWatches (s : State) (src dst n : Nat) : State :=
  let go (w : Watch) : Watch := if w.loc.space == .dev && decide (src ≤ w.loc.addr) && decide (w.loc.addr < src + n) then { w with loc := { w.loc with addr := dst + (w.loc.addr - src) } } else w
  { s with cols := vmap (fun x => if x.watches.isEmpty then x else { x with watches := x.watches.map go }) s.cols }

/-- Steps 3 and 4 (R382, R383): the data is copied, decoded or coded, and the new entries are written. Answers the state and the bytes written; none where the copy aborts. -/
def State.copyPage (s : State) (m : Move) (l : Leaf) (frame : Nat) : Option (State × Nat × Bool) :=
  let h := s.hub
  let src := if pteComp l.ent then bitsNat (h.peekW (l.addr / 128 * 128)) 45 6 * 64 else l.pa h (m.va / 2 ^ l.bits * 2 ^ l.bits)
  let n := 2 ^ l.bits
  let fits (a n : Nat) : Bool := h.inPmem m.part a && h.inPmem m.part (a + n - 1) && h.mapped a n
  match m.op with
  | 0 =>
    if !fits m.dst n then none
    else
      let bad := h.dev.badIn src n
      let h := { h with dev := h.dev.copyRange src m.dst n }
      let ent (i : Nat) (e : DWord) : DWord := putBit (putBit (putField e 12 (BitVec.ofNat 34 ((m.dst + i * l.unit) / 4096))) 58 false) 59 (pteTaint e || bad)
      some (({ s with hub := h.putLeaf l ent }).moveWatches src m.dst n, n, bad)
  | 1 =>
    let img := codeImage (h.peek src n)
    let bad := h.dev.badIn src n
    if !fits m.dst img.length then none
    else
      let h := h.pokeAll m.dst img
      let ent (_ : Nat) (e : DWord) : DWord := putBit (putBit (putBit (putField e 6 (BitVec.ofNat 40 (m.dst / 64))) 58 false) 57 true) 59 (pteTaint e || bad)
      some ({ s with hub := h.putLeaf l ent }, img.length, bad)
  | _ =>
    if !fits frame n then none
    else
      let raw := if pteComp l.ent then readImage h src else h.peek src n
      let bad := h.dev.badIn src (if pteComp l.ent then leNat (h.peek src 4) + 264 else n)
      let h := h.pokeAll frame raw
      let ent (i : Nat) (e : DWord) : DWord := putBit (putBit (putBit (putField (e &&& 0xFFFFC00000000000#64) 12 (BitVec.ofNat 34 ((frame + i * l.unit) / 4096))) 58 false) 57 false) 59 (pteTaint e || bad)
      some ({ s with hub := h.putLeaf l ent }, n, bad)

/-- An uncorrectable source word: heuncor rises and event 7 is raised (R383). -/
def State.badSource (s : State) (m : Move) (bad : Bool) : State :=
  if bad then (s.modHub fun h => h.bumpReg 0x0E0AD0 false 1).sysEvent m.part 7 0x12A (leBytes 8 m.va ++ leBytes 8 m.asid.toNat) else s

/-- Steps 5 and 6: deferred accesses replay, and the page is invalidated once more so that extents regrow. -/
def State.endPage (s : State) (m : Move) (l : Leaf) : State :=
  let lo := m.va / 2 ^ l.bits * 2 ^ l.bits
  let q : Inval := { all := false, asid := m.asid, lo := lo, hi := lo + 2 ^ l.bits, due := s.now }
  let s := (s.replay m.asid lo (lo + 2 ^ l.bits)).purge q
  (s.pauseExtents q).repatchAll q

/-- `MIGRATION_PAGE_DONE` (R382, R383): the engine takes its next page in transit, or, once that page's invalidation is over, copies it and goes on. -/
def execMigrationPageDone (s : State) : Out :=
  match s.hub.moves with
  | [] => .next s
  | m :: _ =>
    if m.left = 0 || m.status = 1 || m.status = 2 || s.hub.pwr != .run then .next s
    else match m.leaf s.hub m.va with
      | none => .next (s.modMove fun m => { m with status := 1 })
      | some l =>
        if !m.transit then
          -- what is no page with data to move is passed over
          if l.st == .absent || l.st == .flash || (m.op == 2 && l.st == .present) then
            .next (s.modMove fun m => { m with va := m.va / 2 ^ l.bits * 2 ^ l.bits + 2 ^ l.bits, left := m.left - 2 ^ l.bits / 4096 })
          else match s.beginPage m l with
            | none => .next s
            | some s => .next (s.modMove fun m => { m with transit := true })
        else if s.hub.inval.isSome || !s.hub.admits 24 m.part 4 then .next s
        else
          let (frame, s) := if m.op = 2 then s.takeFrame m.part else (some 0, s)
          match frame with
          | none => .next s
          | some f =>
            match s.copyPage m l f with
            | none => .next (((s.modHub fun h => h.setTransit l false).endPage m l).modMove fun m => { m with status := 1, transit := false })
            | some (s, n, bad) =>
              let next (m : Move) : Move :=
                { m with va := m.va / 2 ^ l.bits * 2 ^ l.bits + 2 ^ l.bits, left := m.left - 2 ^ l.bits / 4096, moved := m.moved + 2 ^ l.bits / 4096, bytes := m.bytes + n,
                         taint := m.taint || bad, transit := false, status := if bad then 3 else m.status,
                         dst := if m.op = 0 then m.dst + n else if m.op = 1 then ceilDiv (m.dst + n) 64 * 64 else m.dst }
              .next (((s.badSource m bad).endPage m l).modMove next)

/-- Writes a move's mailbox with a release store (R381, R385). -/
def State.moveMailbox (s : State) (m : Move) (second : Nat) : State :=
  match m.mbox with
  | none => s
  | some a =>
    if (s.hub.channel? a).isNone then s
    else s.modHub fun h => (h.writeChannel (a / 8) 0xFF#8 (BitVec.ofNat 64 (m.status % 256 + m.tag.toNat * 2 ^ 8 + m.moved * 2 ^ 32))).writeChannel
      (a / 8 + 1) 0xFF#8 (BitVec.ofNat 64 second)

/-- `MIGRATION_COMPLETE`: the mailbox is written, and the engine takes its next descriptor. -/
def execMigrationComplete (s : State) : Out :=
  match s.hub.moves with
  | [] => .next s
  | m :: r =>
    if (m.left = 0 || m.status = 1 || m.status = 2) && !m.transit then
      .next ((s.moveMailbox m m.bytes).modHub fun h => { h with moves := r })
    else .next s

/-! Flash paging (R385). -/

/-- The first page-out that has not ended. -/
def Hub.pageOut (h : Hub) : Option Nat := indexOf? (fun m : Move => m.op == 4) h.flash
def State.modFlash (s : State) (i : Nat) (f : Move → Move) : State := s.modHub fun h => { h with flash := modNth f i h.flash }

/-- `FLASH_PAGEOUT_KICK`: the descriptor is taken, or refused whole. -/
def execFlashPageoutKick (pa : Nat) (s : State) : Out :=
  s.opened (
    let h := s.hub
    let w (i : Nat) : DWord := h.peekW (pa + 8 * i)
    let m := moveOf h pa
    let res0 := bitsNat (w 0) 11 0 == 0 && bitsNat (w 1) 63 35 == 0 && bitsNat (w 2) 63 46 == 0 && bitsNat (w 3) 3 0 == 0
    let group (l : Leaf) : Bool := l.bits == 16 && l.st == .present && l.disc != .sa
    let ok := res0 && m.op == 0 && (h.spaceOf m.asid).isSome && wholePages h (bitsNat m.root 45 12 * 4096) m.va group m.left m.left
    let st := if !ok then 2 else if h.engWeight m.part 3 = 0 then 1 else 0
    let m := { m with op := 4, dst := bitsNat (w 2) 45 0, force := (w 1).getLsbD 34, status := st, left := if st = 0 then m.left else 0 }
    .next ((s.hubReads pa 32).modHub fun h => { h with flash := h.flash ++ [m] }))

/-- The group after the one in hand. -/
def Move.nextGroup (m : Move) : Move := { m with va := m.va + 0x10000, left := m.left - 16, transit := false }

/-- The end of a page-out: its mailbox, and it leaves the engine. -/
def State.endPageOut (s : State) (i : Nat) (m : Move) : State := (s.moveMailbox m m.skipped).modHub fun h => { h with flash := dropNth i h.flash }

/-- `FLASH_GROUP_WRITTEN` (R385): the page-out in hand takes its next group, skips one that has been accessed, or, with the group's NVMe write answered, makes its entry FLASH; an error on write aborts it. A page-out with nothing left ends. -/
def execFlashGroupWritten (ok : Bool) (s : State) : Out :=
  match s.hub.pageOut with
  | none => .next s
  | some i =>
    match s.hub.flash[i]? with
    | none => .next s
    | some m =>
      if m.left = 0 || m.status = 1 || m.status = 2 then .next (s.endPageOut i m)
      else match m.leaf s.hub m.va with
        | none => .next (s.modFlash i fun m => { m with status := 1 })
        | some l =>
          if !m.transit then
            let acc := l.entries.any fun a => (s.hub.peekW a).getLsbD 54
            if !m.force && acc then
              .next ((s.modHub fun h => h.putLeaf l fun _ e => putBit e 54 false).modFlash i fun m => { m.nextGroup with skipped := m.skipped + 1 })
            else match s.beginPage m l with
              | none => .next s
              | some s => .next (s.modFlash i fun m => { m with transit := true })
          else if s.hub.inval.isSome then .next s
          else if !ok then .next (((s.modHub fun h => h.setTransit l false).endPage m l).modFlash i fun m => { m with status := 1, transit := false })
          else
            let fba := m.dst + 16 * m.moved
            let ent (_ : Nat) (e : DWord) : DWord :=
              putField ((e &&& 0x7F80000000000000#64) &&& ~~~(0x0400000000000000#64)) 0 (BitVec.ofNat 46 fba) ||| 0x0100000000000000#64
            let s := s.modHub fun h => { h.putLeaf l ent with nvTail := vmod h.nvTail m.part fun t => BitVec.ofNat 16 ((t.toNat + 1) % 64) }
            .next ((s.endPage m l).modFlash i fun m => { m.nextGroup with moved := m.moved + 1 })

/-- `PAGE_IN_DONE` (R385): the read of an on-flash group is answered; its bytes go into a frame of the ring, its entry becomes present, and accesses replay. An NVMe error brings zeros with TAINT and event 6. -/
def execPageInDone (i : Nat) (ok : Bool) (data : List Byte) (s : State) : Out :=
  match s.hub.flash[i]? with
  | none => .next s
  | some m =>
    if m.op != 5 then .next s
    else match m.leaf s.hub m.va with
      | none => .next (s.modHub fun h => { h with flash := dropNth i h.flash })
      | some l =>
        if l.st != .flash then .next (s.modHub fun h => { h with flash := dropNth i h.flash })
        else match s.takeFrame m.part with
          | (none, s) => .next s
          | (some f, s) =>
            let bytes := if ok then padTo 0x10000 data else List.replicate 0x10000 0
            let ent (k : Nat) (e : DWord) : DWord :=
              let e := putField (e &&& 0xFEFFC00000000000#64) 12 (BitVec.ofNat 34 (f / 4096 + k)) ||| 0x8000000000000000#64
              if ok then e else putBit e 59 true
            let s := s.modHub fun h =>
              { (h.pokeAll f bytes).putLeaf l ent with flash := dropNth i h.flash, nvTail := vmod h.nvTail m.part fun t => BitVec.ofNat 16 ((t.toNat + 1) % 64) }
            let s := s.endPage m l
            .next (if ok then s else s.sysEvent m.part 6 0x129 (leBytes 8 m.va ++ leBytes 8 m.asid.toNat))

end Sys2Proof.Machine
end

