-- ==== Sys2Proof/Machine/Partitions.lean ====
section
/-! DEFINITION. Partitions: the column map (R348), event queues (R346), mailboxes (R349), reassignment of banks and shelves (R350, R351) and budget periods (R352). -/

namespace Sys2Proof.Machine

open Sys2Proof

/-- `EVENT_RECORD_WRITE` (R346). -/
def execEventRecordWrite (p : PartId) (s : State) : Out := .next (s.writeEvent p)

/-- A task that runs or is pre-empted holds a column (R348). -/
def State.heldByTask (s : State) (c : ColId) : Bool :=
  (s.col c).band.isSome || s.hub.tasks.any fun t => t.st != .ended && t.cols.contains c

/-- One bit of a PCOL write: the partition's map, and whether it failed. -/
def State.pcolBit (s : State) (p : PartId) (c : ColId) (b : Bool) : State :=
  let fails := s.modHub fun h => { h with perr := putBit h.perr p.val true }
  match (s.col c).part with
  | none => if b then s.modCol c fun x => { x with part := some p } else s
  | some q =>
    if q = p then (if b then s else if s.heldByTask c then fails else s.modCol c fun x => { x with part := none })
    else if b then fails else s

/-- `PCOL_WRITE` (R348). -/
def execPcolWrite (p : PartId) (k : Fin 4) (v : BitVec 64) (s : State) : Out :=
  s.opened (.next ((upTo 64).foldl (fun (s : State) i => s.pcolBit p (fin 255 (64 * k.val + i)) (v.getLsbD i)) s))

/-- `INBOUND_MAILBOX_WRITE` (R349): where the port is an endpoint, a host write sends the mailbox's MSI. -/
def execInboundMailboxWrite (n : Fin 16) (v : BitVec 64) (s : State) : Out :=
  s.opened (
    if !s.hub.pcieUp || s.hub.pciemode = 0#2 then .next s
    else .next ((s.modHub fun h => { h with mailIn := vset h.mailIn n v }).signal (.mailbox n.val)))

/-- `OUTBOUND_MAILBOX_WRITE` (R349): a Keano write raises an MSI-X vector at the host. -/
def execOutboundMailboxWrite (n : Fin 16) (v : BitVec 64) (s : State) : Out :=
  s.opened (
    let s := s.modHub fun h => { h with mailOut := vset h.mailOut n v }
    .next (if s.hub.pciemode = 0#2 then s else s.signal (.msix n.val)))

/-! Reassignment (R350, R351). -/

/-- RSTAT with RESULT and BUSY replaced. -/
def rstatWith (r : DWord) (result : Nat) (busy : Bool) : DWord := putField r 0 (BitVec.ofNat 4 (2 * result + if busy then 1 else 0))

/-- The tag of a bank or shelf: its own, or its column's partition. -/
def Column.tagOf (x : Column) (shelf : Bool) (i : Fin 16) : Option PartId :=
  match (if shelf then x.shelfTag.get i else x.bankTag.get i) with
  | some p => some p
  | none => x.part

/-- The banks that a command closes: its own, and with a change of IL every bank of the granule interleave before or after it. -/
def closedBanks (nsmap : BitVec 16) (i : Nat) (il : Bool) : BitVec 16 :=
  let after := putBit nsmap i il
  let one : BitVec 16 := putBit 0#16 i true
  if nsmap.getLsbD i = il then one else one ||| ~~~nsmap ||| ~~~after

/-- A shelf may not change owner: it is hosted, filling, or the berth shelf of a task (R350). -/
def Column.shelfBusy (x : Column) (i : Fin 16) : Bool :=
  x.band.isSome && match x.drift.shelves.get i with
    | .hosted | .berth => true
    | .filling _ => true
    | _ => false

/-- A write to RCMD (R350, R351): close, and drain what is queued under the old mapping. A shelf is zeroed through the slots of its port that are not reserved, 49,152 cycles with every slot free; where all four are reserved the model gives it one (assumption log 101). -/
def State.rcmd (s : State) (v : DWord) : State :=
  let h := s.hub
  if h.reassign.isSome then s.modHub fun h => { h with rstat := putBit h.rstat 4 true }
  else if !v.getLsbD 63 then s
  else
    let c : ColId := fin 255 (bitsNat v 7 0)
    let i : Fin 16 := fin 15 (bitsNat v 11 8)
    let shelf := v.getLsbD 12
    let p : PartId := fin 7 (bitsNat v 15 13)
    let x := s.col c
    if shelf && x.shelfBusy i then s.modHub fun h => { h with rstat := rstatWith (putField h.rstat 16 0#16) 1 false }
    else
      let zero := x.tagOf shelf i != some p
      let used := (x.resv.filter fun q => q.1 / 4 == i.val / 4).length
      let due := s.now + (if !zero then 1 else if shelf then ceilDiv (49152 * 4) (4 - Nat.min used 3) else 768)
      let close := closedBanks x.nsmap i.val (v.getLsbD 16)
      let s := if shelf then s else s.drainQueue (.col c) fun o => o.loc.space == .near && close.getLsbD (o.loc.addr / 0x1800)
      let s := s.modCol c fun x => if shelf then { x with shelfShut := putBit x.shelfShut i.val true } else { x with bankShut := x.bankShut ||| close }
      s.modHub fun h => { h with
        reassign := some ⟨shelf, i, c, p, v.getLsbD 16, v.getLsbD 17, due⟩, rstat := rstatWith (putField h.rstat 16 0#16) 0 true }

/-- `REASSIGN_BANK`: RCMD with KIND 0. -/
def execReassignBank (v : BitVec 64) (s : State) : Out :=
  s.opened (.next (if v.getLsbD 12 then s else s.rcmd v))

/-- `REASSIGN_SHELF`: RCMD with KIND 1. -/
def execReassignShelf (v : BitVec 64) (s : State) : Out :=
  s.opened (.next (if v.getLsbD 12 then s.rcmd v else s))

/-- `REASSIGN_DONE` (R351): the target is zeroed where it changes owner, and reopens with its tag, interleave and discipline. -/
def execReassignDone (s : State) : Out :=
  match s.hub.reassign with
  | none => .next s
  | some r =>
    if s.now < r.due then .next s
    else
      let f (x : Column) : Column :=
        let zero := x.tagOf r.shelf r.idx != some r.newPart
        if r.shelf then
          { x with vert := if zero then x.vert.zeroRange (shelfBase r.idx.val) shelfBytes else x.vert, shelfTag := vset x.shelfTag r.idx (some r.newPart),
                   shelfShut := putBit x.shelfShut r.idx.val false }
        else
          let near := if zero then x.cpu.near.zeroRange (r.idx.val * 0x1800) 0x1800 else x.cpu.near
          { x with cpu := { x.cpu with near := near }, nearDirty := if zero then (countFrom (r.idx.val * 12) 12).foldl (fun l g => insertNat g l) x.nearDirty else x.nearDirty, bankTag := vset x.bankTag r.idx (some r.newPart), bankShut := 0,
                   nsmap := putBit x.nsmap r.idx.val r.il, nssa := putBit x.nssa r.idx.val r.sa }
      .next ((s.modCol r.col f).modHub fun h => { h with reassign := none, rstat := rstatWith h.rstat 0 false })

/-! Budgets. -/

/-- `BUDGET_PERIOD` (R352): the period of a stack that its `cyc` has entered opens, and every meter of the stack is 0; the hub's meters follow stack 0. -/
def execBudgetPeriod (k : StackId) (s : State) : Out :=
  let n := (s.cyc k).toNat / 4096
  if n = (s.stack k).period then .next s
  else
    let f (i : Nat) (x : Column) : Column := if i / 64 = k.val then { x with useL := vfill 8 0, useV := vfill 8 (vfill 4 0) } else x
    let s := (s.modStack k fun x => { x with period := n })
    let s := { s with cols := vmapIdx f s.cols }
    .next (if k = 0 then s.modHub fun h => { h with use := [] } else s)

end Sys2Proof.Machine
end

