-- ==== Sys2Proof/Machine/Power.lean ====
section
/-! DEFINITION. Power: clock gating, self-refresh, droops, the thermal trip, and the sleep states with their wakes (R421 to R426); and the launch ports, which may wake the part (R356, R424). -/

namespace Sys2Proof.Machine

/-- Cycles of a microsecond, to the next whole one (R3: 2.9 GHz). -/
def microsecond : Nat := 2900

/-! Blocks. -/

/-- `COLUMN_CLOCK_GATE`: after 64 idle cycles. -/
def execColumnClockGate (c : ColId) (s : State) : Out :=
  .next (if 64 ≤ (s.col c).idleFor then s.modCol c fun x => { x with gated := true } else s)

/-- `GDDR7_SELF_REFRESH`: after 10 µs without a request. -/
def execGddr7SelfRefresh (ch : Fin 16) (s : State) : Out :=
  .next (if 10 * microsecond ≤ s.hub.quiet.get ch then s.modHub fun h => { h with selfref := putBit h.selfref ch.val true } else s)

/-- `DROOP_STRETCH` (R422): until it ends, the column's cycles are longer. -/
def execDroopStretch (c : ColId) (s : State) : Out := .next (s.modCol c fun x => { x with droop := true })

/-- `DROOP_END`. -/
def execDroopEnd (c : ColId) (s : State) : Out := .next (s.modCol c fun x => { x with droop := false })

/-- `THERMTRIP` (R422). -/
def execThermtrip (s : State) : Out := .next ((s.modHub fun h => { h with thermtrip := true }).signal .thermtrip)

/-! Sleep (R423, R424). -/

/-- A task is placing, loading or running, or is pre-empted with images still in shelves or columns. -/
def State.holdsColumns (s : State) : Bool :=
  s.hub.tasks.any fun t => match t.st with
    | .placing | .loading | .running | .preempting | .restoring => true
    | .preempted | .suspended => t.images.any fun i => !(t.areas.any fun a => a.1 == i.1)
    | .queued | .ended => false

/-- An engine queue, a replay table or the spill engine's queue is not empty. -/
def State.enginesBusy (s : State) : Bool :=
  s.stk.toList.any (fun k => k.te.toList.any (fun e => !e.q.isEmpty || e.cur.isSome || !e.packets.isEmpty) || !k.lseQ.isEmpty || k.lse.isSome ||
    !k.graphs.isEmpty || !k.replay.isEmpty) ||
  s.hub.tasks.any (fun t => t.spill.any fun q => !q.written) || s.harts.toList.any (fun h => !h.moves.isEmpty) || !s.hub.moves.isEmpty || !s.hub.flash.isEmpty || !s.hub.kicked.isEmpty

/-- A GO of `pwrcmd`: refused with its RESULT, or accepted; `deep` is doldrums. A part that already sleeps or changes takes no command. -/
def State.powerDown (s : State) (deep : Bool) : State :=
  if s.hub.pwr != .run then s
  else if s.holdsColumns then s.modHub fun h => { h with pwrres := 1 }
  else if s.enginesBusy then s.modHub fun h => { h with pwrres := 2 }
  else s.modHub fun h => { h with pwr := .entering deep, pwrres := 0, wakeLatched := none }

/-- `PWR_CALM`. -/
def execPwrCalm (s : State) : Out := s.opened (.next (s.powerDown false))
/-- `PWR_DOLDRUMS`. -/
def execPwrDoldrums (s : State) : Out := s.opened (.next (s.powerDown true))

/-- A column in calm: gated, its shelves in retention. -/
def Column.calm (x : Column) : Column := (upTo 16).foldl (fun (x : Column) h => x.shelfRests h) { x with gated := true }

/-- A column in doldrums is off: what the spec keeps of it is its place in the partition table, its owner tags and its retired buses (assumption log 22). -/
def Column.dark (x : Column) : Column :=
  { Column.reset with part := x.part, bankTag := x.bankTag, shelfTag := x.shelfTag, vret := x.vret, nsmap := x.nsmap, nssa := x.nssa,
                      inService := x.inService, shpw := vfill 16 2, wasOff := 0xFFFF, gated := true }

/-- Device memory without the contents of GDDR7. -/
def Store.dropGddr (m : Store) : Store :=
  { bytes := m.bytes.filter fun c => decide (2 ^ 36 ≤ c.1), bad := m.bad.filter fun b => decide (2 ^ 36 ≤ 64 * b),
    soft := m.soft.filter fun b => decide (2 ^ 36 ≤ b / 8), sa := m.sa.filter fun p => decide (2 ^ 36 ≤ 8 * p.1) }

/-- The state that a sleep entry leaves (R424). -/
def State.asleepIn (s : State) (deep : Bool) : State :=
  if deep then
    let s := s.flushOrd fun _ => true
    let off : Hart := ⟨Cpu.reset, []⟩
    let dark (k : Stack) : Stack := { k with tlb := [], sinkQ := [], sondes := [] }
    let s := { s with cols := vmap Column.dark s.cols, harts := vmap (fun _ => off) s.harts, stk := vmap dark s.stk }
    s.modHub fun h => { h with dev := h.dev.dropGddr, pwr := .doldrums, pwrAt := s.now }
  else
    let s := { s with cols := vmap Column.calm s.cols }
    s.modHub fun h => { h with selfref := 0xFFFF, pwr := .calm, pwrAt := s.now }

/-- The part wakes, by source `src` as a bit of `pwrwake` (R425): shelves that were off come up zeroed and rest. -/
def State.wakeUp (s : State) (src : Nat) : State :=
  let up (x : Column) : Column := (upTo 16).foldl (fun (x : Column) h => if x.wasOff.getLsbD h then (x.shelfUp h).shelfRests h else x) { x with gated := false }
  let s := if s.hub.pwr == .doldrums then { s with cols := vmap up s.cols } else { s with cols := vmap (fun x => { x with gated := false }) s.cols }
  s.modHub fun h => { h with pwr := .run, lastwake := BitVec.ofNat 8 src, wakeLatched := none }

/-- A wake request of a source: a disabled one does nothing, one that meets an entry in progress is latched, one that meets a sleeping part wakes it (R426). -/
def State.wake (s : State) (src : Nat) : State :=
  if !(s.hub.reg 0x0E0D10).getLsbD src then s
  else match s.hub.pwr with
    | .run => s
    | .entering _ => s.modHub fun h => { h with wakeLatched := some (h.wakeLatched.getD src) }
    | .calm | .doldrums => s.wakeUp src

/-- `PWR_ENTRY_DONE`: the entry completes, and a latched wake begins at once. -/
def execPwrEntryDone (s : State) : Out :=
  match s.hub.pwr with
  | .entering deep =>
    let t := s.asleepIn deep
    .next (match s.hub.wakeLatched with | some k => t.wakeUp k | none => t)
  | _ => .next s

/-- `WAKE_PIN`: the pin WAKE_N. -/
def execWakePin (s : State) : Out := .next (s.wake 2)

/-- `WAKE_TIMER`: `pwrtmr` has run since the entry. -/
def execWakeTimer (s : State) : Out :=
  let us := bitsNat (s.hub.reg 0x0E0D18) 47 0
  let asleep := match s.hub.pwr with | .calm | .doldrums => true | _ => false
  .next (if us ≠ 0 && asleep && decide (s.hub.pwrAt + us * microsecond ≤ s.now) then s.wake 3 else s)

/-- `WAKE_ENDPOINT`: in endpoint shapes. -/
def execWakeEndpoint (s : State) : Out := .next (if s.hub.pciemode = 1#2 || s.hub.pciemode = 2#2 then s.wake 1 else s)

/-- `WAKE_ROOT_PORT`: in shapes with a root port. -/
def execWakeRootPort (s : State) : Out := .next (if s.hub.pciemode = 0#2 || s.hub.pciemode = 2#2 then s.wake 0 else s)

/-! Launch ports. -/

/-- A store to a launch port: in doldrums none responds; in calm, or on the way to it, it is a wake source (R424, R426). -/
def State.launchPort (s : State) (p : PartId) (q : Fin 16) (v : DWord) : State :=
  match s.hub.pwr with
  | .doldrums | .entering true => s
  | .calm | .entering false => (s.launch256 p q v).wake 4
  | .run => s.launch256 p q v

/-- `LAUNCH_PORT_WRITE`. -/
def execLaunchPortWrite (p : PartId) (q : Fin 16) (addr : BitVec 64) (s : State) : Out := s.opened (.next (s.launchPort p q addr))

/-- `pwrstat` (R423). -/
def Hub.pwrstat (h : Hub) : DWord :=
  let st := match h.pwr with | .run => 0 | .calm => 1 | .doldrums => 2 | .entering _ => 3
  BitVec.ofNat 64 (st + h.pwrres.toNat * 4 + h.lastwake.toNat * 256)

end Sys2Proof.Machine
end

