-- ==== Sys2Proof/Machine/Records.lean ====
section
/-! DEFINITION. Trace and statistics records on their way to their rings (R416 to R418), the Keano trace agents (R419), and watches that fire (R222). -/

namespace Sys2Proof.Machine

/-- `TRACE_RECORD_WRITE`. -/
def execTraceRecordWrite (k : StackId) (s : State) : Out := .next (s.writeTrace k)

/-- The statistics record of a token that was stored to an aperture (R418). -/
def State.statRecord (s : State) (k : StackId) (c : ColId) (bs : List Byte) : List Byte :=
  let n := Node.col c
  traceHeader 5 (sourceNo n) (s.stageOf n) 0 (s.cpu n).lclk (s.cyc k) (BitVec.ofNat 64 (s.taskAddr n)) ++ bs

/-- `STAT_RING_APPEND`: the oldest store of a partition to the apertures is appended. -/
def execStatRingAppend (i : Nat) (s : State) : Out :=
  match s.hub.statQ[i]? with
  | none => .next s
  | some (k, p, c, bs) =>
    if (s.hub.statQ.take i).any fun q => q.2.1 == p then .next s
    else .next ((s.modHub fun h => { h with statQ := dropNth i h.statQ }).writeStat p (s.statRecord k c bs))

/-- `KCLK_WRITE` (R419). -/
def execKclkWrite (n : Fin 16) (v : BitVec 64) (s : State) : Out :=
  s.opened (
    let w : BitVec 48 := BitVec.setWidth 48 v
    .next (s.modHub fun h => { h with kclk := vmod h.kclk n fun own => if own.toNat < w.toNat + 1 then w + 1 else own }))

/-- `KTRACE_WRITE` (R417, R419): the record goes to stack 0's sink and partition 0's ring (assumption log 21). -/
def execKtraceWrite (n : Fin 16) (v : BitVec 64) (s : State) : Out :=
  s.opened (
    let s := s.modHub fun h => { h with kclk := vmod h.kclk n (· + 1) }
    let hdr := traceHeader 4 (0x200 + n.val) 0 0 (s.hub.kclk.get n) (s.cyc 0) 0
    .next (s.offerTrace 0 0 (hdr ++ leBytes 8 v.toNat ++ List.replicate 24 0)).2)

/-- `WATCH_FIRE`: the message of a watch whose word has been filled is queued, and the watch is released. -/
def execWatchFire (c : ColId) (i : Nat) (s : State) : Out :=
  match (s.col c).fired[i]? with
  | none => .next s
  | some (w, v, t) => .next ((s.modCol c fun x => { x with fired := dropNth i x.fired }).selfQueue (.col c) (watchMsg c w v t))

end Sys2Proof.Machine
end

