-- ==== Sys2Proof/Machine/Regs.lean ====
section
/-! DEFINITION. The device-register region (R206, R347): which registers there are, who may reach them, what they read as, and what a write does. -/

namespace Sys2Proof.Machine

/-- `a` lies in `[lo, lo + n)`. -/
def within (a lo n : Nat) : Bool := decide (lo ≤ a) && decide (a < lo + n)

/-! Which registers there are. -/

/-- Offsets of the page of RCMD that hold a register. -/
def rcmdOffset (o : Nat) : Bool :=
  within o 0 0x10 || within o 0x100 0x10 || within o 0x180 0x80 || within o 0x400 0x200 || within o 0x800 0x18 || within o 0xA00 0xF0 ||
  within o 0xB00 0x20 || within o 0xB40 0x100 || within o 0xD00 0x20 || within o 0xD40 0x10
/-- Offsets of a partition table. -/
def tableOffset (o : Nat) : Bool := within o 0 0x138
/-- Offsets of a partition page. -/
def partOffset (o : Nat) : Bool := within o 0 0x98 || within o 0x100 0x38 || within o 0x140 0x40 || within o 0x200 0x28 || within o 0x240 0x28
/-- Offsets of a column debug page. -/
def debugOffset (o : Nat) : Bool :=
  within o 0 0x60 || within o 0x100 0x408 || within o 0x600 0x108 || within o 0x800 8

/-- The pages of the register region (R347, R350, R404, R429, R431). -/
inductive RegPage where
  | identity | grivi | rcmd
  | table (p : PartId)
  | part (p : PartId)
  | engine (j : Fin 64)
  | debug (c : ColId)
  deriving DecidableEq, Repr

/-- The page of a register address that holds a register there. -/
def regPage (a : Nat) : Option RegPage :=
  let o := a % 0x1000
  if a < 0x100 then some .identity
  else if within a 0x0D0000 0x10 then some .grivi
  else if within a 0x0E0000 0x1000 then (if rcmdOffset o then some .rcmd else none)
  else if within a 0x0F0000 0x8000 then (if tableOffset o then some (.table (fin 7 ((a - 0x0F0000) / 0x1000))) else none)
  else if within a 0x100000 0x8000 then (if partOffset o then some (.part (fin 7 ((a - 0x100000) / 0x1000))) else none)
  else if within a 0x200000 0x40000 then some (.engine (fin 63 ((a - 0x200000) / 0x1000)))
  else if within a 0x300000 0x100000 then (if debugOffset o then some (.debug (fin 255 ((a - 0x300000) / 0x1000))) else none)
  else none

/-- Who may reach a page (R347): supervisor firmware every page; a column its partition's page and the engine pages granted to its partition; a hub engine the invalidation registers (R376); engine microcode the engine pages (assumption log 24). -/
def State.granted (s : State) (n : Node) (g : RegPage) (a : Nat) : Bool :=
  (s.cpu n).sup || match g, n with
    | .identity, _ => true
    | .part p, .col c => (s.col c).part == some p
    | .engine j, .col c => (match (s.col c).part with | some p => (s.hub.reg (0x0F0068 + 0x1000 * p.val)).getLsbD j.val | none => false)
    | .engine _, .hart _ => true
    | .rcmd, .hart h => decide (40 ≤ h.val) && within a 0x0E0800 0x18
    | _, _ => false

/-! Reads. -/

/-- A ring's control word as it reads: EN is 0 where LOGN is out of its range. -/
def ringCtl (v : DWord) (bitsN lo hi : Nat) : DWord := if ringOn v bitsN lo hi then v else putBit v 8 false

/-- A word of `dtemp`: four columns (R360). -/
def Hub.dtempWord (h : Hub) (i : Nat) : DWord :=
  BitVec.ofNat 64 (sumList ((upTo 4).map fun k => ((h.dtemp.get (fin 255 (4 * i + k))).toNat + if h.skip.get (fin 255 (4 * i + k)) then 256 else 0) * 2 ^ (16 * k)))

/-- A register of the page of RCMD. -/
def State.readRcmd (s : State) (o : Nat) : DWord :=
  let h := s.hub
  if o = 8 then h.rstat
  else if within o 0x400 0x200 then h.dtempWord ((o - 0x400) / 8)
  else if o = 0x810 then BitVec.ofNat 64 ((if h.inval.isSome then 1 else 0) + if h.tinvRej then 2 else 0)
  else if within o 0xB00 0x20 then BitVec.setWidth 64 (s.stack (fin 3 ((o - 0xB00) / 8))).sndrop
  else if within o 0xB40 0x100 then (if o % 16 = 0 then BitVec.setWidth 64 (h.kclk.get (fin 15 ((o - 0xB40) / 16))) else Config.deviceRead s.fresh)
  else if o = 0xD08 then h.pwrstat
  else h.reg (0x0E0000 + o)

/-- The columns of a partition among the 64 of a stack, as a map. -/
def State.pcol (s : State) (p : PartId) (k : Nat) : DWord :=
  BitVec.ofNat 64 (sumList ((upTo 64).map fun i => if (s.col (fin 255 (64 * k + i))).part = some p then 2 ^ i else 0))

/-- A register of a partition table (R348). -/
def State.readTable (s : State) (p : PartId) (o : Nat) : DWord :=
  if o < 0x20 then s.pcol p (o / 8)
  else if o = 0x130 then BitVec.ofNat 64 (((s.hub.reg (0x0F0130 + 0x1000 * p.val)).toNat % 2) + if s.hub.perr.getLsbD p.val then 2 else 0)
  else s.hub.reg (0x0F0000 + 0x1000 * p.val + o)

/-- A register of a partition page (R345, R356, R379, R416, R418). -/
def State.readPart (s : State) (p : PartId) (o : Nat) : DWord :=
  let h := s.hub
  let r := h.reg (partReg p o)
  if o < 0x80 then BitVec.ofNat 64 (queueDepth - (h.queues.get (fin 15 (o / 8))).length)
  else if o = 0x88 then BitVec.setWidth 64 (h.tstat.get p)
  else if o = 0x90 then BitVec.setWidth 64 (h.lrej.get p)
  else if o = 0x108 then ringCtl r 4 4 16
  else if o = 0x118 then BitVec.setWidth 64 (h.evTail.get p)
  else if o = 0x150 then BitVec.setWidth 64 (h.ffHead.get p)
  else if o = 0x208 || o = 0x248 then ringCtl r 5 8 20
  else if o = 0x218 then BitVec.setWidth 64 (h.trTail.get p)
  else if o = 0x258 then BitVec.setWidth 64 (h.stTail.get p)
  else r

/-- A register of a column debug page (R404, R422). -/
def State.readDebug (s : State) (c : ColId) (o : Nat) : DWord :=
  let x := s.col c
  if o < 8 then 0
  else if o < 0x10 then x.dbg.dstat
  else if o < 0x18 then x.dbg.dbaddr
  else if o < 0x20 then x.dbg.dbdata
  else if o < 0x40 then (x.dbg.bpts.get (fin 3 ((o - 0x20) / 8))).ctl
  else if o < 0x60 then BitVec.setWidth 64 (x.dbg.bpts.get (fin 3 ((o - 0x40) / 8))).count
  else if o < 0x500 then s.inFlightWord c ((o - 0x100) / 8)
  else if o < 0x508 then x.errinj
  else if o < 0x700 then x.cpu.reg (BitVec.ofNat 5 ((o - 0x600) / 8))
  else if o < 0x708 then x.cpu.pc
  else BitVec.setWidth 64 x.dstr

/-- The 8-byte word of a register address. A kick register reads as a free value. -/
def State.readReg (s : State) (g : RegPage) (a : Nat) : DWord :=
  let o := a % 0x1000 / 8 * 8
  match g with
  | .identity => s.hub.identityWord (o / 8)
  | .grivi => if o = 8 then s.hub.atstat else s.hub.reg 0x0D0000
  | .rcmd => s.readRcmd o
  | .table p => s.readTable p o
  | .part p => s.readPart p o
  | .engine _ => (match Config.kickEngine (a / 8 * 8) with | some _ => Config.deviceRead s.fresh | none => s.hub.reg (a / 8 * 8))
  | .debug c => s.readDebug c o

/-- A register as a reader sees it: until the part is open, only the identity page responds (R428). -/
def State.peekReg (s : State) (g : RegPage) (a : Nat) : DWord := if s.hub.bstep = 9 || g == .identity then s.readReg g a else 0

/-! Writes. -/

/-- A plain register takes the bits of a mask. -/
def State.putReg (s : State) (a : Nat) (mask v : DWord) : State := s.modHub fun h => h.setReg a (v &&& mask)

/-- `pwrcmd` (R423): a TARGET of 0 or 3 is refused. -/
def State.putPwrcmd (s : State) (v : DWord) : State :=
  if !v.getLsbD 63 then s
  else match bitsNat v 1 0 with
    | 1 => s.powerDown false
    | 2 => s.powerDown true
    | _ => s.modHub fun h => { h with pwrres := 3 }

/-- A write to the page of RCMD. -/
def State.writeRcmd (s : State) (o : Nat) (v : DWord) : State :=
  let a := 0x0E0000 + o
  if o = 0 then (if s.hub.reassign.isSome then s.rcmd v else (s.rcmd v).putReg a 0x3FFFF#64 v)
  else if o = 8 then (if v.getLsbD 4 then s.modHub fun h => { h with rstat := putBit h.rstat 4 false } else s)
  else if o = 0x108 then nextOr (execDthermWrite v s) s
  else if o = 0x100 || within o 0x180 0x80 then s.putReg a 0xFFFF#64 v
  else if within o 0x400 0x200 then s
  else if o = 0x800 then s.putReg a 0xFFFFFFFFFFFFF001#64 v
  else if o = 0x808 then nextOr (execTlbInvalidate (s.hub.reg 0x0E0800) v s) s
  else if o = 0x810 then (if v.getLsbD 1 then s.modHub fun h => { h with tinvRej := false } else s)
  else if o = 0xAD0 || o = 0xAD8 || o = 0xAE8 || o = 0xD48 then s.putReg a 0xFFFFFFFF#64 v
  else if within o 0xB00 0x20 then s.modStack (fin 3 ((o - 0xB00) / 8)) fun k => { k with sndrop := BitVec.setWidth 32 v }
  else if within o 0xB40 0x100 then
    (if o % 16 = 0 then nextOr (execKclkWrite (fin 15 ((o - 0xB40) / 16)) v s) s else nextOr (execKtraceWrite (fin 15 ((o - 0xB40) / 16)) v s) s)
  else if o = 0xD00 then (s.putPwrcmd v).putReg a 3#64 v
  else if o = 0xD08 then s
  else if o = 0xD10 then s.putReg a 0x1F#64 v
  else if o = 0xD18 || o = 0xD40 then s.putReg a 0xFFFFFFFFFFFF#64 v
  else s.putReg a (BitVec.allOnes 64) v

/-- A write to a partition table. -/
def State.writeTable (s : State) (p : PartId) (o : Nat) (v : DWord) : State :=
  let a := 0x0F0000 + 0x1000 * p.val + o
  if o < 0x20 then nextOr (execPcolWrite p (fin 3 (o / 8)) v s) s
  else if o < 0x60 then s.putReg a 0x80003FFFFFFFFFFF#64 v
  else if o = 0x60 then s.putReg a 0xFFFFFF#64 v
  else if o = 0x68 then s.putReg a (BitVec.allOnes 64) v
  else if o < 0xF0 then s.putReg a 0x1FFF1FFF#64 v
  else if o < 0x130 then s.putReg a 0x1FFF1FFF1FFF1FFF#64 v
  else (if v.getLsbD 1 then s.modHub fun h => { h with perr := putBit h.perr p.val false } else s).putReg a 1#64 v

/-- `tcmd` (R356). -/
def State.putTcmd (s : State) (p : PartId) (v : DWord) : State :=
  let a : BitVec 48 := field v 0 48
  if !v.getLsbD 63 then s
  else match bitsNat v 50 48 with
    | 1 => nextOr (execTcmdSuspend p a s) s
    | 2 => nextOr (execTcmdKill p a s) s
    | 3 => nextOr (execTcmdRelease p a s) s
    | _ => s.tcmd p a fun _ => (3, false, s)

/-- A write to a partition page. -/
def State.writePart (s : State) (p : PartId) (o : Nat) (v : DWord) : State :=
  let put (mask : DWord) : State := s.putReg (partReg p o) mask v
  if o < 0x80 then s.launchPort p (fin 15 (o / 8)) v
  else if o = 0x80 then (s.putTcmd p v).putReg (partReg p o) 0x7FFFFFFFFFFFF#64 v
  else if o = 0x88 || o = 0x118 || o = 0x150 || o = 0x218 || o = 0x258 then s
  else if o = 0x90 then s.modHub fun h => { h with lrej := vset h.lrej p (BitVec.setWidth 32 v) }
  else if o = 0x100 || o = 0x168 || o = 0x170 || o = 0x200 || o = 0x240 then put 0x3FFFFFFFF000#64
  else if o = 0x108 || o = 0x148 then put 0x10F#64
  else if o = 0x110 then put 0xFFFF#64
  else if o = 0x120 then put (BitVec.allOnes 64)
  else if o = 0x140 then put 0x3FFFFFFF0000#64
  else if o = 0x158 then nextOr (execFreeFrameTailWrite p v s) s
  else if o = 0x160 then nextOr (execPfresRetry p v s) s
  else if o = 0x178 then put 0x3FFFFFFFFFFC#64
  else if o = 0x208 || o = 0x248 then put 0x11F#64
  else put 0xFFFFFFFF#64

/-- `dcmd` (R404). -/
def State.putDcmd (s : State) (c : ColId) (v : DWord) : State :=
  let e := fin 31 (bitsNat v 12 8)
  let k := fin 3 (bitsNat v 14 13)
  if !v.getLsbD 63 then s
  else match bitsNat v 3 0 with
    | 1 => nextOr (execDbgStop c s) s
    | 2 => nextOr (execDbgResume c s) s
    | 3 => nextOr (execDbgStepInstruction c s) s
    | 4 => nextOr (execDbgStepFiring c e k s) s
    | 5 => nextOr (execDbgSquall c s) s
    | 6 => nextOr (execDbgRead c s) s
    | 7 => nextOr (execDbgWrite c s) s
    | _ => nextOr (s.dcmd c false (4, s)) s

/-- A write to a column debug page: the sequencer's registers take one only in the debug state. -/
def State.writeDebug (s : State) (c : ColId) (o : Nat) (v : DWord) : State :=
  let halted := (s.col c).dbg.dhalt
  if o < 8 then s.putDcmd c v
  else if o < 0x10 then s
  else if o < 0x18 then s.modDbg c fun d => { d with dbaddr := v &&& 0xC00000000FFFFFFF#64 }
  else if o < 0x20 then s.modDbg c fun d => { d with dbdata := v }
  else if o < 0x40 then nextOr (execBptWrite c (fin 3 ((o - 0x20) / 8)) v s) s
  else if within o 0x500 8 then s.modCol c fun x => x.putErrinj v
  else if within o 0x600 0x100 then (if halted then s.setReg (.col c) (BitVec.ofNat 5 ((o - 0x600) / 8)) v else s)
  else if within o 0x700 8 then (if halted then s.setPc (.col c) v else s)
  else s

/-- A store to a word of an engine page: a kick is observed by its engine as a message, a mailbox takes the value (R149). `stamp` and `from_` are the storer's. -/
def State.writeEngine (s : State) (a : Nat) (v : DWord) (stamp : BitVec 48) (from_ : Option ColId) : State :=
  match Config.kickEngine a with
  | some e => if e < 0x2C ∧ e ≠ 0x28 then s.modHub fun h => { h with kicked := h.kicked ++ [(e, v, stamp, from_)] } else s
  | none => s.putReg a (BitVec.allOnes 64) v

/-- A write of an 8-byte word of a register address (R347); until the part is open it is ignored (R428). -/
def State.writeReg (s : State) (g : RegPage) (a : Nat) (v : DWord) (stamp : BitVec 48) (from_ : Option ColId) : State :=
  let o := a % 0x1000 / 8 * 8
  if s.hub.bstep ≠ 9 then s
  else match g with
    | .identity => s
    | .grivi => if o = 0 then (s.attestStart v).putReg 0x0D0000 0x3FFFFFFFFFC0#64 v else s
    | .rcmd => s.writeRcmd o v
    | .table p => s.writeTable p o v
    | .part p => s.writePart p o v
    | .engine _ => s.writeEngine (a / 8 * 8) v stamp from_
    | .debug c => s.writeDebug c o v

/-- `REGISTER_WRITE`: hypervisor-mode Keano software writes a register; two of the hub's have addresses that the spec does not give. -/
def execRegisterWrite (addr : Nat) (v : BitVec 64) (s : State) : Out :=
  match regPage (addr / 8 * 8) with
  | some g => .next (s.writeReg g (addr / 8 * 8) v 0 none)
  | none =>
    s.opened (.next (
      if addr = Config.hostpartAddr then s.modHub fun h => { h with hostpart := fin 7 (bitsNat v 2 0) }
      else match (upTo 16).find? fun n => Config.bar2Addr n == addr with
        | some n => s.modHub fun h => { h with bar2 := vset h.bar2 (fin 15 n) v }
        | none => s))

/-! A sequencer's accesses. -/

/-- A sequencer reads bytes of a register (R206, assumption log 19). -/
def State.loadReg (s : State) (n : Node) (a : DWord) (bytes : Nat) : Except Trap DWord :=
  let ra := bitsNat a 47 0
  match regPage ra with
  | none => .error (.at_ .access a)
  | some g => if s.granted n g ra then .ok (subWord (s.peekReg g ra) ra bytes) else .error (.at_ .access a)

/-- A sequencer writes bytes of a register; a launch port takes 8 bytes only (R356). -/
def State.storeReg (s : State) (n : Node) (a : DWord) (bytes : Nat) (v : DWord) : Except Trap State :=
  let ra := bitsNat a 47 0
  let from_ : Option ColId := match n with | .col c => some c | .hart _ => none
  let port (g : RegPage) : Bool := match g with | .part _ => decide (ra % 0x1000 < 0x80) | _ => false
  match regPage ra with
  | none => .error (.at_ .access a)
  | some g =>
    if !s.granted n g ra || (port g && bytes != 8) then .error (.at_ .access a)
    else
      let whole := mergeWord (s.peekReg g ra) (BitVec.ofNat 64 (v.toNat * 2 ^ (8 * (ra % 8)))) (byteMask (ra % 8) bytes)
      .ok (s.writeReg g ra whole (s.cpu n).lclk from_)

end Sys2Proof.Machine
end

