-- ==== Sys2Proof/Machine/LoadStore.lean ====
section
/-! DEFINITION. Loads and stores (R216 to R218), acquire and release (R225), single-assignment forms and watches (R219 to R222). -/

namespace Sys2Proof.Machine

/-! One word of memory. -/

/-- The word at a location as a node reads it, with its own queued stores over it (R218); a word taken from the stack's ordering point is noted (R138). -/
def State.nodeRead (s : State) (n : Node) (l : Loc) (sa : Bool) : (DWord × Bool) × State :=
  let (r, s1) := match n, l.space with
    | .hart h, .near => ((s.hart h).cpu.near.readWord (l.addr / 8), s)
    | _, _ => s.readLoc (some n.stack) sa l
  ((mergeQueue (s.cpu n).storeQ l r.1, r.2), s1.noteSeen n l)

/-- The location's bank as the node finds it; the local memory of an engine hart is always open. -/
def State.nodeAccess (s : State) (n : Node) (l : Loc) : Access :=
  match n with
  | .col _ => s.access l
  | .hart _ => .open_

/-- A load of an aligned field from near store or device memory (R217). -/
def State.loadLoc (s : State) (n : Node) (a : DWord) (l : Loc) (sa : Bool) (pageTaint : Bool) (bytes : Nat) : Except Stop (DWord × Bool) × State :=
  match s.nodeAccess n l with
  | .shut => (.error .wait, s)
  | .foreign => (.ok (0, true), s)
  | .open_ =>
    if sa && (s.presence l.word).isNone then (.error (.trap (.at_ .saEmpty a)), s)
    else if (sinkStack? l.addr).isSome && l.space == .dev then (.ok (subWord (Config.deviceRead s.fresh) l.addr bytes, pageTaint), s)
    else let ((v, t), s) := s.nodeRead n l.word sa; (.ok (subWord v l.addr bytes, t || pageTaint), s)

/-- LOAD (R206, R216, R217): the value, zero-extended, and whether it was tainted. -/
def State.load (s : State) (n : Node) (a : DWord) (bytes : Nat) : Except Stop (DWord × Bool) × State :=
  match s.placeAt n a bytes false with
  | (.error t, s) => (.error (.trap t), s)
  | (.ok (.near l sa), s) => s.loadLoc n a l sa false bytes
  | (.ok (.dev l d t), s) => s.loadLoc n a l (d == .sa) t bytes
  | (.ok (.window w), s) => (.ok (subWord (s.hub.fw.readWord (w / 8)).1 w bytes, false), s)
  | (.ok (.reg _), s) => match s.loadReg n a bytes with
    | .ok v => (.ok (v, false), s)
    | .error t => (.error (.trap t), s)

/-- What an instruction answers: its outcome, in the state that its address left. -/
def finish (r : Except Stop State) (s : State) : Out := seqResult s r

/-- A load form: the value goes to g(d), sign-extended or not, and taint is recorded. -/
def loadForm (d a : BitVec 5) (o : BitVec 13) (bytes : Nat) (signed : Bool) (s : State) : Out :=
  match s.load s.focus (memAddr a o s) bytes with
  | (.error e, s) => finish (.error e) s
  | (.ok (v, t), s) =>
    let v := if signed then signExt (8 * bytes) v else v
    .next ((s.setTaint s.focus t).ret d v)

/-- `ldbu`. -/
def execLdbu (d a : BitVec 5) (o : BitVec 13) (s : State) : Out := loadForm d a o 1 false s
/-- `ldb`. -/
def execLdb (d a : BitVec 5) (o : BitVec 13) (s : State) : Out := loadForm d a o 1 true s
/-- `ldhu`. -/
def execLdhu (d a : BitVec 5) (o : BitVec 13) (s : State) : Out := loadForm d a o 2 false s
/-- `ldh`. -/
def execLdh (d a : BitVec 5) (o : BitVec 13) (s : State) : Out := loadForm d a o 2 true s
/-- `ldwu`. -/
def execLdwu (d a : BitVec 5) (o : BitVec 13) (s : State) : Out := loadForm d a o 4 false s
/-- `ldw`. -/
def execLdw (d a : BitVec 5) (o : BitVec 13) (s : State) : Out := loadForm d a o 4 true s
/-- `ldd`. -/
def execLdd (d a : BitVec 5) (o : BitVec 13) (s : State) : Out := loadForm d a o 8 false s

/-- A store of an aligned field to near store or device memory (R217, R351): an SA word is filled at once, anything else enters the store queue. -/
def State.storeLoc (s : State) (n : Node) (a : DWord) (l : Loc) (d : Disc) (bytes : Nat) (v : DWord) : Except Stop State :=
  let whole : DWord := BitVec.ofNat 64 (v.toNat % 2 ^ (8 * bytes) * 2 ^ (8 * (l.addr % 8)))
  let mask := byteMask (l.addr % 8) bytes
  if d == .ro then .error (.trap (.at_ .roWrite a))
  else match s.nodeAccess n l with
  | .shut | .foreign => .error (.trap (.at_ .storeDropped a))
  | .open_ =>
    if d == .sa then
      if bytes ≠ 8 then .error (.trap (.at_ .saPartial a))
      else
        let (full, s) := s.fillSa l.word mask whole false
        if full then .error (.trap (.at_ .saOverwrite a)) else .ok s
    else if l.space == .dev && (sinkStack? l.addr).isSome then
      .ok (s.modHub fun h => h.count32 (partReg (s.partOf n) 0x260) 1)
    else .ok (s.queueStore n l mask whole)

/-- A dropped store is counted in RSTAT.DROPPED as it faults (R351). -/
def State.countIfDropped (s : State) (r : Except Stop State) : State :=
  match r with
  | .error (.trap t) => if t.cause == .storeDropped then s.countDropped else s
  | _ => s

/-- STORE (R206, R216, R217). -/
def State.store (s : State) (n : Node) (a : DWord) (bytes : Nat) (v : DWord) : Except Stop State × State :=
  match s.placeAt n a bytes true with
  | (.error t, s) => (.error (.trap t), s)
  | (.ok (.near l sa), s) => let r := s.storeLoc n a l (if sa then .sa else .pl) bytes v; (r, s.countIfDropped r)
  | (.ok (.dev l d _), s) => (s.storeLoc n a l d bytes v, s)
  | (.ok (.window _), s) => (.error (.trap (.at_ .access a)), s)
  | (.ok (.reg _), s) => match s.storeReg n a bytes v with
    | .ok t => (.ok t, s)
    | .error t => (.error (.trap t), s)

/-- A store form. -/
def storeForm (d a : BitVec 5) (o : BitVec 13) (bytes : Nat) (s : State) : Out :=
  match s.store s.focus (memAddr a o s) bytes (s.g d) with
  | (.error e, s) => finish (.error e) s
  | (.ok t, _) => .next t.skip

/-- `stb`. -/
def execStb (d a : BitVec 5) (o : BitVec 13) (s : State) : Out := storeForm d a o 1 s
/-- `sth`. -/
def execSth (d a : BitVec 5) (o : BitVec 13) (s : State) : Out := storeForm d a o 2 s
/-- `stw`. -/
def execStw (d a : BitVec 5) (o : BitVec 13) (s : State) : Out := storeForm d a o 4 s
/-- `std`. -/
def execStd (d a : BitVec 5) (o : BitVec 13) (s : State) : Out := storeForm d a o 8 s

/-! Acquire and release (R142, R225). -/

/-- The writes that a load of a word would return perform for `sys`: the node's own queued ones and those at its stack's ordering point. -/
def State.settleWord (s : State) (n : Node) (l : Loc) : State :=
  let s := s.drainQueue n fun o => o.loc.word == l.word
  if l.space == .dev then s.flushOrd fun o => o.node.stack == n.stack && o.pa / 8 == l.addr / 8 else s

/-- An acquire load: what it returns is itself performed for `sys`. -/
def acquireForm (d a : BitVec 5) (o : BitVec 13) (bytes : Nat) (signed : Bool) (s : State) : Out :=
  match s.placeAt s.focus (memAddr a o s) bytes false with
  | (.ok (.near l _), s) => loadForm d a o bytes signed (s.settleWord s.focus l)
  | (.ok (.dev l _ _), s) => loadForm d a o bytes signed (s.settleWord s.focus l)
  | (_, s) => loadForm d a o bytes signed s

/-- `ldacq.wu`. -/
def execLdacqWu (d a : BitVec 5) (o : BitVec 13) (s : State) : Out := acquireForm d a o 4 false s
/-- `ldacq.w`. -/
def execLdacqW (d a : BitVec 5) (o : BitVec 13) (s : State) : Out := acquireForm d a o 4 true s
/-- `ldacq`. -/
def execLdacqD (d a : BitVec 5) (o : BitVec 13) (s : State) : Out := acquireForm d a o 8 false s

/-- A release store: every earlier access performs for `sys` before it issues. -/
def releaseForm (d a : BitVec 5) (o : BitVec 13) (bytes : Nat) (s : State) : Out := storeForm d a o bytes (s.drainFor s.focus .sys)

/-- `strel.w`. -/
def execStrelW (d a : BitVec 5) (o : BitVec 13) (s : State) : Out := releaseForm d a o 4 s
/-- `strel`. -/
def execStrelD (d a : BitVec 5) (o : BitVec 13) (s : State) : Out := releaseForm d a o 8 s

/-- The scope that a code 0 to 4 names (R137). -/
def scopeOf (c : Nat) : Scope :=
  match c with
  | 0 => .elem | 1 => .col | 2 => .stack | 3 => .pkg | _ => .sys

/-- `fence` (R141, R225): a scope of 5 to 31 is illegal. -/
def execFence (c : BitVec 5) (s : State) : Out :=
  if 5 ≤ c.toNat then seqResult s (fault .illegal) else .next (s.drainFor s.focus (scopeOf c.toNat)).skip

/-! Single assignment (R219 to R222). -/

/-- Where the word of a single-assignment form lies: none where it is not an SA word (R219). -/
def State.saPlace (s : State) (n : Node) (a : DWord) (write : Bool) : Except Trap (Option Loc) × State :=
  match s.placeAt n a 8 write with
  | (.error t, s) => (.error t, s)
  | (.ok (.near l sa), s) => (.ok (if sa then some l else none), s)
  | (.ok (.dev l d _), s) => (.ok (if d == .sa then some l else none), s)
  | (.ok _, s) => (.error (.at_ .address a), s)

/-- The region of a single-assignment form is the near store or device memory (R219). -/
def saRegion (a : DWord) : Bool := bitsNat a 63 60 == 0 || bitsNat a 63 60 == 8

/-- The state of an SA word as R219 numbers it. -/
def saCode : Option Presence → DWord
  | none => 0
  | some .full => 1
  | some .tainted => 2

/-- A single-assignment form on one word: misalignment and the region are checked first. -/
def saForm (a : DWord) (write : Bool) (s : State) (f : State → Option Loc → Res State) : Out :=
  if a.toNat % 8 ≠ 0 then seqResult s (faultAt .misaligned a)
  else if !saRegion a then seqResult s (faultAt .address a)
  else match s.saPlace s.focus a write with
    | (.error t, s) => faultOut s t
    | (.ok l, s) => seqResult s (f s l)

/-- `tstsa`. -/
def execTstsa (d a : BitVec 5) (s : State) : Out :=
  saForm (s.g a) false s fun s l =>
    match l with
    | none => .ok (s.ret d 3)
    | some l => .ok (s.ret d (saCode (s.presence l)))

/-- `stsa`: writes an empty word, and reports the previous state. -/
def execStsa (d a : BitVec 5) (s : State) : Out :=
  saForm (s.g a) true s fun s l =>
    match l with
    | none => faultAt .saDiscipline (s.g a)
    | some l =>
      match s.nodeAccess s.focus l with
      | .shut | .foreign => faultAt .storeDropped (s.g a)
      | .open_ =>
        let old := s.presence l
        let (_, t) := s.fillSa l 0xFF#8 (s.g d) false
        .ok (t.ret d (saCode old))

/-- Words that `clrsa` clears. -/
def clrsaCount (n : BitVec 11) : Nat := if n = 0 then 2048 else n.toNat

/-- The first fault of a range that `clrsa` checks, if any: every word must be an SA word (R221). -/
def State.clrsaCheck (s : State) (a : DWord) : Nat → Option Trap × State
  | 0 => (none, s)
  | n + 1 =>
    match s.saPlace s.focus a true with
    | (.error t, s) => (some t, s)
    | (.ok none, s) => (some (.at_ .saDiscipline a), s)
    | (.ok (some _), s) => s.clrsaCheck (a + 8) n

/-- `clrsa`: the whole range is checked, then its words are cleared in ascending order, one a step, so that a halt may fall between two of them (R205, R221). -/
def execClrsa (a : BitVec 5) (n : BitVec 11) (s : State) : Out :=
  let base := s.g a
  let k := ((s.cpu s.focus).clr).getD 0
  let count := clrsaCount n
  if base.toNat % 8 ≠ 0 then seqResult s (faultAt .misaligned base)
  else if !saRegion base then seqResult s (faultAt .address base)
  else
    let (bad, s) := if k = 0 then s.clrsaCheck base count else (none, s)
    match bad with
    | some t => faultOut s t
    | none =>
      match s.saPlace s.focus (base + BitVec.ofNat 64 (8 * k)) true with
      | (.error t, s) => faultOut s t
      | (.ok none, s) => seqResult s (faultAt .saDiscipline (base + BitVec.ofNat 64 (8 * k)))
      | (.ok (some l), s) =>
        let s := s.setPresence l none
        if k + 1 < count then .next (s.modCpu s.focus fun u => { u with clr := some (k + 1) })
        else .next (s.modCpu s.focus fun u => { u with clr := none }).skip

/-- `watch` (R222): a full word queues its message at once. An engine hart holds no watches. -/
def execWatch (d a : BitVec 5) (tag : BitVec 11) (s : State) : Out :=
  saForm (s.g a) false s fun s l =>
    match l, s.focus with
    | none, _ => .ok (s.ret d 3)
    | some _, .hart _ => .ok (s.ret d 2)
    | some l, .col c =>
      let x := s.col c
      let w : Watch := ⟨s.g a, l, tag, x.cpu.lclk⟩
      match s.presence l with
      | some k =>
        let ((v, _), s) := s.readLoc none true l
        .ok ((s.ret d 1).selfQueue (.col c) (watchMsg c w v (k == .tainted)))
      | none =>
        if 16 ≤ x.watches.length + x.fired.length then .ok (s.ret d 2)
        else .ok ((s.modCol c fun x => { x with watches := x.watches ++ [w] }).ret d 0)

end Sys2Proof.Machine
end

