-- ==== Sys2Proof/Machine/Atomic.lean ====
section
/-! DEFINITION. Atomics (R136, R143, R223). -/

namespace Sys2Proof.Machine

/-- The scope of an atomic (R143). -/
def atomicScope (s : BitVec 2) : Scope :=
  match s.toNat with
  | 0 => .col | 1 => .stack | 2 => .pkg | _ => .sys

/-- What an atomic leaves in memory, from the old value, the operand and, for a compare and swap, the expected value; none writes nothing. The operation is numbered as fn<3:0>: 0 add, 1 swap, 2 compare and swap, 3 and, 4 or, 5 xor, 6 max, 7 min, 8 unsigned max, 9 unsigned min. -/
def atomicResult (op bytes : Nat) (old y expected : DWord) : Option DWord :=
  match op with
  | 2 => if old = zeroExt (8 * bytes) expected then some y else none
  | 0 | 1 => some (amoResult op bytes old y)
  | _ => some (amoResult (op - 1) bytes old y)

/-- Writes bytes of the word at a location at once, at its bank or channel, or in the local memory of an engine hart. -/
def State.nodeWrite (s : State) (n : Node) (l : Loc) (mask : BitVec 8) (v : DWord) : State :=
  match n, l.space with
  | .hart h, .near => s.modHart h fun x => { x with cpu := { x.cpu with near := x.cpu.near.writeWord (l.addr / 8) mask v } }
  | _, _ => s.writeLoc l mask v

/-- The read and the write of an atomic, at one instant, at the bank or the memory channel (R136, R143): stores of the stack to the word have reached it. -/
def State.atomicAt (s : State) (n : Node) (l : Loc) (op bytes : Nat) (y expected : DWord) : (DWord × Bool) × State :=
  let s := s.settleWord n l
  let ((w, t), s) := s.nodeRead n l.word false
  let old := subWord w l.addr bytes
  match atomicResult op bytes old y expected with
  | none => ((old, t), s)
  | some v =>
    ((old, t), s.nodeWrite n l (byteMask (l.addr % 8) bytes) (BitVec.ofNat 64 (v.toNat % 2 ^ (8 * bytes) * 2 ^ (8 * (l.addr % 8)))))

/-- An atomic (R223): plain near-store and device words only; the access waits until the handler's earlier ones have performed for the scope. -/
def atomicForm (op : Nat) (d a b : BitVec 5) (w : BitVec 1) (sc : BitVec 2) (s : State) : Out :=
  let n := s.focus
  let addr := s.g a
  let bytes := if w = 1#1 then 8 else 4
  if addr.toNat % bytes ≠ 0 then seqResult s (faultAt .misaligned addr)
  else if !saRegion addr then seqResult s (faultAt .address addr)
  else match s.place n addr true with
    | (.error t, s) => faultOut s t
    | (.ok (.near l sa), s) => perform n addr bytes l (if sa then .sa else .pl) false s
    | (.ok (.dev l disc t), s) => perform n addr bytes l disc t s
    | (.ok _, s) => seqResult s (faultAt .address addr)
where
  /-- The target is open and plain: the atomic performs. -/
  perform (n : Node) (addr : DWord) (bytes : Nat) (l : Loc) (disc : Disc) (pageTaint : Bool) (s : State) : Out :=
    if disc = .sa then seqResult s (faultAt .saAtomic addr)
    else if disc = .ro then seqResult s (faultAt .roWrite addr)
    else if l.space == .dev && (sinkStack? l.addr).isSome then seqResult s (faultAt .address addr)
    else match s.nodeAccess n l with
    | .shut => seqResult s (.error .wait)
    | .foreign => seqResult s.countDropped (faultAt .storeDropped addr)
    | .open_ =>
      let s := s.drainFor n (atomicScope sc)
      let ((old, t), s) := s.atomicAt n l op bytes (s.g b) (s.g d)
      .next ((s.setTaint n (t || pageTaint)).ret d (signExt (8 * bytes) old))

/-- `aadd`. -/
def execAadd (d a b : BitVec 5) (w : BitVec 1) (sc : BitVec 2) (s : State) : Out := atomicForm 0 d a b w sc s
/-- `aswp`. -/
def execAswp (d a b : BitVec 5) (w : BitVec 1) (sc : BitVec 2) (s : State) : Out := atomicForm 1 d a b w sc s
/-- `acas`. -/
def execAcas (d a b : BitVec 5) (w : BitVec 1) (sc : BitVec 2) (s : State) : Out := atomicForm 2 d a b w sc s
/-- `aand`. -/
def execAand (d a b : BitVec 5) (w : BitVec 1) (sc : BitVec 2) (s : State) : Out := atomicForm 3 d a b w sc s
/-- `aor`. -/
def execAor (d a b : BitVec 5) (w : BitVec 1) (sc : BitVec 2) (s : State) : Out := atomicForm 4 d a b w sc s
/-- `axor`. -/
def execAxor (d a b : BitVec 5) (w : BitVec 1) (sc : BitVec 2) (s : State) : Out := atomicForm 5 d a b w sc s
/-- `amax`. -/
def execAmax (d a b : BitVec 5) (w : BitVec 1) (sc : BitVec 2) (s : State) : Out := atomicForm 6 d a b w sc s
/-- `amin`. -/
def execAmin (d a b : BitVec 5) (w : BitVec 1) (sc : BitVec 2) (s : State) : Out := atomicForm 7 d a b w sc s
/-- `amaxu`. -/
def execAmaxu (d a b : BitVec 5) (w : BitVec 1) (sc : BitVec 2) (s : State) : Out := atomicForm 8 d a b w sc s
/-- `aminu`. -/
def execAminu (d a b : BitVec 5) (w : BitVec 1) (sc : BitVec 2) (s : State) : Out := atomicForm 9 d a b w sc s

end Sys2Proof.Machine
end

