-- ==== Sys2Proof/Machine/Branch.lean ====
section
/-! DEFINITION. Branches and jumps (R214, R215). -/

namespace Sys2Proof.Machine

/-- `beq`. -/
def execBeq (a b : BitVec 5) (o : BitVec 16) (s : State) : Out := branchTo a b o (fun x y => x == y) s
/-- `bne`. -/
def execBne (a b : BitVec 5) (o : BitVec 16) (s : State) : Out := branchTo a b o (fun x y => x != y) s
/-- `blt`. -/
def execBlt (a b : BitVec 5) (o : BitVec 16) (s : State) : Out := branchTo a b o (fun x y => x.slt y) s
/-- `bge`. -/
def execBge (a b : BitVec 5) (o : BitVec 16) (s : State) : Out := branchTo a b o (fun x y => !x.slt y) s
/-- `bltu`. -/
def execBltu (a b : BitVec 5) (o : BitVec 16) (s : State) : Out := branchTo a b o (fun x y => x.ult y) s
/-- `bgeu`. -/
def execBgeu (a b : BitVec 5) (o : BitVec 16) (s : State) : Out := branchTo a b o (fun x y => !x.ult y) s
/-- `jmp`. -/
def execJmp (o : BitVec 26) (s : State) : Out := .next (s.setPc s.focus (relTarget (s.pc s.focus) o))
/-- `call`: g31 links. -/
def execCall (o : BitVec 26) (s : State) : Out :=
  let pc := s.pc s.focus
  .next ((s.setReg s.focus 31 (pc + 4)).setPc s.focus (relTarget pc o))
/-- A jump to a register's value, which must be word-aligned (R215). -/
def jumpTo (link : Bool) (t : DWord) (s : State) : Res State :=
  if bitsNat t 1 0 ≠ 0 then (.error (.trap ⟨.misaligned, none, t⟩))
  else
    let s' := if link then s.setReg s.focus 31 (s.pc s.focus + 4) else s
    .ok (s'.setPc s.focus t)
/-- `jmpr`. -/
def execJmpr (a : BitVec 5) (s : State) : Out := seqResult s (jumpTo false (s.g a) s)
/-- `callr`: the target is read before the link is written. -/
def execCallr (a : BitVec 5) (s : State) : Out := seqResult s (jumpTo true (s.g a) s)

end Sys2Proof.Machine
end

