-- ==== Sys2Proof/Machine/Fpu.lean ====
section
/-! DEFINITION. Scalar f32 forms (R211). -/

namespace Sys2Proof.Machine

/-- `fadd`. -/
def execFadd (d a b : BitVec 5) (s : State) : Out := fpuR d a b (fun x y => x.add y) s
/-- `fsub`. -/
def execFsub (d a b : BitVec 5) (s : State) : Out := fpuR d a b (fun x y => x.add y.neg) s
/-- `fmul`. -/
def execFmul (d a b : BitVec 5) (s : State) : Out := fpuR d a b (fun x y => x.mul y) s
/-- `ffma`: d + a·b with one rounding. -/
def execFfma (d a b : BitVec 5) (s : State) : Out := fpuR d a b (fun x y => (s.gf d).add (x.mul y)) s
/-- `fdiv`. -/
def execFdiv (d a b : BitVec 5) (s : State) : Out := fpuR d a b (fun x y => x.div y) s
/-- `fmin`. -/
def execFmin (d a b : BitVec 5) (s : State) : Out := fpuR d a b (fun x y => x.minv y) s
/-- `fmax`. -/
def execFmax (d a b : BitVec 5) (s : State) : Out := fpuR d a b (fun x y => x.maxv y) s
/-- `fabs`: a copy with bit 31 clear; the high half of the result is zero. -/
def execFabs (d a : BitVec 5) (s : State) : Out := .next (s.ret d (s.g a &&& 0x7FFFFFFF#64))
/-- `fneg`: a copy with bit 31 changed; the high half of the result is zero. -/
def execFneg (d a : BitVec 5) (s : State) : Out := .next (s.ret d ((s.g a ^^^ 0x80000000#64) &&& 0xFFFFFFFF#64))
/-- `feq`. -/
def execFeq (d a b : BitVec 5) (s : State) : Out := fpuC d a b Fv.eq s
/-- `flt`. -/
def execFlt (d a b : BitVec 5) (s : State) : Out := fpuC d a b Fv.lt s
/-- `fle`. -/
def execFle (d a b : BitVec 5) (s : State) : Out := fpuC d a b (fun x y => x.lt y || x.eq y) s
/-- `ftoi`: truncated, saturating, NaN to 0 (R95). -/
def execFtoi (d a : BitVec 5) (s : State) : Out :=
  .next (s.ret d (BitVec.ofNat 64 (if (s.gf a).isNan then 0 else (cvtInt 64 true true .rtz (s.gf a)).1)))
/-- `itof`: all 64 bits as a signed integer. -/
def execItof (d a : BitVec 5) (s : State) : Out := .next (s.ret d (f32Word (Fv.ofInt (s.g a).toInt)))

end Sys2Proof.Machine
end

