-- ==== Sys2Proof/Machine/Graphs.lean ====
section
/-! DEFINITION. Command graphs (R129, R130, R260), the end of a transfer (R127), request packets (R128), and the transfer and graph forms of opcodes 0x34 and 0x35 (R257, R260). -/

namespace Sys2Proof.Machine

/-! Command graphs. -/

/-- The engine hart of a stack's graph walker. -/
def gwHart (k : StackId) : HartId := fin 42 (36 + k.val)

/-- The running graph of a column. -/
def State.graph? (s : State) (c : ColId) : Option Graph := (s.stack (stackOf c)).graphs.find? fun g => g.col == c && g.ended.isNone

/-- A node of a column's graph replaced through `f`. -/
def State.modNode (s : State) (c : ColId) (i : Nat) (f : CgNode → CgNode) : State :=
  s.modGraph c fun g => { g with nodes := modNth f i g.nodes }

/-- The running graph of a column ends: status 1 graph error, 2 a copy or arm failed, the offending node, and `cyc` (R130, R260). -/
def State.endGraph (s : State) (c : ColId) (status node : Nat) : State :=
  s.modGraph c fun g => { g with ended := some (status, node, s.cyc (stackOf c)), deferred := none }

/-- Reads `n` words of device memory for the graph walker of a column, as an engine of its stack does (R117, R138, R378). -/
def State.gwWords (s : State) (c : ColId) (va : Nat) : Nat → Except EStop (List DWord) × State
  | 0 => (.ok [], s)
  | n + 1 =>
    let k := stackOf c
    let p := s.partOf (.col c)
    match s.engineVa k (.column c) (s.col c).ptb p va false with
    | (.error (.page va bad), s) => (.error .fault, s.enginePage (gwHart k) p (s.col c).ptb va bad 3)
    | (.error e, s) => (.error e, s)
    | (.ok (pa, d, _), s) =>
      let l : Loc := ⟨.dev, 0, pa⟩
      if d == .sa && (s.presence l).isNone then (.error (.defer l), s)
      else
        let ((v, _), s) := s.readLoc (some k) (d == .sa) l
        match s.gwWords c (va + 8) n with
        | (.error e, s) => (.error e, s)
        | (.ok ws, s) => (.ok (v :: ws), s)

/-- Words that the walker reads for a node: from the near store of the graph's column, or from device memory of its task. -/
def State.walkerRead (s : State) (c : ColId) (a : DWord) (n : Nat) : Except EStop (List DWord) × State :=
  if a.toNat % 8 ≠ 0 then (.error .fault, s)
  else match bitsNat a 63 60 with
    | 0 =>
      if (s.nearCause (.col c) a.toNat).isSome || (s.nearCause (.col c) (a.toNat + 8 * n - 1)).isSome then (.error .fault, s)
      else let (ws, _, s) := s.nearWords (.col c) a.toNat n; (.ok ws, s)
    | 8 => if bitsNat a 59 48 ≠ 0 then (.error .fault, s) else s.gwWords c (bitsNat a 47 0) n
    | _ => (.error .fault, s)

/-- What a walker's read does to its graph where it does not answer: it waits, holding an entry of R117 at an empty SA word where one is free, or the node fails. -/
def State.walkerStop (s : State) (c : ColId) (failed : State → State) : EStop → State
  | .defer l => s.modGraph c fun g => { g with deferred := if g.deferred = some l || s.deferCount l < 16 then some l else none }
  | .wait => s
  | _ => failed s

/-- The lowest-numbered transfer engine of a stack that queues fewer than 16 blocks (R125, R257). -/
def State.teRoom (s : State) (k : StackId) : Option TeId :=
  (([0, 1, 2, 3, 4, 5, 6, 7] : List TeId)).find? fun t => decide ((((s.stack k).te.get t).q.length) < 16)

/-- Launches node `i` of a column's graph if its count is 0 (R130). A copy waits while every engine is full, a message while its receiver has no entry. -/
def State.launchNode (s : State) (c : ColId) (i : Nat) : State :=
  let k := stackOf c
  match s.graph? c with
  | none => s
  | some g =>
    match g.nodes[i]? with
    | none => s
    | some n =>
      if g.base.isSome || n.launched || n.count ≠ 0 then s
      else
        let launched (s : State) : State := (s.modNode c i fun n => { n with launched := true }).modGraph c fun g => { g with deferred := none }
        let failed (s : State) : State := s.modNode c i fun n => { n with launched := true, bad := true }
        match n.kind with
        | 0 =>
          match s.walkerRead c n.arg 8, s.teRoom k with
          | (.error e, s), _ => s.walkerStop c failed e
          | (.ok _, _), none => s
          | (.ok ws, s), some t =>
            let (j, s) := s.startJob c
            let x : Xfer :=
              { b := ws, from_ := none, task := g.task, node := some (c, g.id, i), job := j, stamp := (s.cpu (.hart (gwHart k))).lclk, reply := none }
            launched (s.modTe k t fun e => { e with q := e.q ++ [x] })
        | 1 =>
          match s.slotOf g.task (bitsNat n.arg 15 0) with
          | none => failed s
          | some col =>
            launched (s.modCtx ⟨col, fin 31 (bitsNat n.arg 20 16), fin 3 (bitsNat n.arg 22 21)⟩ fun x => { x with sect := field n.arg 32 32, dirty := true })
        | 2 =>
          match s.walkerRead c n.arg 4 with
          | (.error e, s) => s.walkerStop c failed e
          | (.ok ws, s) =>
            let w := wordAt ws 0
            match s.slotOf g.task (bitsNat w 15 0) with
            | none => failed s
            | some col =>
              match s.engineMsg (gwHart k) g.task col (field w 16 5) (wordAt ws 1) (wordAt ws 2) (wordAt ws 3) none with
              | some s => launched s
              | none => s
        | _ => s.endGraph c 1 i

/-- Decrements the count of node `i`; one that reaches 0 is launched, one below zero ends the graph (R130). -/
def State.decNode (s : State) (c : ColId) (i : Nat) : State :=
  match s.graph? c with
  | none => s
  | some g =>
    match g.nodes[i]? with
    | none => s.endGraph c 1 (i % 4096)
    | some n =>
      if g.base.isSome then s.modGraph c fun g => { g with early := g.early ++ [i] }
      else if n.count = 0 then s.endGraph c 1 i
      else (s.modNode c i fun n => { n with count := n.count - 1 }).launchNode c i

/-- Node `i` finishes: its successors are decremented, and the graph ends with its last node (R130, R260). -/
def State.finishNode (s : State) (c : ColId) (i : Nat) (n : CgNode) : State :=
  let s := s.modNode c i fun n => { n with finished := true }
  let s := if n.succ.any fun k => decide (4094 < k) then s.endGraph c 1 i else n.succ.foldl (fun s k => s.decNode c k) s
  match s.graph? c with
  | none => s
  | some g => if g.nodes.all (·.finished) then s.endGraph c 0 0xFFF else s

/-- The block of a copy node of graph `j` is still held by an engine. -/
def State.copying (s : State) (c : ColId) (j i : Nat) : Bool :=
  (s.stack (stackOf c)).te.toList.any fun e =>
    (e.q.any fun x => x.node == some (c, j, i)) || (match e.cur with | some m => m.x.node == some (c, j, i) | none => false)

/-- The message of a graph that has ended, and its removal (R260). -/
def State.reportGraph (s : State) (g : Graph) (status node : Nat) (cyc : DWord) : State :=
  let k := stackOf g.col
  let gone (s : State) : State := s.modStack k fun x => { x with graphs := x.graphs.filter fun y => y.id != g.id }
  if g.cls = 31 then gone s
  else match s.engineMsg (gwHart k) g.task g.col (BitVec.ofNat 5 g.cls) (BitVec.ofNat 64 (status + node * 2 ^ 16))
      (BitVec.ofNat 64 (g.nodes.filter (·.finished)).length) cyc none with
    | some s => gone s
    | none => s

/-- The oldest graph of a column that has ended and not yet reported. -/
def State.overGraph? (s : State) (c : ColId) : Option (Graph × Nat × Nat × DWord) :=
  (s.stack (stackOf c)).graphs.findSome? fun g => if g.col = c then g.ended.map fun e => (g, e) else none

/-- A node from its four words (R129); a broken one gets the reserved KIND. -/
def nodeOf (ws : List DWord) : CgNode :=
  let h := wordAt ws 0
  let n := bitsNat h 23 16
  let half (i : Nat) : Nat := bitsNat (wordAt ws (2 + i / 4)) (16 * (i % 4) + 15) (16 * (i % 4))
  let ok := bitsNat h 63 24 == 0 && bitsNat h 7 2 == 0 && decide (n ≤ 8) && (upTo 8).all fun i => decide (half i < 4096)
  { kind := if ok then bitsNat h 1 0 else 3, succ := (upTo n).map half, arg := wordAt ws 1, count := bitsNat h 15 8, launched := false,
    finished := false, bad := false }

/-- The words of a node array at a sequencer's device address, as the walker reads them (R130). -/
def State.devWords (s : State) (c : ColId) (a : DWord) (n : Nat) : Except EStop (List DWord) × State := s.gwWords c (bitsNat a 47 0) n

/-- The walker reads the node array of a graph that it has not yet read, and launches what is ready; where a page cannot be read the graph ends with status 2 (R130, R378). -/
def State.loadGraph (s : State) (c : ColId) : State :=
  match s.graph? c with
  | none => s
  | some g =>
    match g.base with
    | none => s
    | some a =>
      match s.devWords c a (4 * g.nodes.length) with
      | (.error e, s) => s.walkerStop c (fun s => s.endGraph c 2 0xFFF) e
      | (.ok ws, s) =>
        let n := g.nodes.length
        let s := s.modGraph c fun g => { g with base := none, deferred := none, early := [], nodes := (upTo n).map fun i => nodeOf (ws.drop (4 * i)) }
        g.early.foldl (fun s i => s.decNode c i) ((upTo n).foldl (fun s i => s.launchNode c i) s)

/-- The next thing that node `i` of a running graph does (R130). -/
def State.nodeNext (s : State) (c : ColId) (i : Nat) (g : Graph) (n : CgNode) : State :=
  let runs := match s.task? g.task with | some t => t.st == .running | none => false
  if !runs || n.finished then s
  else if !n.launched then s.launchNode c i
  else if n.bad then (if s.copying c g.id i then s else s.endGraph c 2 i)
  else match n.kind with
    | 0 => if s.copying c g.id i then s else s.finishNode c i n
    | 1 =>
      let left : Word := match s.slotOf g.task (bitsNat n.arg 15 0) with
        | some col => (s.ctx ⟨col, fin 31 (bitsNat n.arg 20 16), fin 3 (bitsNat n.arg 22 21)⟩).sect
        | none => 0
      if left = 0 then s.finishNode c i n else s
    | _ => s.finishNode c i n

/-- `CG_NODE_FINISH` (R130): a graph of the column that has ended reports, and node `i` of the running one finishes if it can. -/
def execCgNodeFinish (c : ColId) (i : Nat) (s : State) : Out :=
  let s := match s.overGraph? c with
    | some (g, status, node, cyc) => s.reportGraph g status node cyc
    | none => s
  match s.graph? c with
  | none => .next s
  | some g =>
    if g.base.isSome then .next (s.loadGraph c)
    else match g.nodes[i]? with
      | none => .next s
      | some n => .next (s.nodeNext c i g n)

/-! The end of a transfer (R127). -/

/-- `TRANSFER_COMPLETE`: a clipped transfer's class-14 message, the decrement of CNODE, then the completion message; every store that its reads returned has performed for `sys` by then (R138, R139). A transfer that ends in a fault has not completed every access, and decrements no node (assumption log 83). -/
def execTransferComplete (k : StackId) (t : TeId) (s : State) : Out :=
  match ((s.stack k).te.get t).cur with
  | none => .next s
  | some m =>
    let x := m.x
    if x.reply.isSome || !(m.fault || (decide (m.total ≤ m.next) && m.part.isEmpty)) || m.paused.isSome then .next s
    else
      let s := s.settleReads (.hart (teHart k t))
      let clip : Option State :=
        if m.clipped = 0 || m.clipSent then some s
        else (s.engineMsg (teHart k t) x.task x.col 14 m.clipG1 (BitVec.setWidth 64 x.xid) (BitVec.ofNat 64 m.clipped) none).map fun s =>
          s.modMoving k t fun m => { m with clipSent := true }
      match clip with
      | none => .next s
      | some s1 =>
        let s2 := if x.cnode ≠ 0xFFF && !m.fault then s1.decNode x.col x.cnode else s1
        let s2 := if m.fault then s2.failNode x else s2
        match s2.xferReport k t x (if m.fault then 2 else if m.taint then 3 else 0) (m.written / 8) m.clipped with
        | none => .next s1
        | some s3 => .next ((s3.modTe k t fun e => { e with cur := none }).endJobTaint x.col x.job m.taint)

/-! Request packets (R128). -/

/-- The packet that a token carries, for a sender in a band of `b` slots; none where it is malformed. -/
def packetOf (col : ColId) (task : BitVec 16) (target : Nat → Option ColId) (p : Vec) : Option Xfer :=
  let lane (i : Nat) : Nat := laneOf p.toNat 32 i
  let l1 := BitVec.ofNat 32 (lane 1)
  let l2 := BitVec.ofNat 32 (lane 2)
  let l3 := BitVec.ofNat 32 (lane 3)
  let n := bitsNat l2 15 0
  let fmt := bitsNat l2 19 16
  if bitsNat l1 31 16 ≠ 0 || bitsNat l2 31 20 ≠ 0 || bitsNat l3 31 22 ≠ 0 || n = 0 || 256 < n || 12 < fmt then none
  else match target (bitsNat l3 7 0) with
    | none => none
    | some dst => some
      { b := [BitVec.ofNat 64 (lane 0 + bitsNat l1 15 0 * 2 ^ 32), BitVec.ofNat 64 n, BitVec.ofNat 64 fmt, BitVec.ofNat 64 (lane 0)],
        from_ := some col, task := task, node := none, job := 0, stamp := 0,
        reply := some (⟨⟨dst, fin 31 (bitsNat l3 12 8), fin 3 (bitsNat l3 21 20)⟩, fin 3 (bitsNat l3 14 13)⟩, field l3 15 5) }

/-- Sends a token of a packet's reply to its port, where there is room. -/
def State.packetSend (s : State) (p : PortRef) (vch : BitVec 5) (t : Token) : State :=
  { s.modFree (.port p) (· - 1) with flights := s.flights ++ [⟨{ t with vch := vch, vchSet := true }, .port p, .port p, s.now + 1⟩] }

/-- The next element of a packet is read; a full token, or the last, leaves. -/
def State.movePacket (s : State) (k : StackId) (t : TeId) : State :=
  match ((s.stack k).te.get t).cur with
  | none => s
  | some m =>
    let x := m.x
    match x.reply with
    | none => s
    | some (p, vch) =>
      let fmt := (x.w 2).toNat
      if m.fault || m.paused.isSome || m.total ≤ m.next || !s.xferRuns x || s.freeOf (.port p) = 0 || s.entryFull m.deferred m.stalled then s
      else
        let d : Side := ⟨2, 0, (x.w 0).toNat, 0, 0, 0, fmt⟩
        let (b, n, sh) := d.elem m.next 0 0 0
        match s.sideBytes k t x 3 d b n m.lastR with
        | (.error e, s) => s.teStop k t x e
        | (.ok (bs, tn, last), s) =>
          let lanes := m.lanes ++ [(laneCode fmt (leNat bs / 2 ^ sh % 2 ^ memW fmt), tn)]
          let m' := { m with next := m.next + 1, lanes := lanes, deferred := none, stalled := false, lastR := last }
          if lanes.length < lanesOf fmt && m'.next < m.total then s.modMoving k t fun _ => m'
          else
            let tok := dataToken (BitVec.ofNat 256 (packLanes (laneW fmt) (lanes.map (·.1)))) (BitVec.ofNat 5 (lanes.length - 1)) (lanes.any (·.2))
            (s.packetSend p vch { tok with ord := m.ord, bfirst := true, scale := 127 }).modMoving k t fun _ => { m' with lanes := [], ord := m.ord + 1 }

/-- `REQUEST_PACKET`: an idle engine takes its oldest packet, dropping and counting a malformed one; a packet that is read through ends with its EOS marker. -/
def execRequestPacket (k : StackId) (t : TeId) (s : State) : Out :=
  let e := (s.stack k).te.get t
  match e.cur with
  | some m =>
    match m.x.reply with
    | none => .next s
    | some (p, vch) =>
      let free (s : State) : State := s.modTe k t fun e => { e with cur := none }
      if m.fault then .next ((free s).modTe k t fun e => { e with badPackets := satInc e.badPackets 1 })
      else if m.next < m.total || s.freeOf (.port p) = 0 then .next s
      else .next (free (s.packetSend p vch { markerToken 2 (BitVec.setWidth 256 (m.x.w 3)) with ord := m.ord }))
  | none =>
    match e.packets with
    | [] => .next s
    | q :: rest =>
      if s.now < q.arr then .next s
      else
        let s := ((s.modTe k t fun e => { e with packets := rest }).credit q.cred s.now).endTokSonde q.tok 0
        if q.tok.marker then .next s
        else
          let col : ColId := match q.cred with | .exit c _ => c | _ => 0
          let task : BitVec 16 := match (s.col col).band with | some b => b.task | none => 0
          match packetOf col task (s.slotOf task) q.tok.payload with
          | none => .next (s.modTe k t fun e => { e with badPackets := satInc e.badPackets 1 })
          | some x => .next (s.modTe k t fun e => { e with cur := some { x.moving with total := (x.w 1).toNat } })

/-! `xfer` and `xqry` (R257). -/

/-- `xfer`: every earlier access of the handler performs before the transfer's (R139). -/
def execXfer (d a : BitVec 5) (n : BitVec 1) (e : BitVec 3) (s : State) : Out :=
  onColumn s fun c => do
    let v := s.g a
    let (ws, _, s) ← s.readStruct (.col c) v 8 8
    let k := stackOf c
    let t? : Option TeId := if n = 1#1 then s.teRoom k
      else if (((s.stack k).te.get (fin 7 e.toNat)).q.length) < 16 then some (fin 7 e.toNat) else none
    match t? with
    | none => .ok (s.ret d (BitVec.ofNat 64 (1 + e.toNat * 2 ^ 8)))
    | some t =>
      let s := s.drainFor (.col c) .sys
      let (j, s) := s.startJob c
      let task : BitVec 16 := match (s.col c).band with | some b => b.task | none => 0
      let x : Xfer := { b := ws, from_ := some c, task := task, node := none, job := j, stamp := (s.col c).cpu.lclk, reply := none }
      .ok ((s.modTe k t fun e => { e with q := e.q ++ [x] }).ret d (BitVec.ofNat 64 (t.val * 2 ^ 8)))

/-- Bytes that a transfer has left to write. -/
def bytesLeft (x : Xfer) (n : Nat) : Nat := n * memW x.dst.fmt / 8

/-- `xqry`. -/
def execXqry (d a : BitVec 5) (e : BitVec 3) (s : State) : Out :=
  onColumn s fun c => do
    let v := s.g a
    res0 v 63 16
    let t := (s.stack (stackOf c)).te.get (fin 7 e.toNat)
    let mine (x : Xfer) : Bool := x.from_ == some c && x.xid == field v 0 16 && x.reply.isNone
    match t.q.reverse.find? mine, t.cur with
    | some x, _ => .ok (s.ret d (BitVec.ofNat 64 (1 + bytesLeft x x.total % 2 ^ 32 * 2 ^ 16)))
    | none, some m =>
      .ok (s.ret d (if mine m.x then BitVec.ofNat 64 (2 + bytesLeft m.x (m.total - m.next) % 2 ^ 32 * 2 ^ 16) else 0))
    | none, none => .ok (s.ret d 0)

/-! `cgrun` and `cgdec` (R260). -/

/-- A graph of `n` nodes begins at a column (R130); the walker of a partition without a weight for it refuses it (R348). -/
def State.addGraph (s : State) (c : ColId) (cls n : Nat) (a : DWord) : State :=
  let k := stackOf c
  let task : BitVec 16 := match (s.col c).band with | some b => b.task | none => 0
  let refused := s.hub.engWeight (s.partOf (.col c)) 2 == 0
  let g : Graph := { col := c, cls := cls, nodes := List.replicate n (nodeOf []), task := task, ended := if refused then some (1, 0xFFF, s.cyc k) else none,
                     stamp := (s.col c).cpu.lclk, id := s.hub.graphNo, deferred := none, base := some a, early := [] }
  ((s.modHub fun h => { h with graphNo := h.graphNo + 1 }).modStack k fun x => { x with graphs := x.graphs ++ [g] }).engineStart (gwHart k) (s.col c).cpu.lclk

/-- `cgrun`. The walker reads the array at once, or, where a page of it is on its way, when it has come (R378, assumption log 82). -/
def execCgrun (d a cls : BitVec 5) (s : State) : Out :=
  match s.focus with
  | .hart _ => .next (s.seqFault s.focus (.plain .illegal))
  | .col c =>
    let v := s.g a
    let n := bitsNat (s.g d) 11 0
    if v.toNat % 32 ≠ 0 then faultOut s (.at_ .misaligned v)
    else if bitsNat v 63 60 ≠ 8 || bitsNat v 59 48 ≠ 0 then faultOut s (.at_ .address v)
    else if n = 0 || bitsNat (s.g d) 63 12 ≠ 0 then faultOut s (.plain .operand)
    else if (s.graph? c).isSome then .next (s.ret d 1)
    else .next ((((s.drainFor (.col c) .sys).addGraph c cls.toNat n v).loadGraph c).ret d 0)

/-- `cgdec`. -/
def execCgdec (d a : BitVec 5) (s : State) : Out :=
  onColumn s fun c => do
    let v := s.g a
    res0 v 63 12
    match s.graph? c with
    | none => .ok (s.ret d 1)
    | some g => if g.nodes.length ≤ v.toNat then .ok (s.ret d 2) else .ok ((s.decNode c v.toNat).ret d 0)

end Sys2Proof.Machine
end

