-- ==== Sys2Proof/Machine/Pcie.lean ====
section
/-! DEFINITION. What comes in through the PCIe port: a host's accesses through its two BARs, and the DMA of downstream devices (R349). -/

namespace Sys2Proof.Machine

open Sys2Proof

/-! Device physical memory. -/

/-- Writes consecutive bytes at physical addresses; an unmapped one is dropped. -/
def Hub.putMapped (h : Hub) : Nat → List Byte → Hub
  | _, [] => h
  | a, b :: bs => (if (h.channel? a).isSome then h.putSub a 1 (BitVec.setWidth 64 b) else h).putMapped (a + 1) bs

/-- An access to device physical memory: writes perform in the order in which they come. Until the part is open a read completes with zeros (R428). -/
def State.pcieMemory (s : State) (pa : Nat) (a : PcieAccess) : State :=
  if s.hub.bstep ≠ 9 then (if a.read = 0 then s else s.signal (.pcie (List.replicate a.read 0)))
  else
    let s := s.modHub fun h => h.putMapped pa a.data
    if a.read = 0 then s
    else
      let byte (i : Nat) : Byte := if (s.hub.channel? (pa + i)).isSome && !s.hub.dev.isBad ((pa + i) / 64) then s.hub.dev.byte (pa + i) else 0
      s.signal (.pcie ((upTo a.read).map byte))

/-! BAR 0. -/

/-- The 8-byte word of BAR 0 at an offset: the identity page, and, once the part is open, the free entries of HOSTPART's launch queues, the mailboxes and the MSI-X table. -/
def Hub.bar0Word (h : Hub) (o : Nat) : DWord :=
  if o < 0x100 then h.identityWord (o / 8)
  else if h.bstep ≠ 9 then 0
  else if 0x1000 ≤ o ∧ o < 0x1080 then BitVec.ofNat 64 (queueDepth - (h.queues.get (fin 15 ((o - 0x1000) / 8))).length)
  else if 0x2000 ≤ o ∧ o < 0x2080 then h.mailIn.get (fin 15 ((o - 0x2000) / 8))
  else if 0x2080 ≤ o ∧ o < 0x2100 then h.mailOut.get (fin 15 ((o - 0x2080) / 8))
  else if 0x3000 ≤ o ∧ o < 0x3400 then h.msix.get (fin 127 ((o - 0x3000) / 8))
  else 0

/-- A host write of bytes of an 8-byte word of BAR 0: a launch port of HOSTPART takes 8 bytes only (R356), an inbound mailbox sends its MSI, and the identity page and the outbound mailboxes take nothing. -/
def State.putBar0 (s : State) (o : Nat) (mask : BitVec 8) (v : DWord) : State :=
  let whole := mergeWord (s.hub.bar0Word o) v mask
  if s.hub.bstep ≠ 9 then s
  else if 0x1000 ≤ o ∧ o < 0x1080 then (if mask = 0xFF#8 then s.launchPort s.hub.hostpart (fin 15 ((o - 0x1000) / 8)) v else s)
  else if 0x2000 ≤ o ∧ o < 0x2080 then
    let n : Fin 16 := fin 15 ((o - 0x2000) / 8)
    (s.modHub fun h => { h with mailIn := vset h.mailIn n whole }).signal (.mailbox n.val)
  else if 0x3000 ≤ o ∧ o < 0x3400 then s.modHub fun h => { h with msix := vset h.msix (fin 127 ((o - 0x3000) / 8)) whole }
  else s

/-- The part of some bytes, from an address on, that lies in an 8-byte word: which bytes, and the word. -/
def wordPart (addr : Nat) (bs : List Byte) (w : Nat) : BitVec 8 × DWord :=
  let byte (i : Nat) : Option Byte := if addr ≤ 8 * w + i then bs[8 * w + i - addr]? else none
  ((upTo 8).foldl (fun m i => putBit m i (byte i).isSome) 0#8,
   BitVec.ofNat 64 (leNat ((upTo 8).map fun i => (byte i).getD 0)))

/-- A host access through BAR 0: its writes word by word, in order, and its read. -/
def State.pcieBar0 (s : State) (a : PcieAccess) : State :=
  let n := if a.data.isEmpty then 0 else (a.addr + a.data.length - 1) / 8 - a.addr / 8 + 1
  let s := (countFrom (a.addr / 8) n).foldl (fun (s : State) w => let q := wordPart a.addr a.data w; s.putBar0 (8 * w) q.1 q.2) s
  if a.read = 0 then s
  else
    let byte (i : Nat) : Byte := field (s.hub.bar0Word ((a.addr + i) / 8 * 8)) (8 * ((a.addr + i) % 8)) 8
    s.signal (.pcie ((upTo a.read).map byte))

/-- `PCIE_INBOUND_ACCESS` (R349): a host access through BAR 0 or a window of BAR 2, where the port has an endpoint; or the DMA of a downstream device, where it has a root complex. -/
def execPcieInboundAccess (a : PcieAccess) (s : State) : Out :=
  let h := s.hub
  let endpoint := h.pcieUp && (h.pciemode = 1#2 || h.pciemode = 2#2)
  let root := h.pcieUp && (h.pciemode = 0#2 || h.pciemode = 2#2)
  match a.window with
  | .bar0 => .next (if endpoint && decide (a.addr < 2 ^ 16) then s.pcieBar0 a else s)
  | .bar2 => .next (if endpoint && decide (a.addr < 2 ^ 34) then s.pcieMemory ((h.bar2.get (fin 15 (a.addr / 2 ^ 30))).toNat % 2 ^ 46 + a.addr % 2 ^ 30) a else s)
  | .dma => .next (if root then s.pcieMemory a.addr a else s)

end Sys2Proof.Machine
end

