-- ==== Sys2Proof/Machine/Performs.lean ====
section
/-! DEFINITION. `ACCESS_PERFORMS`: one outstanding access performs at its location (R136, R138, R204). Accesses to different words perform in any order; those of one issuer to one word perform in the order of issue (R139). -/

namespace Sys2Proof.Machine

/-- The i-th queued store of a node performs once it is due, unless an earlier one goes to the same word (R139, R204). -/
def State.storePerforms (s : State) (n : Node) (i : Nat) : State :=
  let q := (s.cpu n).storeQ
  match q[i]? with
  | none => s
  | some o =>
    if s.now < o.due || (q.take i).any fun x => x.loc.word == o.loc.word then s
    else (s.performStore n o).modCpu n fun u => { u with storeQ := dropNth i u.storeQ }

/-- The i-th store at a stack's ordering point reaches its channel, unless an earlier one goes to the same word. -/
def State.orderedPerforms (s : State) (k : StackId) (i : Nat) : State :=
  let q := (s.stack k).ord
  match q[i]? with
  | none => s
  | some o =>
    if (q.take i).any fun x => x.pa / 8 == o.pa / 8 then s
    else (s.modHub fun h => h.writeChannel (o.pa / 8) o.mask o.data).modStack k fun x => { x with ord := dropNth i x.ord }

/-- A piece of a stream's request performs; one whose page was away takes its location first. What has then performed is turned into tokens, and a stream with nothing left ends (R120, R124). -/
def State.piecePerforms (s : State) (r : CtxRef) (k p : Nat) : State := ((s.heldPerforms r k p).formReplies r).endStream r

/-- `ACCESS_PERFORMS`. -/
def execAccessPerforms (a : AccessRef) (s : State) : Out :=
  match a with
  | .store n i => .next (s.storePerforms n i)
  | .ordered k i => .next (s.orderedPerforms k i)
  | .stream c e x r p => .next (s.piecePerforms ⟨c, e, x⟩ r p)
  | .transfer k t =>
    match ((s.stack k).te.get t).cur with
    | none => .next s
    | some m => .next (if m.x.reply.isSome then s.movePacket k t else s.moveElems k t)
  | .refill k => .next (s.moveGranule k)
  | .frost c g =>
    match (s.col c).fab.load with
    | none => .next s
    | some l =>
      let inside := g = 0 || (l.got.any (fun q => q.1 == 0) && 128 * g < imageLen (BitVec.ofNat 64 (leNat ((l.bytes 1).take 8))))
      .next (if !inside || l.got.any (fun q => q.1 == g) then s else s.frostRead c g)
  | .bulk h i => .next (s.moveBulk h i)

end Sys2Proof.Machine
end

