-- ==== Sys2Proof/Machine/System.lean ====
section
/-! DEFINITION. The system forms (R207). -/

namespace Sys2Proof.Machine

/-- `ill`: whatever its other bits hold. -/
def execIll (_d _a : BitVec 5) (_i : BitVec 11) (s : State) : Out := seqResult s (fault .illegal)

/-- `nop`. -/
def execNop (s : State) : Out := .next s.skip

/-- `brk`: BRKCNT rises; with DBG and BRKEN a class-18 message is queued and the sequencer enters the debug state. An engine hart has no breakpoint counter. -/
def execBrk (i : BitVec 11) (s : State) : Out :=
  match s.focus with
  | .hart _ => .next s.skip
  | .col c =>
    let dbg := match (s.col c).band with | some b => b.dbg | none => false
    let pc := s.pc s.focus
    let s := s.modCol c fun x => { x with dbg := { x.dbg with brkcnt := satInc x.dbg.brkcnt 1 } }
    if dbg && (s.col c).dbg.brken then
      let s := s.skip.selfQueue (.col c) (selfMsg (.col c) 18 1 (BitVec.setWidth 64 i) pc none)
      .next (s.modCol c fun x => { x with dbg := { x.dbg with dhalt := true } })
    else .next s.skip

/-- `trap`: supervisor mode with `epc` after the instruction (R207); illegal in supervisor mode. -/
def execTrap (i : BitVec 11) (s : State) : Out :=
  let n := s.focus
  if (s.cpu n).sup then seqResult s (fault .illegal)
  else .next (s.modCpu n fun u =>
    { u with epc := u.pc + 4, ecause := BitVec.ofNat 64 (Cause.trap.code + i.toNat * 2 ^ 8), psup := false, sup := true,
             supIdle := false, pc := u.evec })

/-- `eret`: privileged (R181). -/
def execEret (s : State) : Out :=
  if (s.cpu s.focus).sup then .next (s.leaveSup s.focus) else seqResult s (fault .privileged)

/-- `halt`: privileged; execution continues after it once HALT is cleared. -/
def execHalt (s : State) : Out :=
  if (s.cpu s.focus).sup then .next (s.skip.modCpu s.focus fun u => { u with halt := true }) else seqResult s (fault .privileged)

/-- `trace`: the record is charged to class 5. -/
def execTrace (d a : BitVec 5) (i : BitVec 11) (s : State) : Out :=
  let n := s.focus
  let v := s.g a
  let s := s.modCpu n fun u => { u with lclk := u.lclk + 1 }
  let hdr := traceHeader 1 (sourceNo n) (s.stageOf n) i.toNat (s.cpu n).lclk (s.cyc n.stack) (BitVec.ofNat 64 (s.taskAddr n))
  let (st, s) := s.offerTrace n.stack (s.partOf n) (hdr ++ leBytes 32 v.toNat)
  let s := match n with
    | .col c => if st = 0 then s.modCol c fun x => x.chargeL 5 2 else s
    | .hart _ => s
  .next (s.ret d (BitVec.ofNat 64 st))

/-- `sonde`: sets sampling of one output port of the column's own element; an engine hart has no elements and keeps no sampling. -/
def execSonde (d a k : BitVec 5) (s : State) : Out :=
  let v := s.g a
  if bitsNat v 63 9 ≠ 0 then seqResult s (.error (.trap ⟨.address, none, v⟩))
  else match s.focus with
  | .hart _ => .next (s.ret d 0)
  | .col c =>
    let p : PortRef := ⟨⟨c, fin 31 (bitsNat v 4 0), fin 3 (bitsNat v 8 7)⟩, fin 3 (bitsNat v 6 5)⟩
    let old := (((s.col c).sampling.find? fun q => q.port == p).map (·.k)).getD 0
    let s := s.modCol c fun x =>
      let rest := x.sampling.filter fun q => q.port != p
      { x with sampling := if k = 0#5 then rest else rest ++ [⟨p, k.toNat, 0⟩] }
    .next (s.ret d (BitVec.ofNat 64 old))

end Sys2Proof.Machine
end

