-- ==== Sys2Proof/Machine/Vertical.lean ====
section
/-! DEFINITION. The sequencer's access to the vertical store (R224). -/

namespace Sys2Proof.Machine

/-- The location of a vertical address of a column: none where the address is invalid or not aligned (R111, R224). -/
def vertLoc (c : ColId) (a : DWord) (align : Nat) : Option Loc :=
  if bitsNat a 63 28 ≠ 0 ∨ a.toNat % align ≠ 0 then none
  else match vertDecode (bitsNat a 27 0) with
    | some p => some ⟨.vert, c, p⟩
    | none => none

/-- A vertical form on a column: the address is decoded; a shelf that is not on wakes and the form waits; an access takes a slot of its port, for which it waits (R71, R113), and counts once there, in class 0 (R352, R354, R421). An engine hart has no vertical store, so that no address of it is valid (assumption log 25). -/
def vertForm (a : DWord) (align : Nat) (s : State) (check : ColId → Res Unit) (f : State → ColId → Loc → Res State) : Out :=
  match s.focus with
  | .hart _ => seqResult s (faultAt .verticalRange a)
  | .col c =>
    match vertLoc c a align with
    | none => seqResult s (faultAt .verticalRange a)
    | some l =>
      match check c with
      | .error e => seqResult s (.error e)
      | .ok () =>
        let port := vLayer l.addr
        if s.asleep l then seqResult (s.wakeFor l) (.error .wait)
        else match s.seqSlot c port with
          | none => seqResult (s.modCol c fun x => { x with vseq := some (port, s.now) }) (.error .wait)
          | some t => seqResult s (f ((s.takeSeqSlot c port t).modCol c fun x => x.chargeV 0 port 1) c l)

/-- Reads one vertical word: one of a shelf that another partition owns is zero with taint. -/
def State.vertWord (s : State) (l : Loc) : (DWord × Bool) × State :=
  match s.access l with
  | .open_ => s.readLoc none false l
  | _ => ((0, true), s)

/-- A read waits while the target is closed for a change of owner (R351). -/
def State.vertHeld (s : State) (l : Loc) : Res Unit := if s.access l = .shut then .error .wait else .ok ()

/-- `vldd`. -/
def execVldd (d a : BitVec 5) (s : State) : Out :=
  vertForm (s.g a) 8 s (fun _ => .ok ()) fun s _ l => do
    s.vertHeld l
    let ((v, t), s) := s.vertWord l
    .ok ((s.setTaint s.focus t).ret d v)

/-- `vstd`. -/
def execVstd (d a : BitVec 5) (s : State) : Out :=
  let n := s.focus
  let drop : Bool := match n with
    | .col c => (match vertLoc c (s.g a) 8 with | some l => s.access l != .open_ | none => false)
    | .hart _ => false
  if drop then seqResult s.countDropped (faultAt .storeDropped (s.g a))
  else vertForm (s.g a) 8 s (fun _ => .ok ()) fun s _ l => .ok ((s.writeLoc l 0xFF#8 (s.g d)).skip)

/-! `vcpy`. -/

/-- The sixteen words of a 128-byte granule from a local address. -/
def granuleWords (a : DWord) : List DWord := (upTo 16).map fun i => a + BitVec.ofNat 64 (8 * i)

/-- The near-store location of an address that has been checked. -/
def State.nearLoc (s : State) (c : ColId) (a : DWord) : Loc := ⟨.near, c, s.nearPhys (.col c) a.toNat⟩

/-- What a near-store address of `vcpy` faults on, before any slot is used: its alignment, its region, its range, a closed bank, and the presence of single-assignment words as an access to each word would find it (R206, R217, R224). -/
def State.vcpyCheck (s : State) (c : ColId) (d : DWord) (writes : Bool) : Res Unit :=
  if d.toNat % 128 ≠ 0 then faultAt .misaligned d
  else if bitsNat d 63 60 ≠ 0 then faultAt .address d
  else match s.nearCause (.col c) d.toNat with
    | some k => faultAt k d
    | none =>
      (granuleWords d).foldlM (fun _ w =>
        let l := s.nearLoc c w
        let sa := s.nearSa (.col c) w.toNat
        match s.access l with
        | .shut => if writes then faultAt .storeDropped w else .error .wait
        | .foreign => if writes then faultAt .storeDropped w else .ok ()
        | .open_ =>
          if sa && !writes && (s.presence l).isNone then faultAt .saEmpty w
          else if sa && writes && (s.presence l).isSome then faultAt .saOverwrite w
          else .ok ()) ()

/-- One word from the vertical store to the near store; a word that a sequencer fills is full, whatever it read (R217). -/
def State.vcpyIn (s : State) (c : ColId) (l : Loc) (d : DWord) : State :=
  let ((v, t), s) := s.vertWord l
  let s := s.setTaint (.col c) t
  let near := s.nearLoc c d
  if s.nearSa (.col c) d.toNat then (s.fillSa near 0xFF#8 v false).2 else s.writeLoc near 0xFF#8 v

/-- One word from the near store to the vertical store. -/
def State.vcpyOut (s : State) (c : ColId) (l : Loc) (d : DWord) : State :=
  let near := s.nearLoc c d
  match s.access near with
  | .foreign => (s.setTaint (.col c) true).writeLoc l 0xFF#8 0
  | _ =>
    let ((v, t), s) := s.readLoc none (s.nearSa (.col c) d.toNat) near
    (s.setTaint (.col c) t).writeLoc l 0xFF#8 v

/-- `vcpy`: one granule of 128 bytes, after the handler's own queued stores to it (R139). -/
def execVcpy (d a : BitVec 5) (r : BitVec 1) (s : State) : Out :=
  let near := s.g d
  let toVert := r == 1#1
  let drop : Option Trap := match s.focus with
    | .hart _ => none
    | .col c => match vertLoc c (s.g a) 128, s.vcpyCheck c near (!toVert) with
      | none, _ => none
      | some _, .error (.trap t) => if t.cause == .storeDropped then some t else none
      | some _, .error .wait => none
      | some l, .ok () => if toVert && s.access l != .open_ then some (.at_ .storeDropped (s.g a)) else none
  match drop with
  | some t => faultOut s.countDropped t
  | none =>
    vertForm (s.g a) 128 s (fun c => s.vcpyCheck c near (!toVert)) fun s c l => do
      if toVert then pure () else s.vertHeld l
      let inside (o : QStore) : Bool := o.loc.space == .near && (granuleWords near).any fun w => s.nearPhys (.col c) w.toNat / 8 == o.loc.addr / 8
      let s := s.drainQueue (.col c) inside
      let one (s : State) (i : Nat) : State :=
        let v : Loc := { l with addr := l.addr + 8 * i }
        if toVert then s.vcpyOut c v (near + BitVec.ofNat 64 (8 * i)) else s.vcpyIn c v (near + BitVec.ofNat 64 (8 * i))
      .ok ((upTo 16).foldl one s).skip

end Sys2Proof.Machine
end

