-- ==== Sys2Proof/Machine/Dispatch.lean ====
section
/-! DEFINITION. What each instruction and event does: one arm per constructor. -/

namespace Sys2Proof.Machine

open Sys2Proof

def exec (i : Instr) (s : State) : Host.Outcome State Fault Refusal :=
  match i with
  | .ill d a n0 => Sys2Proof.Machine.execIll d a n0 s
  | .nop => Sys2Proof.Machine.execNop s
  | .brk n0 => Sys2Proof.Machine.execBrk n0 s
  | .trap n0 => Sys2Proof.Machine.execTrap n0 s
  | .eret => Sys2Proof.Machine.execEret s
  | .halt => Sys2Proof.Machine.execHalt s
  | .trace d a n0 => Sys2Proof.Machine.execTrace d a n0 s
  | .sonde d a k => Sys2Proof.Machine.execSonde d a k s
  | .add d a b w => Sys2Proof.Machine.execAdd d a b w s
  | .sub d a b w => Sys2Proof.Machine.execSub d a b w s
  | .and_ d a b w => Sys2Proof.Machine.execAnd d a b w s
  | .or_ d a b w => Sys2Proof.Machine.execOr d a b w s
  | .xor d a b w => Sys2Proof.Machine.execXor d a b w s
  | .andn d a b w => Sys2Proof.Machine.execAndn d a b w s
  | .shl d a b w => Sys2Proof.Machine.execShl d a b w s
  | .shr d a b w => Sys2Proof.Machine.execShr d a b w s
  | .sra d a b w => Sys2Proof.Machine.execSra d a b w s
  | .rol d a b w => Sys2Proof.Machine.execRol d a b w s
  | .slt d a b w => Sys2Proof.Machine.execSlt d a b w s
  | .sltu d a b w => Sys2Proof.Machine.execSltu d a b w s
  | .min d a b w => Sys2Proof.Machine.execMin d a b w s
  | .max d a b w => Sys2Proof.Machine.execMax d a b w s
  | .minu d a b w => Sys2Proof.Machine.execMinu d a b w s
  | .maxu d a b w => Sys2Proof.Machine.execMaxu d a b w s
  | .mul d a b w => Sys2Proof.Machine.execMul d a b w s
  | .mulh d a b w => Sys2Proof.Machine.execMulh d a b w s
  | .mulhu d a b w => Sys2Proof.Machine.execMulhu d a b w s
  | .div d a b w => Sys2Proof.Machine.execDiv d a b w s
  | .divu d a b w => Sys2Proof.Machine.execDivu d a b w s
  | .rem d a b w => Sys2Proof.Machine.execRem d a b w s
  | .remu d a b w => Sys2Proof.Machine.execRemu d a b w s
  | .clz d a w => Sys2Proof.Machine.execClz d a w s
  | .ctz d a w => Sys2Proof.Machine.execCtz d a w s
  | .popc d a w => Sys2Proof.Machine.execPopc d a w s
  | .sel d a b w => Sys2Proof.Machine.execSel d a b w s
  | .extr d a p l => Sys2Proof.Machine.execExtr d a p l s
  | .extru d a p l => Sys2Proof.Machine.execExtru d a p l s
  | .ins d a p l => Sys2Proof.Machine.execIns d a p l s
  | .fadd d a b => Sys2Proof.Machine.execFadd d a b s
  | .fsub d a b => Sys2Proof.Machine.execFsub d a b s
  | .fmul d a b => Sys2Proof.Machine.execFmul d a b s
  | .ffma d a b => Sys2Proof.Machine.execFfma d a b s
  | .fdiv d a b => Sys2Proof.Machine.execFdiv d a b s
  | .fmin d a b => Sys2Proof.Machine.execFmin d a b s
  | .fmax d a b => Sys2Proof.Machine.execFmax d a b s
  | .fabs d a => Sys2Proof.Machine.execFabs d a s
  | .fneg d a => Sys2Proof.Machine.execFneg d a s
  | .feq d a b => Sys2Proof.Machine.execFeq d a b s
  | .flt d a b => Sys2Proof.Machine.execFlt d a b s
  | .fle d a b => Sys2Proof.Machine.execFle d a b s
  | .ftoi d a => Sys2Proof.Machine.execFtoi d a s
  | .itof d a => Sys2Proof.Machine.execItof d a s
  | .addi d a n0 => Sys2Proof.Machine.execAddi d a n0 s
  | .andi d a n0 => Sys2Proof.Machine.execAndi d a n0 s
  | .ori d a n0 => Sys2Proof.Machine.execOri d a n0 s
  | .xori d a n0 => Sys2Proof.Machine.execXori d a n0 s
  | .slti d a n0 => Sys2Proof.Machine.execSlti d a n0 s
  | .sltui d a n0 => Sys2Proof.Machine.execSltui d a n0 s
  | .shli d a n => Sys2Proof.Machine.execShli d a n s
  | .shri d a n => Sys2Proof.Machine.execShri d a n s
  | .srai d a n => Sys2Proof.Machine.execSrai d a n s
  | .lui d n0 => Sys2Proof.Machine.execLui d n0 s
  | .addpc d n0 => Sys2Proof.Machine.execAddpc d n0 s
  | .beq a b o => Sys2Proof.Machine.execBeq a b o s
  | .bne a b o => Sys2Proof.Machine.execBne a b o s
  | .blt a b o => Sys2Proof.Machine.execBlt a b o s
  | .bge a b o => Sys2Proof.Machine.execBge a b o s
  | .bltu a b o => Sys2Proof.Machine.execBltu a b o s
  | .bgeu a b o => Sys2Proof.Machine.execBgeu a b o s
  | .jmp o => Sys2Proof.Machine.execJmp o s
  | .call o => Sys2Proof.Machine.execCall o s
  | .jmpr a => Sys2Proof.Machine.execJmpr a s
  | .callr a => Sys2Proof.Machine.execCallr a s
  | .ldbu d a o => Sys2Proof.Machine.execLdbu d a o s
  | .ldb d a o => Sys2Proof.Machine.execLdb d a o s
  | .ldhu d a o => Sys2Proof.Machine.execLdhu d a o s
  | .ldh d a o => Sys2Proof.Machine.execLdh d a o s
  | .ldwu d a o => Sys2Proof.Machine.execLdwu d a o s
  | .ldw d a o => Sys2Proof.Machine.execLdw d a o s
  | .ldd d a o => Sys2Proof.Machine.execLdd d a o s
  | .stb d a o => Sys2Proof.Machine.execStb d a o s
  | .sth d a o => Sys2Proof.Machine.execSth d a o s
  | .stw d a o => Sys2Proof.Machine.execStw d a o s
  | .std d a o => Sys2Proof.Machine.execStd d a o s
  | .ldacqWu d a o => Sys2Proof.Machine.execLdacqWu d a o s
  | .ldacqW d a o => Sys2Proof.Machine.execLdacqW d a o s
  | .ldacqD d a o => Sys2Proof.Machine.execLdacqD d a o s
  | .strelW d a o => Sys2Proof.Machine.execStrelW d a o s
  | .strelD d a o => Sys2Proof.Machine.execStrelD d a o s
  | .tstsa d a => Sys2Proof.Machine.execTstsa d a s
  | .stsa d a => Sys2Proof.Machine.execStsa d a s
  | .clrsa a n => Sys2Proof.Machine.execClrsa a n s
  | .watch d a t => Sys2Proof.Machine.execWatch d a t s
  | .aadd d a b w st => Sys2Proof.Machine.execAadd d a b w st s
  | .aswp d a b w st => Sys2Proof.Machine.execAswp d a b w st s
  | .acas d a b w st => Sys2Proof.Machine.execAcas d a b w st s
  | .aand d a b w st => Sys2Proof.Machine.execAand d a b w st s
  | .aor d a b w st => Sys2Proof.Machine.execAor d a b w st s
  | .axor d a b w st => Sys2Proof.Machine.execAxor d a b w st s
  | .amax d a b w st => Sys2Proof.Machine.execAmax d a b w st s
  | .amin d a b w st => Sys2Proof.Machine.execAmin d a b w st s
  | .amaxu d a b w st => Sys2Proof.Machine.execAmaxu d a b w st s
  | .aminu d a b w st => Sys2Proof.Machine.execAminu d a b w st s
  | .vldd d a => Sys2Proof.Machine.execVldd d a s
  | .vstd d a => Sys2Proof.Machine.execVstd d a s
  | .vcpy d a r => Sys2Proof.Machine.execVcpy d a r s
  | .fence st => Sys2Proof.Machine.execFence st s
  | .crd d n => Sys2Proof.Machine.execCrd d n s
  | .cwr d a n => Sys2Proof.Machine.execCwr d a n s
  | .cset d a n => Sys2Proof.Machine.execCset d a n s
  | .cclr d a n => Sys2Proof.Machine.execCclr d a n s
  | .send d a u l c => Sys2Proof.Machine.execSend d a u l c s
  | .sendi d a c => Sys2Proof.Machine.execSendi d a c s
  | .reply d a u l c => Sys2Proof.Machine.execReply d a u l c s
  | .post d a k => Sys2Proof.Machine.execPost d a k s
  | .bcast d a u l c => Sys2Proof.Machine.execBcast d a u l c s
  | .end_ f => Sys2Proof.Machine.execEnd f s
  | .armh d a x k p c => Sys2Proof.Machine.execArmh d a x k p c s
  | .maskh d a => Sys2Proof.Machine.execMaskh d a s
  | .unmaskh d a => Sys2Proof.Machine.execUnmaskh d a s
  | .raise d a c => Sys2Proof.Machine.execRaise d a c s
  | .cfgl d a c => Sys2Proof.Machine.execCfgl d a c s
  | .cfge d a n0 => Sys2Proof.Machine.execCfge d a n0 s
  | .cfgw d a p st => Sys2Proof.Machine.execCfgw d a p st s
  | .ctxi d st => Sys2Proof.Machine.execCtxi d st s
  | .mode d a f => Sys2Proof.Machine.execMode d a f s
  | .wpre d a n => Sys2Proof.Machine.execWpre d a n s
  | .strm d a c e => Sys2Proof.Machine.execStrm d a c e s
  | .stop d c e => Sys2Proof.Machine.execStop d c e s
  | .inj d a n => Sys2Proof.Machine.execInj d a n s
  | .injm d a n => Sys2Proof.Machine.execInjm d a n s
  | .prime d a n => Sys2Proof.Machine.execPrime d a n s
  | .barr d t k => Sys2Proof.Machine.execBarr d t k s
  | .armc d a c e => Sys2Proof.Machine.execArmc d a c e s
  | .fgld d a => Sys2Proof.Machine.execFgld d a s
  | .fgsw d x st r => Sys2Proof.Machine.execFgsw d x st r s
  | .fgqy d x st => Sys2Proof.Machine.execFgqy d x st s
  | .fgclr d a => Sys2Proof.Machine.execFgclr d a s
  | .femit d a => Sys2Proof.Machine.execFemit d a s
  | .dband d a => Sys2Proof.Machine.execDband d a s
  | .dstage d a => Sys2Proof.Machine.execDstage d a s
  | .dsave d => Sys2Proof.Machine.execDsave d s
  | .drest d => Sys2Proof.Machine.execDrest d s
  | .dscrl d b => Sys2Proof.Machine.execDscrl d b s
  | .dqry d x st => Sys2Proof.Machine.execDqry d x st s
  | .xfer d a n e => Sys2Proof.Machine.execXfer d a n e s
  | .xqry d a e => Sys2Proof.Machine.execXqry d a e s
  | .swap d a => Sys2Proof.Machine.execSwap d a s
  | .bmov d a => Sys2Proof.Machine.execBmov d a s
  | .cgrun d a c => Sys2Proof.Machine.execCgrun d a c s
  | .cgdec d a => Sys2Proof.Machine.execCgdec d a s
  | .launchPortWrite p q addr => Sys2Proof.Machine.execLaunchPortWrite p q addr s
  | .taskPlace p reply => Sys2Proof.Machine.execTaskPlace p reply s
  | .entryMessage task => Sys2Proof.Machine.execEntryMessage task s
  | .taskRetire task => Sys2Proof.Machine.execTaskRetire task s
  | .messageDepart n n0 => Sys2Proof.Machine.execMessageDepart n n0 s
  | .messageLand n0 => Sys2Proof.Machine.execMessageLand n0 s
  | .spillRecordWrite task n0 => Sys2Proof.Machine.execSpillRecordWrite task n0 s
  | .messageDispatch n => Sys2Proof.Machine.execMessageDispatch n s
  | .configTokenArrive n0 => Sys2Proof.Machine.execConfigTokenArrive n0 s
  | .tokenLand n0 => Sys2Proof.Machine.execTokenLand n0 s
  | .elementFiring c e => Sys2Proof.Machine.execElementFiring c e s
  | .arbiterEpoch st => Sys2Proof.Machine.execArbiterEpoch st s
  | .creditReturn n0 => Sys2Proof.Machine.execCreditReturn n0 s
  | .markerAlign c e x => Sys2Proof.Machine.execMarkerAlign c e x s
  | .mergeDecrement n0 => Sys2Proof.Machine.execMergeDecrement n0 s
  | .watchdog task => Sys2Proof.Machine.execWatchdog task s
  | .scrollOpen c => Sys2Proof.Machine.execScrollOpen c s
  | .berthSaveDone c => Sys2Proof.Machine.execBerthSaveDone c s
  | .berthRestoreDone c => Sys2Proof.Machine.execBerthRestoreDone c s
  | .flushNotice c => Sys2Proof.Machine.execFlushNotice c s
  | .scrollMarkerPlace c => Sys2Proof.Machine.execScrollMarkerPlace c s
  | .stageQuiesce c => Sys2Proof.Machine.execStageQuiesce c s
  | .dsaveDone c => Sys2Proof.Machine.execDsaveDone c s
  | .drestDone c => Sys2Proof.Machine.execDrestDone c s
  | .eccWriteback n vertical word => Sys2Proof.Machine.execEccWriteback n vertical word s
  | .saDeferTimeout n0 => Sys2Proof.Machine.execSaDeferTimeout n0 s
  | .watchFire c n0 => Sys2Proof.Machine.execWatchFire c n0 s
  | .agReplyEmit c e x => Sys2Proof.Machine.execAgReplyEmit c e x s
  | .streamCompletionToken c e x => Sys2Proof.Machine.execStreamCompletionToken c e x s
  | .completionTokenEmit c e x => Sys2Proof.Machine.execCompletionTokenEmit c e x s
  | .transferStart st t => Sys2Proof.Machine.execTransferStart st t s
  | .transferComplete st t => Sys2Proof.Machine.execTransferComplete st t s
  | .requestPacket st t => Sys2Proof.Machine.execRequestPacket st t s
  | .cgNodeFinish c node => Sys2Proof.Machine.execCgNodeFinish c node s
  | .dictResetRequest n0 => Sys2Proof.Machine.execDictResetRequest n0 s
  | .frostLoadDone c => Sys2Proof.Machine.execFrostLoadDone c s
  | .frostMarkerAdmit c => Sys2Proof.Machine.execFrostMarkerAdmit c s
  | .frostVectorAdmit c => Sys2Proof.Machine.execFrostVectorAdmit c s
  | .femitToken c => Sys2Proof.Machine.execFemitToken c s
  | .fgclrCycle c => Sys2Proof.Machine.execFgclrCycle c s
  | .cfglEntrySend c => Sys2Proof.Machine.execCfglEntrySend c s
  | .cfglComplete c => Sys2Proof.Machine.execCfglComplete c s
  | .barrierComplete c => Sys2Proof.Machine.execBarrierComplete c s
  | .swapRefillStart st => Sys2Proof.Machine.execSwapRefillStart st s
  | .swapRefillDone st => Sys2Proof.Machine.execSwapRefillDone st s
  | .bmovComplete h n0 => Sys2Proof.Machine.execBmovComplete h n0 s
  | .engineKick n0 => Sys2Proof.Machine.execEngineKick n0 s
  | .gatherMove c n0 => Sys2Proof.Machine.execGatherMove c n0 s
  | .cturnEmit c k => Sys2Proof.Machine.execCturnEmit c k s
  | .eventRecordWrite p => Sys2Proof.Machine.execEventRecordWrite p s
  | .pcolWrite p k v => Sys2Proof.Machine.execPcolWrite p k v s
  | .inboundMailboxWrite n v => Sys2Proof.Machine.execInboundMailboxWrite n v s
  | .outboundMailboxWrite n v => Sys2Proof.Machine.execOutboundMailboxWrite n v s
  | .reassignBank v => Sys2Proof.Machine.execReassignBank v s
  | .reassignShelf v => Sys2Proof.Machine.execReassignShelf v s
  | .reassignDone => Sys2Proof.Machine.execReassignDone s
  | .budgetPeriod st => Sys2Proof.Machine.execBudgetPeriod st s
  | .tcmdSuspend p addr => Sys2Proof.Machine.execTcmdSuspend p addr s
  | .tcmdKill p addr => Sys2Proof.Machine.execTcmdKill p addr s
  | .tcmdRelease p addr => Sys2Proof.Machine.execTcmdRelease p addr s
  | .dispatchTick temps => Sys2Proof.Machine.execDispatchTick temps s
  | .quantumExpiry task => Sys2Proof.Machine.execQuantumExpiry task s
  | .starvationPromotion task => Sys2Proof.Machine.execStarvationPromotion task s
  | .dthermWrite v => Sys2Proof.Machine.execDthermWrite v s
  | .preempt task => Sys2Proof.Machine.execPreempt task s
  | .preemptSequencerHalt c => Sys2Proof.Machine.execPreemptSequencerHalt c s
  | .preemptDrained c => Sys2Proof.Machine.execPreemptDrained c s
  | .checkpointSaved c => Sys2Proof.Machine.execCheckpointSaved c s
  | .taskRestore task reply => Sys2Proof.Machine.execTaskRestore task reply s
  | .tlbInvalidate a n => Sys2Proof.Machine.execTlbInvalidate a n s
  | .tlbInvalidateDone => Sys2Proof.Machine.execTlbInvalidateDone s
  | .pfresRetry p v => Sys2Proof.Machine.execPfresRetry p v s
  | .freeFrameTailWrite p v => Sys2Proof.Machine.execFreeFrameTailWrite p v s
  | .migrationKick pa => Sys2Proof.Machine.execMigrationKick pa s
  | .migrationPageDone => Sys2Proof.Machine.execMigrationPageDone s
  | .migrationComplete => Sys2Proof.Machine.execMigrationComplete s
  | .flashPageoutKick pa => Sys2Proof.Machine.execFlashPageoutKick pa s
  | .flashGroupWritten ok => Sys2Proof.Machine.execFlashGroupWritten ok s
  | .pageInDone n0 ok data => Sys2Proof.Machine.execPageInDone n0 ok data s
  | .faultQuiescent task => Sys2Proof.Machine.execFaultQuiescent task s
  | .flitHeaderDrop f => Sys2Proof.Machine.execFlitHeaderDrop f s
  | .vbusRetire c layer => Sys2Proof.Machine.execVbusRetire c layer s
  | .vbusErrorWindow st => Sys2Proof.Machine.execVbusErrorWindow st s
  | .vretWrite c v => Sys2Proof.Machine.execVretWrite c v s
  | .linkOutOfService k tasks => Sys2Proof.Machine.execLinkOutOfService k tasks s
  | .pcieEndpointLinkDown => Sys2Proof.Machine.execPcieEndpointLinkDown s
  | .keanoMemoryError core pa cache => Sys2Proof.Machine.execKeanoMemoryError core pa cache s
  | .dbgStop c => Sys2Proof.Machine.execDbgStop c s
  | .dbgResume c => Sys2Proof.Machine.execDbgResume c s
  | .dbgStepInstruction c => Sys2Proof.Machine.execDbgStepInstruction c s
  | .dbgStepFiring c e x => Sys2Proof.Machine.execDbgStepFiring c e x s
  | .dbgSquall c => Sys2Proof.Machine.execDbgSquall c s
  | .dbgRead c => Sys2Proof.Machine.execDbgRead c s
  | .dbgWrite c => Sys2Proof.Machine.execDbgWrite c s
  | .debugAccessDone c => Sys2Proof.Machine.execDebugAccessDone c s
  | .bptWrite c u v => Sys2Proof.Machine.execBptWrite c u v s
  | .squallArrive c => Sys2Proof.Machine.execSquallArrive c s
  | .squallComplete task => Sys2Proof.Machine.execSquallComplete task s
  | .squallTimeout task => Sys2Proof.Machine.execSquallTimeout task s
  | .traceRecordWrite st => Sys2Proof.Machine.execTraceRecordWrite st s
  | .statRingAppend n0 => Sys2Proof.Machine.execStatRingAppend n0 s
  | .kclkWrite n v => Sys2Proof.Machine.execKclkWrite n v s
  | .ktraceWrite n v => Sys2Proof.Machine.execKtraceWrite n v s
  | .columnClockGate c => Sys2Proof.Machine.execColumnClockGate c s
  | .gddr7SelfRefresh ch => Sys2Proof.Machine.execGddr7SelfRefresh ch s
  | .shpwrWrite c v => Sys2Proof.Machine.execShpwrWrite c v s
  | .droopStretch c => Sys2Proof.Machine.execDroopStretch c s
  | .thermtrip => Sys2Proof.Machine.execThermtrip s
  | .pwrCalm => Sys2Proof.Machine.execPwrCalm s
  | .pwrDoldrums => Sys2Proof.Machine.execPwrDoldrums s
  | .pwrEntryDone => Sys2Proof.Machine.execPwrEntryDone s
  | .wakePin => Sys2Proof.Machine.execWakePin s
  | .wakeTimer => Sys2Proof.Machine.execWakeTimer s
  | .wakeEndpoint => Sys2Proof.Machine.execWakeEndpoint s
  | .wakeRootPort => Sys2Proof.Machine.execWakeRootPort s
  | .powerOn o => Sys2Proof.Machine.execPowerOn o s
  | .attestRequest v => Sys2Proof.Machine.execAttestRequest v s
  | .attestDone => Sys2Proof.Machine.execAttestDone s
  | .registerWrite addr v => Sys2Proof.Machine.execRegisterWrite addr v s
  | .accessPerforms a => Sys2Proof.Machine.execAccessPerforms a s
  | .keanoDeviceAccess a => Sys2Proof.Machine.execKeanoDeviceAccess a s
  | .pcieInboundAccess a => Sys2Proof.Machine.execPcieInboundAccess a s
  | .linkRetrain k recovered => Sys2Proof.Machine.execLinkRetrain k recovered s
  | .shelfWakeDone c h => Sys2Proof.Machine.execShelfWakeDone c h s
  | .droopEnd c => Sys2Proof.Machine.execDroopEnd c s

end Sys2Proof.Machine
end

