-- ==== Sys2Proof/Machine/Clock.lean ====
section
/-! DEFINITION. The passing of time: stall counters (R47), the arbiter's waiting (R29), holds (R77, R81, R174), stretched cycles (R422), idle cycles (R421), and the cycles that count toward no quantum and no watchdog (R380, R406). -/

namespace Sys2Proof.Machine

/-! A column's own cycles. -/


/-- A column has a cycle of its own in this nominal one: always, but in a droop, where each is up to half longer, one in three may be lost (R422). -/
def State.ticks (s : State) (c : ColId) : Bool := !((s.col c).droop && s.now % 3 == 2 && Config.stretch (256 * s.now + c.val) % 2 == 1)

/-- A column's own cycles in `n` nominal ones: all of them, or, in a droop, at least two thirds (R422). -/
def State.ownCycles (s : State) (c : ColId) (n : Nat) : Nat :=
  if n = 1 then (if s.ticks c then 1 else 0)
  else if (s.col c).droop then n - Config.stretch (256 * s.fresh + c.val) % (n / 3 + 1) else n

/-! Contexts. -/

/-- What `n` cycles without a firing add to a context's stall counters, and how long its firing has been permitted (R29, R47): nothing while it is executing one. -/
def Ctx.stalled (x : Ctx) (p : Perm) (candidate : Bool) (from_ n : Nat) : Ctx :=
  let (i, b) : Fin 5 × Option PortId := match p with
    | .ok => (4, none)
    | .stall i b => (i, b)
  { x with stall := vmod x.stall i fun v => satInc v n,
           blame := (match b with | some k => BitVec.ofNat 2 k.val | none => x.blame),
           since := if candidate then some (x.since.getD from_) else none }

/-- A `dsave` or `drest` that has begun holds the context (R255). -/
def Column.opHolds (x : Column) (e : ElemId) (k : CtxId) : Bool :=
  match x.drift.op, x.drift.cur with
  | some o, some r => o.begun.isSome && r.ctxs.contains (e, k)
  | _, _ => false

/-- One context over `n` of its cycles, the last of `nominal` nominal ones. -/
def State.ctxFlow (s : State) (r : CtxRef) (n nominal : Nat) : State :=
  let el := s.elem r.col r.elem
  if !(s.ctx r).isLive s.now then s
  else
    let own := if el.last = r.ctx then Nat.min n (el.busy - s.now) else 0
    if own = n then s
    else
      let cand := s.candidate r
      let p := match s.permit r with
        | .ok => if (s.ctx r).isHeld then .stall 0 none else .ok
        | p => p
      let p := if (s.col r.col).opHolds r.elem r.ctx then .stall 0 none else p
      s.modCtx r fun x => x.stalled p cand (s.now + (nominal - (n - own))) (n - own)

/-! A column. -/

/-- Holds of the frost fabric's input over `n` cycles, in which it takes nothing: a marker (R166), a vector (R171, R252). -/
def Fabric.holds (f : Fabric) (now n : Nat) : Fabric :=
  match f.q, f.half with
  | [], _ => f
  | q :: _, half =>
    if now < q.arr || now < f.next then f
    else match half with
      | some (_, _, pos) => if f.posHeld pos then f.count 5 n else f
      | none =>
        if q.tok.marker then (if f.markHeld q.tok then f.count 4 n else f)
        else if (f.planes.get f.act).st == .ready && f.posHeld f.pos then f.count 5 n else f

/-- Nothing of the column is at work: no firing, no instruction, no queued token, no pending message (R421). -/
def State.columnIdle (s : State) (c : ColId) : Bool :=
  let x := s.col c
  (!x.cpu.busy || s.seqStopped (.col c)) && x.cpu.pend.isEmpty && !x.holdsToken && x.elems.toList.all fun e => decide (e.busy ≤ s.now)

/-- The idle cycles of a column, and its gate: a column that is at work is not gated. -/
def Column.idles (x : Column) (idle : Bool) (n : Nat) : Column :=
  if idle then { x with idleFor := x.idleFor + n } else { x with idleFor := 0, gated := false }

/-- A column over the `n` cycles that are about to pass, before the clock moves. -/
def State.columnFlow (s : State) (c : ColId) (n : Nat) : State :=
  let k := s.ownCycles c n
  let idle := s.columnIdle c
  let s := s.modCol c fun x => { x.idles idle k with dstr := if x.droop then satInc x.dstr k else x.dstr }
  if (s.col c).band.isNone then s
  else
    let s := (ctxRefs c).foldl (fun (s : State) r => s.ctxFlow r k n) s
    let s := if (s.col c).drift.on then s.holdFlow c k else s
    if (s.col c).fab.q.isEmpty then s else s.modFab c fun f => f.holds s.now k

/-- A column once the clock has moved: a commit window ends, swaps that a marker brought in the cycle before take place, and the frost fabric moves on (R54, R76, R169). -/
def State.columnAfter (s : State) (c : ColId) : State :=
  if (s.col c).band.isNone then s
  else
    let s := if (s.col c).drift.on then s.windowEnd c else s
    ((ctxRefs c).foldl (fun (s : State) r => s.exchange r) s).settleFrost c

/-! The whole part. -/

/-- Columns of a task that are in the debug state (R406). -/
def State.debugged (s : State) (t : Task) : Bool := t.cols.any fun c => (s.col c).dbg.dhalt
/-- Columns of a task with a stream stopped on a fault (R380). -/
def State.stopped (s : State) (t : Task) : Bool := t.cols.any fun c => (s.col c).streamStopped

/-- `n` cycles of a task: those of the debug state count toward no quantum, and those in which the band neither is in the debug state nor has a stream stopped on a fault, and holds a token, count toward the watchdog; cycles without a queued token start its count again (R32, R380, R406). -/
def State.taskFlow (s : State) (n : Nat) (t : Task) : Task :=
  if t.st != .running then t
  else if s.debugged t then { t with offQ := t.offQ + n }
  else if s.stopped t then t
  else if t.cols.any fun c => (s.col c).holdsToken then { t with waited := t.waited + n }
  else { t with waited := 0 }

/-- The clock moves by `n` cycles. -/
def State.advance (s : State) (n : Nat) : State :=
  { s with now := s.now + n, stk := vmap (fun k => { k with cyc := k.cyc + BitVec.ofNat 64 n }) s.stk,
           hub := { s.hub with quiet := vmap (· + n) s.hub.quiet, tasks := s.hub.tasks.map (s.taskFlow n) } }

/-- The clock, and every count with it, moves by `n` nominal cycles in which nothing else happens. -/
def State.elapse (s : State) (n : Nat) : State :=
  let cs : List ColId := (upTo 256).map (fin 255 ·)
  let s := cs.foldl (fun (s : State) c => s.columnFlow c n) s
  let s := s.advance n
  (cs.foldl (fun (s : State) c => s.columnAfter c) s).settleKeano.tick

end Sys2Proof.Machine
end

