-- ==== Sys2Proof/Machine/Progress.lean ====
section
/-! DEFINITION. What the part does by itself as cycles pass (R31): what the spec sets a cycle for happens in it, and what a unit may do is not left undone for ever. The outside world, the dispatcher and the mapper choose for themselves. An agenda may name such a step earlier within its bound (assumption log 100). -/

namespace Sys2Proof.Machine

/-- The state after a step that answers one. -/
def State.did (s : State) (f : State → Out) : State := match f s with | .next t => t | _ => s

/-- A step tried at every index of a list in order: `f` takes its element away where it applies. The first argument bounds the tries. -/
def State.sweep (f : Nat → State → Out) (len : State → Nat) : Nat → Nat → State → State
  | 0, _, s => s
  | k + 1, j, s =>
    let t := s.did (f j)
    t.sweep f len k (if len t < len s then j else j + 1)

/-- `sweep` over a whole list. -/
def State.sweepAll (s : State) (f : Nat → State → Out) (len : State → Nat) : State := s.sweep f len (len s) 0

/-- What a unit may do without a time of its own is done in this cycle: its period says so, or an invalidation has to end (R377, assumption log 100). -/
def State.pressed (s : State) (unit : Nat) : Bool :=
  s.now % (1 + Config.patience unit) = 0 || match s.hub.inval with | some q => decide (q.due ≤ s.now + 1) | none => false

/-! The beginning of a cycle: what arrives in it. -/

/-- The messages that have come land, in the order of R19. -/
def State.landAll (s : State) : State :=
  iter (fun (s : State) => match indexOf? (fun f : MsgFlight => decide (f.due ≤ s.now) && !s.msgs.any (·.before f)) s.msgs with
    | some i => s.did (execMessageLand i)
    | none => s) s.msgs.length s

/-- Decrements of merges that arrive (R55, R288). -/
def State.decrements (s : State) : State := s.sweepAll execMergeDecrement fun s => s.decs.length

/-- A cycle begins: an arbiter's epoch, and the arrival of credits, decrements, tokens, configuration tokens and messages (R19, R28, R29, R48, R50, R55). -/
def State.arrivals (s : State) : State :=
  let s := (s.epochs.sweepAll execCreditReturn fun s => s.credits.length).decrements
  let s := s.sweepAll execTokenLand fun s => s.flights.length
  (s.sweepAll execConfigTokenArrive fun s => s.ctl.length).landAll

/-! What a column does in a cycle. -/

/-- The frost fabric of a column (R164 to R171, R252). -/
def State.frostCycle (s : State) (c : ColId) : State :=
  let s := if (s.col c).fab.load.isSome then s.did (execFrostLoadDone c) else s
  let s := if (s.col c).fab.q.isEmpty && (s.col c).fab.half.isNone then s else (s.did (execFrostMarkerAdmit c)).did (execFrostVectorAdmit c)
  let s := if (s.col c).fab.emit.isSome then s.did (execFemitToken c) else s
  if (s.col c).fab.clr.isSome then s.did (execFgclrCycle c) else s

/-- The drift controller of a column (R72 to R84, R255, R256). -/
def State.driftCycle (s : State) (c : ColId) : State :=
  let s := if (s.col c).drift.scrollq.isEmpty then s else s.did (execScrollMarkerPlace c)
  if !(s.col c).drift.on then s
  else
    let s := (((s.did (execScrollOpen c)).did (execBerthSaveDone c)).did (execBerthRestoreDone c)).did (execFlushNotice c)
    ((s.did (execStageQuiesce c)).did (execDsaveDone c)).did (execDrestDone c)

/-- Gather points and corner turns of a column (R307, R309). -/
def State.turnCycle (s : State) (c : ColId) : State :=
  let s := (upTo (s.col c).gathers.length).foldl (fun (s : State) i => s.did (execGatherMove c i)) s
  (upTo 4).foldl (fun (s : State) k => s.did (execCturnEmit c (fin 3 k))) s

/-- The vertical accesses of a stream that may take a slot in this cycle take it; where `all`, its other accesses perform too (R113, R294). -/
def State.streamAccesses (s : State) (all : Bool) (r : CtxRef) : State :=
  match (s.ctx r).strm with
  | none => s
  | some m =>
    let mine (q : Nat × Nat) : Bool := all || (match m.reqs[q.1]?.bind fun y => y.pieces[q.2]? with | some p => p.loc.space == .vert | none => false)
    ((((m.issuedPieces.filter mine).foldl (fun (s : State) q => s.performPiece r q.1 q.2) s).formReplies r).endStream r)

/-- What a stream sends in a cycle (R113, R120, R124, R140). -/
def State.streamSends (s : State) (r : CtxRef) : State :=
  if (s.ctx r).strm.isNone then s
  else
    let s := s.did (execAgReplyEmit r.col r.elem r.ctx)
    (s.did (execStreamCompletionToken r.col r.elem r.ctx)).did (execCompletionTokenEmit r.col r.elem r.ctx)

/-- Near-store stores of a node that are due perform; where `all`, every queued store (R204). -/
def State.storesDue (s : State) (all : Bool) (n : Node) : State :=
  s.sweepAll (fun i s => .next (match (s.cpu n).storeQ[i]? with
    | some q => if all || q.loc.space == .near then s.storePerforms n i else s
    | none => s)) fun s => (s.cpu n).storeQ.length

/-- Configuration loads and barriers of a column (R242, R248); where `all`, its waking shelves, a debug access that waits for one, and the granules of a page load (R164, R406, R421). -/
def State.columnWork (s : State) (c : ColId) (all : Bool) : State :=
  let s := if (s.col c).cfgl.isSome then (s.did (execCfglEntrySend c)).did (execCfglComplete c) else s
  let s := if (s.col c).barr.isSome then s.did (execBarrierComplete c) else s
  if !all then s
  else
    let s := (upTo 16).foldl (fun (s : State) h => s.did (execShelfWakeDone c (fin 15 h))) s
    if (s.col c).dbg.pending.isSome then s.did (execDebugAccessDone c) else s

/-- A column's cycle: every permitted firing on a free element starts, and what waits for a cycle of its own takes it (R27, R31, R52). -/
def State.columnCycle (s : State) (c : ColId) : State :=
  let all := s.pressed c.val
  let s := iter (fun s => s.did (execWatchFire c 0)) (s.col c).fired.length s
  let s := ((((s.storesDue all (.col c)).frostCycle c).turnCycle c).driftCycle c)
  let s := (upTo 32).foldl (fun (s : State) e => s.fireElem c (fin 31 e)) s
  let refs := (ctxRefs c).filter fun r => (s.ctx r).isLive s.now
  let s := refs.foldl (fun (s : State) r => (s.streamAccesses all r).streamSends r) s
  let s := refs.foldl (fun (s : State) r => s.did (execMarkerAlign r.col r.elem r.ctx)) s
  s.columnWork c all

/-! What the spec sets no cycle for. -/

/-- Messages of a node's outbound queue leave (R19, R237). -/
def State.departures (s : State) (n : Node) : State :=
  if s.now % (1 + Config.patience (256 + n.sender.key)) ≠ 0 then s
  else s.sweepAll (execMessageDepart n) fun s => (s.cpu n).outq.length

/-- The stores at a stack's ordering point reach their channels. -/
def State.ordering (s : State) (k : StackId) : State :=
  if !s.pressed (768 + k.val) then s
  else s.sweepAll (fun i s => .next (s.orderedPerforms k i)) fun s => (s.stack k).ord.length

/-- A transfer engine takes its next work, moves on by one element, and reports (R125 to R128). -/
def State.teWork (s : State) (k : StackId) (t : TeId) : State :=
  let e := (s.stack k).te.get t
  if e.q.isEmpty && e.packets.isEmpty && e.cur.isNone then s
  else (((s.did (execTransferStart k t)).did (execRequestPacket k t)).did (execAccessPerforms (.transfer k t))).did (execTransferComplete k t)

/-- The engines of a stack: transfers, refills and command graphs (R79, R125, R130). -/
def State.engines (s : State) (k : StackId) : State :=
  if s.now % (1 + Config.patience (774 + k.val)) ≠ 0 then s
  else
    let s := (upTo 8).foldl (fun (s : State) t => s.teWork k (fin 7 t)) s
    let s := if (s.stack k).lse.isNone && (s.stack k).lseQ.isEmpty then s
      else ((s.did (execSwapRefillStart k)).did (execAccessPerforms (.refill k))).did (execSwapRefillDone k)
    (s.stack k).graphs.foldl (fun (s : State) g => (upTo (Nat.max 1 g.nodes.length)).foldl (fun (s : State) i => s.did (execCgNodeFinish g.col i)) s) s

/-- The bulk moves of an engine hart (R149, R259). -/
def State.bulkWork (s : State) (h : HartId) : State :=
  if (s.hart h).moves.isEmpty || s.now % (1 + Config.patience (512 + h.val)) ≠ 0 then s
  else
    let s := (upTo (s.hart h).moves.length).foldl (fun (s : State) i => s.did (execAccessPerforms (.bulk h i))) s
    s.sweepAll (execBmovComplete h) fun s => (s.hart h).moves.length

/-- What the hub does to a task by itself: the watchdog, the end of its quantum, a promotion, a quantum cut short by absent pages; and, where `all`, its retirement and the images of its drained columns (R32, R33, R361, R366, R380). -/
def State.taskWork (s : State) (all : Bool) (t : BitVec 16) : State :=
  let s := (((s.did (execWatchdog t)).did (execQuantumExpiry t)).did (execStarvationPromotion t)).did (execFaultQuiescent t)
  if !all then s
  else
    let s := s.did (execTaskRetire t)
    match s.task? t with
    | some x => if x.st == .preempting then x.cols.foldl (fun (s : State) c => s.did (execCheckpointSaved c)) s else s
    | none => s

/-- A tick of the dispatcher that no reading of the sensors has come with (R360, R363). -/
def State.ticked (s : State) : State := if (s.hub.tick + 1) * tickCycles ≤ s.now then s.did (execDispatchTick []) else s

/-- What the hub does in a cycle: limits that run out, a reassignment and an invalidation that end, and, in its period, its rings, kicks and page moves (R149, R151, R346, R351, R377, R382, R417, R418). -/
def State.hubWork (s : State) : State :=
  let all := decide (s.now % (1 + Config.patience 778) = 0)
  let s := s.ticked
  let s := s.hub.tasks.foldl (fun (s : State) t => s.taskWork all t.id) s
  let s := if s.hub.keano.isEmpty then s else s.sweepAll execSaDeferTimeout fun s => s.hub.keano.length
  let s := if s.hub.reassign.isSome then s.did execReassignDone else s
  let s := if s.hub.inval.isSome then s.did execTlbInvalidateDone else s
  if !all then s
  else
    let s := (upTo 8).foldl (fun (s : State) p => s.did (execEventRecordWrite (fin 7 p))) s
    let s := (upTo 4).foldl (fun (s : State) k => s.did (execTraceRecordWrite (fin 3 k))) s
    let s := s.sweepAll execStatRingAppend fun s => s.hub.statQ.length
    let s := s.sweepAll execEngineKick fun s => s.hub.kicked.length
    if s.hub.moves.isEmpty then s else (s.did execMigrationPageDone).did execMigrationComplete

/-- Held messages of tasks are written to their rings and delivered (R35, R386). -/
def State.spilling (s : State) : State :=
  if s.now % (1 + Config.patience 772) ≠ 0 then s
  else s.hub.tasks.foldl (fun (s : State) t =>
    let s := (upTo t.spill.length).foldl (fun (s : State) i => s.did (execSpillRecordWrite t.id i)) s
    iter (fun s => s.did (execMessageDepart (.hart spillHart) (16 + t.id.toNat))) t.spill.length s) s

/-- Requests to reset a dictionary reach their sender (R133). -/
def State.dictResets (s : State) : State :=
  if s.now % (1 + Config.patience 773) ≠ 0 then s else s.sweepAll execDictResetRequest fun s => s.resets.length

/-- A pre-emption goes on within its bounds: a sequencer has halted 580 cycles after the request, and the fabric is drained after 4350 (R3, R31, R366). -/
def State.preemptCycle (s : State) (c : ColId) : State :=
  match s.taskOf c with
  | none => s
  | some t =>
    let s := if t.preAt + 580 ≤ s.now then s.did (execPreemptSequencerHalt c) else s
    if t.preAt + 4350 ≤ s.now then (s.sweepAll execDictResetRequest fun s => s.resets.length).did (execPreemptDrained c) else s

/-- A squall reaches every column of its band within 40 cycles of its start, and ends when the band has stopped or after 65,536 (R409). -/
def State.squallCycle (s : State) (q : BitVec 16 × Nat) : State :=
  let s := match s.squallOf q.1 with
    | some (cols, t) => if t + 40 ≤ s.now then cols.foldl (fun (s : State) c => s.did (execSquallArrive c)) s else s
    | none => s
  (s.did (execSquallComplete q.1)).did (execSquallTimeout q.1)

/-! The passing of time. -/

/-- Columns that a task holds. -/
def State.heldCols (s : State) : List ColId := ((upTo 256).map (fin 255 ·)).filter fun c => (s.col c).band.isSome

/-- The engine harts. -/
def allHarts : List HartId := (upTo 43).map (fin 42 ·)

/-- Nothing is placed and nothing is under way: cycles only pass. -/
def State.still (s : State) : Bool :=
  s.heldCols.isEmpty && s.flights.isEmpty && s.ctl.isEmpty && s.credits.isEmpty && s.decs.isEmpty && s.msgs.isEmpty && s.resets.isEmpty &&
  (allHarts.all fun h => (s.cpu (.hart h)).outq.isEmpty && (s.cpu (.hart h)).storeQ.isEmpty && (s.hart h).moves.isEmpty) &&
  (s.stk.toList.all fun k => k.ord.isEmpty && k.sinkQ.isEmpty && k.graphs.isEmpty && k.lse.isNone && k.lseQ.isEmpty &&
    k.te.toList.all fun e => e.q.isEmpty && e.packets.isEmpty && e.cur.isNone) &&
  s.hub.tasks.isEmpty && s.hub.keano.isEmpty && s.hub.reassign.isNone && s.hub.inval.isNone && s.hub.moves.isEmpty && s.hub.kicked.isEmpty &&
  s.hub.statQ.isEmpty && (s.hub.evHeld.toList.all fun q => q.isEmpty) && s.hub.pwr == .run

/-- A state of less power is entered in its period (R424, assumption log 100). -/
def State.entering (s : State) : State := if s.now % (1 + Config.patience 779) ≠ 0 then s else s.did execPwrEntryDone

/-- What is left to happen in this cycle happens. -/
def State.closing (s : State) : State :=
  if s.hub.pwr != .run then (if s.hub.pwr == .entering true || s.hub.pwr == .entering false then s.entering else s.did execWakeTimer)
  else
    let cs := s.heldCols
    let s := cs.foldl (fun (s : State) c => if (s.col c).pre == .none then (if s.ticks c then s.columnCycle c else s) else (s.driftCycle c).preemptCycle c) s
    let s := allHarts.foldl (fun (s : State) h => ((s.storesDue (s.pressed (512 + h.val)) (.hart h)).departures (.hart h)).bulkWork h) s
    let s := cs.foldl (fun (s : State) c => (s.departures (.col c)).did (execColumnClockGate c)) s
    let s := s.hub.squalls.foldl (fun (s : State) q => s.squallCycle q) s
    let s := ((upTo 4).map (fin 3 ·)).foldl (fun (s : State) k => (s.ordering k).engines k) s
    (s.spilling.dictResets.hubWork).decrements

/-- The budget periods and the error windows that begin (R352, R394), and the channels that enter self-refresh (R421). -/
def State.periods (s : State) : State :=
  let s := ((upTo 4).map (fin 3 ·)).foldl (fun (s : State) k => (s.did (execBudgetPeriod k)).did (execVbusErrorWindow k)) s
  (upTo 16).foldl (fun (s : State) c => s.did (execGddr7SelfRefresh (fin 15 c))) s

/-- Ticks that have passed while nothing was under way (R360). -/
def State.skipTicks (s : State) : State := s.modHub fun h => { h with tick := Nat.max h.tick ((s.now - 1) / tickCycles) }

/-- One nominal cycle passes. -/
def State.cycle (s : State) : State := (s.closing.elapse 1).periods.arrivals

/-- `n` nominal cycles pass. -/
def State.pass (s : State) (n : Nat) : State := if s.still then (s.elapse n).periods.skipTicks else iter State.cycle n s

end Sys2Proof.Machine
end

