-- ==== Sys2Proof/Machine/Timing.lean ====
section
/-! DEFINITION. How long an instruction occupies the sequencer (R204, R234). A wait that the spec bounds and does not fix is a free value within the bound. -/

namespace Sys2Proof.Machine

open Sys2Proof

/-- A bank wait, at most 4 cycles (R108). -/
def bankWaitOf (s : State) : Nat := Config.bankWait s.fresh % 5
/-- A wait for a firing to complete, at most 8 cycles (R204). -/
def windowWaitOf (s : State) : Nat := Config.windowWait s.fresh % 9

/-- Cycles of a load of the address in `a` once it has its data: `near` cycles and a bank wait in the near store, `near` in the supervisor window, 1 for device memory, whose data has returned by then, and until the data returns for a device register. -/
def loadCycles (s : State) (a : DWord) (near : Nat) : Nat :=
  match bitsNat a 63 60 with
  | 0 => near + bankWaitOf s
  | 2 => near
  | 8 => 1
  | _ => 1 + Config.deviceWait s.fresh

/-- Cycles of an atomic or of `stsa` once it has issued: `near` and a bank wait in the near store, and until the answer returns elsewhere. -/
def accessCycles (s : State) (a : DWord) (near : Nat) : Nat :=
  match bitsNat a 63 60 with
  | 0 => near + bankWaitOf s
  | 2 => near
  | _ => 1 + Config.deviceWait s.fresh

/-- Cycles of a vertical form in whose first cycle its slot is known: 24 from the slot on, which is that of this cycle or one that fell free in the cycle before (R113, assumption log 76). -/
def vertCycles (s : State) (a : DWord) : Nat :=
  match s.focus with
  | .hart _ => 1
  | .col c => match (vertDecode (bitsNat a 27 0)).bind fun p => s.seqSlot c (vLayer p) with
    | some t => 24 - (s.now - t)
    | none => 24

/-- Cycles of a branch: 2 where it is taken, whatever its target. -/
def branchCycles (s : State) (a b : BitVec 5) (cond : DWord → DWord → Bool) : Nat := if cond (s.reg s.focus a) (s.reg s.focus b) then 2 else 1

/-- Cycles of a control-register form: the element window waits for a firing (R204). -/
def crCycles (s : State) (n : BitVec 11) : Nat := if 0x40 ≤ n.toNat ∧ n.toNat < 0x80 then 2 + windowWaitOf s else 1

/-- Effective address of an M-format access. -/
def effAddr (s : State) (a : BitVec 5) (o : BitVec 13) : DWord := s.reg s.focus a + o.signExtend 64

/-- Cycles that an instruction occupies the sequencer that issues it in `s`. -/
def cyclesOf (i : Instr) (s : State) : Nat :=
  match i with
  | .jmp .. | .call .. | .jmpr .. | .callr .. => 2
  | .beq a b _ => branchCycles s a b fun x y => x == y
  | .bne a b _ => branchCycles s a b fun x y => x != y
  | .blt a b _ => branchCycles s a b fun x y => x.slt y
  | .bge a b _ => branchCycles s a b fun x y => !x.slt y
  | .bltu a b _ => branchCycles s a b fun x y => x.ult y
  | .bgeu a b _ => branchCycles s a b fun x y => !x.ult y
  | .mul .. | .mulh .. | .mulhu .. => 4
  | .div _ _ _ w | .divu _ _ _ w | .rem _ _ _ w | .remu _ _ _ w => if w = 1#1 then 18 else 34
  | .fadd .. | .fsub .. | .fmul .. | .ffma .. | .fmin .. | .fmax .. | .feq .. | .flt .. | .fle .. | .ftoi .. | .itof .. => 4
  | .fdiv .. => 12
  | .ldbu _ a o | .ldb _ a o | .ldhu _ a o | .ldh _ a o | .ldwu _ a o | .ldw _ a o | .ldd _ a o
  | .ldacqWu _ a o | .ldacqW _ a o | .ldacqD _ a o => loadCycles s (effAddr s a o) 2
  | .tstsa _ a => loadCycles s (s.reg s.focus a) 2
  | .stsa _ a => accessCycles s (s.reg s.focus a) 2
  | .aadd _ a _ _ _ | .aswp _ a _ _ _ | .acas _ a _ _ _ | .aand _ a _ _ _ | .aor _ a _ _ _ | .axor _ a _ _ _
  | .amax _ a _ _ _ | .amin _ a _ _ _ | .amaxu _ a _ _ _ | .aminu _ a _ _ _ => accessCycles s (s.reg s.focus a) 4
  | .vldd _ a | .vstd _ a | .vcpy _ a _ => vertCycles s (s.reg s.focus a)
  | .crd _ n | .cwr _ _ n | .cset _ _ n | .cclr _ _ n => crCycles s n
  | .trace .. | .sonde .. | .watch .. | .brk .. => 2
  | .send _ _ _ l _ | .reply _ _ _ l _ | .bcast _ _ _ l _ => 2 + l.toNat
  | .swap .. => 2 + bankWaitOf s
  | .post .. | .bmov .. | .cfgl .. | .fgqy .. | .dstage .. | .dqry .. | .cgrun .. | .armc .. | .stop .. | .mode .. => 2
  | .cfge .. | .cfgw .. | .ctxi .. => 2 + windowWaitOf s
  | .xfer .. => 4 + bankWaitOf s
  | .xqry .. => 4
  | .strm .. => 6 + bankWaitOf s
  | .inj _ _ n | .injm _ _ n => 2 + n.toNat + bankWaitOf s
  | .prime _ _ n => 2 + n.toNat + bankWaitOf s
  | .end_ .. => 0
  | _ => 1

/-- The cycles that an instruction waits before it may take effect, for one that does: a load of device memory until its data has returned, a fence, release store or atomic until the earlier accesses have performed, none of which is sooner than the queued near stores are due (R204, R223, R225). Until then a pre-emption abandons it (R205). -/
def waitOf (i : Instr) (s : State) : Option Nat :=
  let load (a : DWord) : Option Nat := if bitsNat a 63 60 = 8 then some (Config.deviceWait s.fresh) else none
  let stores : Option Nat := some (Nat.max (Config.otherWait s.fresh) (maxList ((s.cpu s.focus).storeQ.map (·.due)) - s.now))
  match i with
  | .ldbu _ a o | .ldb _ a o | .ldhu _ a o | .ldh _ a o | .ldwu _ a o | .ldw _ a o | .ldd _ a o
  | .ldacqWu _ a o | .ldacqW _ a o | .ldacqD _ a o => load (effAddr s a o)
  | .tstsa _ a => load (s.reg s.focus a)
  | .aadd .. | .aswp .. | .acas .. | .aand .. | .aor .. | .axor .. | .amax .. | .amin .. | .amaxu .. | .aminu ..
  | .strelW .. | .strelD .. | .fence .. => stores
  | _ => none

/-- The device address that a load or an atomic accesses, if it does (R411). -/
def deviceTarget (i : Instr) (s : State) : Option DWord :=
  let at_ (a : DWord) : Option DWord := if 8 ≤ bitsNat a 63 60 then some a else none
  match i with
  | .ldbu _ a o | .ldb _ a o | .ldhu _ a o | .ldh _ a o | .ldwu _ a o | .ldw _ a o | .ldd _ a o
  | .ldacqWu _ a o | .ldacqW _ a o | .ldacqD _ a o => at_ (effAddr s a o)
  | .tstsa _ a | .aadd _ a _ _ _ | .aswp _ a _ _ _ | .acas _ a _ _ _ | .aand _ a _ _ _ | .aor _ a _ _ _ | .axor _ a _ _ _
  | .amax _ a _ _ _ | .amin _ a _ _ _ | .amaxu _ a _ _ _ | .aminu _ a _ _ _ => at_ (s.reg s.focus a)
  | _ => none

/-- What a node's table of work says of an instruction that issues in `s` (R411). -/
def deviceAccess (i : Instr) (s : State) : Option (DWord × BitVec 48) := (deviceTarget i s).map fun a => (a, (s.cpu s.focus).lclk)

/-- A plain store finds 16 stores outstanding, and waits until one performs (R204). -/
def storeHeld (i : Instr) (s : State) : Bool :=
  match i with
  | .stb .. | .sth .. | .stw .. | .std .. => decide (16 ≤ (s.cpu s.focus).storeQ.length)
  | _ => false

/-- The wait of a node's sequencer at its pc, if it has begun. -/
def Cpu.awaiting (u : Cpu) : Option Nat := match u.await with | some (pc, t) => if pc = u.pc then some t else none | none => none

/-- The instruction at the pc takes effect now: it has nothing to wait for, or has waited for it. -/
def State.issues (s : State) (i : Instr) : Bool :=
  !storeHeld i s &&
  match waitOf i s, (s.cpu s.focus).awaiting with
  | none, _ => true
  | some _, some t => decide (t ≤ s.now)
  | some k, none => k == 0

/-- An instruction that does not take effect now waits: its wait begins, if it has not begun (R204). -/
def State.awaits (s : State) (i : Instr) : State :=
  let n := s.focus
  let u := s.cpu n
  match waitOf i s with
  | some k => if u.awaiting.isSome then s.waitHere n else s.tick.modCpu n fun u => { u with await := some (u.pc, s.now + k), access := deviceAccess i s }
  | none => s.waitHere n

end Sys2Proof.Machine
end

