-- ==== Sys2Proof/Machine/Turn.lean ====
section
/-! DEFINITION. What a sequencer does next, as data: the parts of a step that Step.lean only puts together. -/

namespace Sys2Proof.Machine

open Sys2Proof

/-- What the sequencer in focus does next. -/
inductive Todo where
  /-- cycles pass: it is stopped, has nothing to do, or is still occupied -/
  | idle (cycles : Nat)
  /-- it runs an instruction; the state has the fetch's effects -/
  | run (i : Instr) (s : State)
  /-- it waits before its instruction takes effect -/
  | await (s : State)
  /-- the fetch or the decoding stops it; the state has the fetch's effects -/
  | stop (e : Stop) (s : State)

/-- The next thing the sequencer in focus does (R20, R21, R203 to R205). -/
def State.turn (s : State) : Todo :=
  let n := s.focus
  let u := s.cpu n
  if s.seqStopped n then .idle 1
  else if s.now < u.ready then .idle (u.ready - s.now)
  else if !u.busy then (if s.canDispatch n then .run (.messageDispatch n) s else .idle 1)
  else match s.fetch n with
    | .error e => .stop e s
    | .ok (w, s) =>
      match decode w with
      | .ok i => if s.issues i then .run i s else .await (s.awaits i)
      | .error _ => .stop (.trap (.plain .illegal)) s

/-- A step of one instruction is over: a next one that waits for it begins, and its command is no longer in progress (R407). -/
def Debug.stepped (d : Debug) : Debug := if d.busy && d.pending.isNone then { d with busy := false } else { d with stepping := false }

/-- A step of one instruction ends, unless the instruction waits or has words still to clear (R205, R407). -/
def State.stepEnd (s : State) (n : Node) (waits : Bool) : State :=
  match n with
  | .hart _ => s
  | .col c =>
    if (s.col c).dbg.stepping && !waits && (s.col c).cpu.clr.isNone then s.modCol c fun x => { x with dbg := x.dbg.stepped } else s

/-- After an instruction: the next one issues once this one's cycles have passed, unless its meaning has said when, and later in a droop (R422); the free values it may have taken are used up. -/
def State.settle (s t : State) (i : Instr) : State :=
  let t := t.modCpu s.focus fun u => { u with await := none, access := deviceAccess i s }
  let t := match i with
    | .messageDispatch _ => t.tick
    | _ => t.tick.stepEnd s.focus ((t.cpu s.focus).ready == s.now + 1)
  if s.now < (t.cpu s.focus).ready then t
  else
    let k := cyclesOf i s
    t.modCpu s.focus fun u => { u with ready := s.now + s.nodeCycles s.focus k }

/-- The steps that an agenda may name: every event; an instruction runs only where a sequencer fetches it. -/
def isEvent (i : Instr) : Bool := (encode i).isNone

/-- The state whose next step fetches a given word at the pc of a sequencer: column 0's, or engine hart 0's for a form that only harts have. It runs in user mode, and nothing else is scheduled. -/
def State.placeWord (s : State) (w : Word) : State :=
  let n : Node := if bitsNat w 31 26 = 0x34 ∧ bitsNat w 15 11 = 3 then .hart 0 else .col 0
  let p := s.nearPhys n 0
  let s := { s with focus := n, agenda := [], hub := { s.hub with pwr := .run, thermtrip := false } }
  let s := s.modCpu n fun u =>
    { u with pc := 0, busy := true, sup := false, psup := false, halt := false, ready := s.now, storeQ := [], await := some (0, s.now),
             near := u.near.writeWord (p / 8) (byteMask (p % 8) 4) (BitVec.ofNat 64 (w.toNat * 2 ^ (8 * (p % 8)))) }
  match n with
  | .hart _ => s
  | .col c => s.modCol c fun x => { x with dbg := { x.dbg with dhalt := false }, pre := .none, bankTag := vfill 16 none, bankShut := 0, errinj := 0 }

end Sys2Proof.Machine
end

