-- ==== Sys2Proof/Machine/Run.lean ====
section
/-! DEFINITION. What one step does: the parts that Step.lean calls. -/

namespace Sys2Proof.Machine

open Sys2Proof

/-- What the sequencer in focus does, carried out. -/
def runTurn (s : State) : Host.Outcome State Fault Refusal :=
  match s.turn with
  | .idle k => .next (s.pass k)
  | .await t => .next t
  | .stop e t => seqResult (t.stepEnd t.focus (e == .wait)) (.error e)
  | .run i t =>
    match exec i t with
    | .next t' => .next (t.settle t' i)
    | .fault f => .fault f
    | .refused r => .refused r

/-- One step: the head of the agenda, or with an empty agenda the sequencer in focus (assumption log 3). After THERMTRIP every clock but VAON's has stopped (R422). -/
def stepOnce (s : State) : Host.Outcome State Fault Refusal :=
  match s.agenda with
  | .occurs (.powerOn o) :: r => exec (.powerOn o) { s with agenda := r }
  | a =>
    if s.hub.thermtrip then .fault .clocksStopped
    else match a with
      | [] => runTurn s
      | .run n :: r => runTurn { s with agenda := r, focus := n }
      | .pass k :: r => .next ({ s with agenda := r }.pass k)
      | .occurs i :: r => if isEvent i then exec i { s with agenda := r } else .next { s with agenda := r }

end Sys2Proof.Machine
end

