-- ==== Sys2Proof/Machine/Ordering.lean ====
section
/-! DEFINITION. The memory order as a property of whole executions (R136 to R146): parties and scopes, edges, and which executions are allowed. The machine of Step.lean runs one access after another; these definitions state what R146 says of any execution, so that its verdicts can be claimed. -/

namespace Sys2Proof.Machine

open Sys2Proof

/-- A party that issues accesses (R135). -/
inductive Party where
  /-- a column's sequencer, with the handler it runs -/
  | sequencer (c : ColId)
  /-- one request of a stream: its column, element and context, and its number -/
  | request (c : ColId) (e : ElemId) (x : CtxId) (n : Nat)
  /-- a column's network interface: the landing writes of message transforms -/
  | landing (c : ColId)
  /-- a stack's transfer, layer-swap engine, graph walker or sink -/
  | engine (k : StackId) (unit : Nat)
  /-- a hub engine's hart or the dispatcher -/
  | hub (unit : Nat)
  /-- a Keano core, or an agent reached through PCIe -/
  | outside (unit : Nat)
  deriving DecidableEq, Repr

/-- The column that a party belongs to. -/
def Party.col? : Party → Option ColId
  | .sequencer c | .request c _ _ _ | .landing c => some c
  | .engine _ _ | .hub _ | .outside _ => none

/-- The stack that a party belongs to. -/
def Party.stack? (p : Party) : Option StackId :=
  match p with
  | .engine k _ => some k
  | _ => p.col?.map stackOf

/-- Two parties of one column. -/
def Party.sameCol (p q : Party) : Bool := p == q || (p.col?.isSome && p.col? == q.col?)

/-- The instance of a scope that holds `p` holds `q` (R137). -/
def Scope.covers (sc : Scope) (p q : Party) : Bool :=
  match sc with
  | .elem => match p with
    | .request c e _ _ => match q with | .request d f _ _ => c == d && e == f | _ => false
    | _ => p.sameCol q
  | .col => p.sameCol q
  | .stack => p == q || (p.stack?.isSome && p.stack? == q.stack?)
  | .pkg => match q with | .outside _ => p == q | _ => true
  | .sys => true

/-- The scope `band` of a message, by the columns of the band (R137). -/
def bandScope : List ColId → Scope
  | [] => .stack
  | c :: r => if r.all fun k => stackOf k == stackOf c then .stack else .pkg

/-- What an access is to its granule: plain, to a single-assignment word, or the clearing of one (R118, R205). -/
inductive AccessKind where
  | plain | sa | clear
  deriving DecidableEq, Repr

/-- An access to bytes of one 8-byte granule (R136): the bytes it touches, what it read and what it wrote there; an atomic does both. -/
structure Access1 where
  party : Party
  granule : Nat
  bytes : BitVec 8
  reads : Option DWord
  writes : Option DWord
  kind : AccessKind
  deriving DecidableEq, Repr

/-- An edge from one access to another, by number, with its scope (R139). -/
structure Edge where
  first : Nat
  then_ : Nat
  scope : Scope
  deriving DecidableEq, Repr

/-- An execution: its accesses, its edges, the values that granules hold once every access has performed, and those they hold before any. A granule not listed among the latter is 0, or, where it is accessed as a single-assignment word, empty; a listed one may be empty or hold any value. -/
structure Execution where
  accs : List Access1
  edges : List Edge
  final : List (Nat × Option DWord)
  init : List (Nat × Option DWord)
  deriving DecidableEq, Repr

/-- A granule after one access: a write puts its bytes there; one to a full single-assignment word writes nothing, and a clearing leaves the word empty (R118, R136, R146). -/
def Access1.apply (a : Access1) (v : Option DWord) : Option DWord :=
  match a.kind, a.writes with
  | .clear, _ => none
  | _, none => v
  | .sa, some w => if v.isSome then v else some w
  | .plain, some w => some (mergeWord (v.getD 0) w a.bytes)

/-- The value of a granule after accesses in their order. -/
def valueAfter (g : Nat) : List Access1 → Option DWord → Option DWord
  | [], v => v
  | a :: r, v => valueAfter g r (if a.granule = g then a.apply v else v)

/-- The value of a granule before any access. -/
def Execution.initialOf (x : Execution) (g : Nat) : Option DWord :=
  match x.init.find? fun q => q.1 == g with
  | some q => q.2
  | none => if x.accs.any fun a => a.granule == g && a.kind != .plain then none else some 0

/-- The bytes that an access touches agree. -/
def Access1.agrees (a : Access1) (v w : DWord) : Bool := mergeWord 0 v a.bytes == mergeWord 0 w a.bytes

/-- An edge whose scope covers every party of the execution. -/
def Execution.counts (x : Execution) (e : Edge) : Prop :=
  ∃ a, x.accs[e.first]? = some a ∧ ∀ b ∈ x.accs, e.scope.covers a.party b.party = true

/-- The accesses in the order of `T`. -/
def Execution.inOrder (x : Execution) (T : List Nat) : List Access1 := T.filterMap fun i => x.accs[i]?

/-- The order `T` of the accesses meets the five conditions of R146. A load, and the read of an atomic, returns what its bytes hold then; a single-assignment word must be full for it. -/
structure Execution.AllowedBy (x : Execution) (T : List Nat) : Prop where
  total : T.Perm (List.range x.accs.length)
  edges : ∀ e ∈ x.edges, x.counts e → T.idxOf e.first < T.idxOf e.then_
  reads : ∀ k a v, (x.inOrder T)[k]? = some a → a.reads = some v →
    ∃ w, valueAfter a.granule ((x.inOrder T).take k) (x.initialOf a.granule) = some w ∧ a.agrees v w = true
  final : ∀ q ∈ x.final, valueAfter q.1 (x.inOrder T) (x.initialOf q.1) = q.2

/-- R146: an execution is allowed if one total order of its accesses meets the conditions. -/
def Execution.Allowed (x : Execution) : Prop := ∃ T, x.AllowedBy T

/-! The shorthand of R153. -/

/-- P0 to P3: sequencers in distinct columns of one stack. -/
def litmusP (stack i : Nat) : Party := .sequencer (fin 255 (64 * stack + i))
/-- An 8-byte store of a value. -/
def litmusSt (p : Party) (g : Nat) (v : DWord) : Access1 := ⟨p, g, 0xFF#8, none, some v, .plain⟩
/-- An 8-byte load that returns a value. -/
def litmusLd (p : Party) (g : Nat) (v : DWord) : Access1 := ⟨p, g, 0xFF#8, some v, none, .plain⟩

end Sys2Proof.Machine
end

