-- ==== Sys2Proof/Safety.lean ====
section
/-! DEFINITION. What counts as a safe step and a well-formed state, and the frames that the statements speak of. -/

namespace Sys2Proof.Machine

/-- Every memory of the part is in canonical form. -/
def State.memWf (s : State) : Prop :=
  (∀ c, Memory.wf (s.col c).cpu.near = true ∧ Memory.wf (s.col c).vert = true) ∧
  (∀ h, Memory.wf (s.hart h).cpu.near = true) ∧ Memory.wf s.hub.dev = true ∧ Memory.wf s.hub.fw = true

/-- The instruction or event goes on, to a state of which `P` holds. -/
def answers (i : Instr) (s : State) (P : State → Prop) : Prop := ∃ t, exec i s = .next t ∧ P t

/-! Frames: what differs between two states. -/

/-- Nothing of the whole machine differs but, at the sequencer of `n`, the pc, the general registers and the mark that one was written; of the registers only g(d) differs. -/
def regsOnly (s t : State) (n : Node) (d : BitVec 5) : Prop :=
  (∃ g pc dirty, t = s.modCpu n fun u => { u with g := g, pc := pc, dirty := dirty }) ∧ ∀ r, r ≠ d → t.reg n r = s.reg n r

/-- The byte of an 8-byte word that an address names. -/
def byteOf (w : DWord) (a : Nat) : Byte := BitVec.ofNat 8 (w.toNat / 2 ^ (8 * (a % 8)))

/-- The byte that node `n` reads at a location of its near store or of device memory: memory, under what its stack's ordering point holds, under its own queued stores (R138, R218). -/
def State.seen (s : State) (n : Node) (l : Loc) : Byte :=
  let mem : DWord := match l.space, n with
    | .near, .hart h => (s.hart h).cpu.near.rawWord (l.addr / 8)
    | .near, _ => (s.col l.col).cpu.near.rawWord (l.addr / 8)
    | .vert, _ => (s.col l.col).vert.rawWord (l.addr / 8)
    | .dev, _ => mergeOrd (s.stack n.stack).ord (l.addr / 8) (s.hub.dev.rawWord (l.addr / 8))
  byteOf (mergeQueue (s.cpu n).storeQ l.word mem) l.addr

/-- No byte of any memory differs, and no queued store. -/
def sameMemory (s t : State) : Prop :=
  (∀ c a, (t.col c).cpu.near.byte a = (s.col c).cpu.near.byte a ∧ (t.col c).vert.byte a = (s.col c).vert.byte a) ∧
  (∀ h a, (t.hart h).cpu.near.byte a = (s.hart h).cpu.near.byte a) ∧
  (∀ a, t.hub.dev.byte a = s.hub.dev.byte a) ∧ (∀ k, (t.stack k).ord = (s.stack k).ord) ∧ ∀ n, (t.cpu n).storeQ = (s.cpu n).storeQ

/-- No general register of any sequencer differs but g(d) of `n`. -/
def sameRegs (s t : State) (n : Node) (d : BitVec 5) : Prop := ∀ m r, m ≠ n ∨ r ≠ d → t.reg m r = s.reg m r

/-! Results of the forms of R208. -/

/-- A form of R208 at its two widths: its result on g(a) and g(b), or on their low halves, sign-extended, goes to g(d), and the pc moves on. -/
def computes (s : State) (d a b : BitVec 5) (i : BitVec 1 → Instr) (f : (n : Nat) → BitVec n → BitVec n → BitVec n) : Prop :=
  exec (i 0#1) s = .next (s.ret d (f 64 (s.g a) (s.g b))) ∧
  exec (i 1#1) s = .next (s.ret d ((f 32 (BitVec.setWidth 32 (s.g a)) (BitVec.setWidth 32 (s.g b))).signExtend 64))

/-- The destination of the forms that write one register and go on, whatever the operands. -/
def scalarDest : Instr → Option (BitVec 5)
  | .add d .. | .sub d .. | .and_ d .. | .or_ d .. | .xor d .. | .andn d .. | .shl d .. | .shr d .. | .sra d .. | .rol d ..
  | .slt d .. | .sltu d .. | .min d .. | .max d .. | .minu d .. | .maxu d .. | .mul d .. | .mulh d .. | .mulhu d .. | .div d ..
  | .divu d .. | .rem d .. | .remu d .. | .clz d .. | .ctz d .. | .popc d .. | .sel d .. | .extr d .. | .extru d .. | .ins d ..
  | .fadd d .. | .fsub d .. | .fmul d .. | .ffma d .. | .fdiv d .. | .fmin d .. | .fmax d .. | .fabs d .. | .fneg d ..
  | .feq d .. | .flt d .. | .fle d .. | .ftoi d .. | .itof d .. | .addi d .. | .andi d .. | .ori d .. | .xori d .. | .slti d ..
  | .sltui d .. | .shli d .. | .shri d .. | .srai d .. | .lui d .. | .addpc d .. => some d
  | _ => none

/-! Faults. -/

/-- What taking a sequencer fault leaves (R23, R230, R342, R343, R398, R400): `epc`, `ecause` and, for an access, `ebad` are written; no general register and no memory differs; a fault in supervisor mode halts the node and leaves a record of KIND 3; a page fault, and one that class 19 cannot take, enters supervisor mode; any other ends the handler and queues a class-19 message. -/
def faultTaken (s t : State) (n : Node) (k : Trap) : Prop :=
  let u := s.cpu n
  let v := t.cpu n
  let direct : Prop := k.cause = .pageFault ∨ u.armed 19 = false ∨ (u.busy = true ∧ bitsNat u.task 12 8 = 19) ∨ 64 ≤ u.pend.length + u.grants
  v.epc = u.pc ∧ v.ecause = BitVec.ofNat 64 k.cause.code ∧ v.ebad = k.addr.getD u.ebad ∧
  (∀ m r, t.reg m r = s.reg m r) ∧ sameMemory s t ∧
  (u.sup = true → v.halt = true ∧ v.sup = true ∧ v.pc = u.pc ∧ v.pend = u.pend ∧
    ∃ r, t.hub.evHeld.get (s.partOf n) = s.hub.evHeld.get (s.partOf n) ++ [r] ∧ r.bytes.head? = some 3#8) ∧
  (u.sup = false → direct → v.psup = false ∧ v.sup = true ∧ v.pc = u.evec ∧ v.pend = u.pend ∧ v.busy = true) ∧
  (u.sup = false → ¬direct → v.busy = false ∧ v.sup = false ∧ ∃ m, v.pend = u.pend ++ [m] ∧ m.cls = 19 ∧ m.src = n.sender ∧
    m.g1 = BitVec.ofNat 64 (k.cause.code + s.stageOf n % 65536 * 2 ^ 16) ∧ m.g2 = u.pc ∧ m.g3 = k.g3)

/-- The instruction takes the fault `k`, and has no other effect on registers or memory. -/
def faultsWith (i : Instr) (s : State) (k : Trap) : Prop := ∃ t, exec i s = .next t ∧ faultTaken s t s.focus k

/-! Memory accesses of a sequencer. -/

/-- A local address that an access of so many bytes may use: aligned, below 0x1_8000, and in a drift band within the private window or the shared banks (R107, R64, R206). -/
def State.nearOk (s : State) (n : Node) (a : DWord) (bytes : Nat) : Prop :=
  a.toNat % bytes = 0 ∧ a.toNat < 0x18000 ∧ s.nearCause n a.toNat = none

/-- The location of a local address. -/
def State.nearAt (s : State) (n : Node) (a : DWord) : Loc := ⟨.near, match n with | .col c => c | .hart _ => 0, s.nearPhys n a.toNat⟩

/-- The number that consecutive bytes spell as a node reads them, low byte first. -/
def State.seenNat (s : State) (n : Node) (l : Loc) (bytes : Nat) : Nat :=
  leNat ((List.range bytes).map fun k => s.seen n { l with addr := l.addr + k })

/-- Nothing stops a near-store word from being read as it stands: its bank is open, it is not uncorrectable, and no injected error is armed. -/
def State.nearSound (s : State) (n : Node) (l : Loc) : Prop :=
  s.nodeAccess n l = .open_ ∧ (s.cpu n).near.isBad (l.addr / 8) = false ∧ ∀ c, n = .col c → (s.col c).errinj = 0

/-- The loads with their widths in bytes and whether they sign-extend (R179, R216). -/
def loadForms (d a : BitVec 5) (o : BitVec 13) : List (Instr × Nat × Bool) :=
  [(.ldbu d a o, 1, false), (.ldb d a o, 1, true), (.ldhu d a o, 2, false), (.ldh d a o, 2, true), (.ldwu d a o, 4, false),
   (.ldw d a o, 4, true), (.ldd d a o, 8, false)]
/-- The acquire loads (R225). -/
def acquireForms (d a : BitVec 5) (o : BitVec 13) : List (Instr × Nat × Bool) :=
  [(.ldacqWu d a o, 4, false), (.ldacqW d a o, 4, true), (.ldacqD d a o, 8, false)]
/-- The stores with their widths in bytes. -/
def storeForms (d a : BitVec 5) (o : BitVec 13) : List (Instr × Nat) :=
  [(.stb d a o, 1), (.sth d a o, 2), (.stw d a o, 4), (.std d a o, 8)]
/-- The release stores (R225). -/
def releaseForms (d a : BitVec 5) (o : BitVec 13) : List (Instr × Nat) := [(.strelW d a o, 4), (.strelD d a o, 8)]

/-- A number of so many bytes as a register holds it, zero- or sign-extended. -/
def extended (v bytes : Nat) (signed : Bool) : DWord :=
  if signed then BitVec.ofInt 64 (signedNat (8 * bytes) v) else BitVec.ofNat 64 v

/-- A byte at a location lies outside so many bytes from another location on. -/
def Loc.outside (x l : Loc) (bytes : Nat) : Prop := x.space ≠ l.space ∨ x.col ≠ l.col ∨ x.addr < l.addr ∨ l.addr + bytes ≤ x.addr

/-- The atomics, each with what it leaves in memory from the old value, g(b) and g(d) (R223). -/
def atomicForms (d a b : BitVec 5) (w : BitVec 1) (sc : BitVec 2) : List (Instr × ((n : Nat) → BitVec n → BitVec n → BitVec n → BitVec n)) :=
  [(.aadd d a b w sc, fun _ o y _ => o + y), (.aswp d a b w sc, fun _ _ y _ => y),
   (.acas d a b w sc, fun _ o y e => if o = e then y else o), (.aand d a b w sc, fun _ o y _ => o &&& y),
   (.aor d a b w sc, fun _ o y _ => o ||| y), (.axor d a b w sc, fun _ o y _ => o ^^^ y),
   (.amax d a b w sc, fun _ o y _ => if o.toInt < y.toInt then y else o), (.amin d a b w sc, fun _ o y _ => if y.toInt < o.toInt then y else o),
   (.amaxu d a b w sc, fun _ o y _ => if o.toNat < y.toNat then y else o), (.aminu d a b w sc, fun _ o y _ => if y.toNat < o.toNat then y else o)]

/-- A core form that reaches no device register: the forms of opcodes 0x00 to 0x2B, with the address of a load or a store in the near store or in device memory (R206); `trace` and `sonde`, which reach the stack's sink, are left out. -/
def coreForm (s : State) : Instr → Bool
  | .ldbu _ a o | .ldb _ a o | .ldhu _ a o | .ldh _ a o | .ldwu _ a o | .ldw _ a o | .ldd _ a o | .stb _ a o | .sth _ a o | .stw _ a o | .std _ a o
  | .ldacqWu _ a o | .ldacqW _ a o | .ldacqD _ a o | .strelW _ a o | .strelD _ a o =>
    let r := bitsNat (memAddr a o s) 63 60
    r == 0 || r == 8
  | .ill .. | .nop | .brk .. | .trap .. | .eret | .halt | .tstsa .. | .stsa .. | .clrsa .. | .watch .. | .aadd .. | .aswp .. | .acas .. | .aand .. | .aor .. | .axor ..
  | .amax .. | .amin .. | .amaxu .. | .aminu .. | .vldd .. | .vstd .. | .vcpy .. | .fence .. | .crd .. | .cwr .. | .cset .. | .cclr ..
  | .beq .. | .bne .. | .blt .. | .bge .. | .bltu .. | .bgeu .. | .jmp .. | .call .. | .jmpr .. | .callr .. => true
  | i => (scalarDest i).isSome

end Sys2Proof.Machine
end

