-- ==== Sys2Proof/Certificates/Slice0/Obligations.lean ====
section
/-! DEFINITION. The statements for the provers: the numbered rules of the spec as propositions about the machine. `answers i s P` says that `exec i s` goes on to a next state of which `P` holds. -/

section

open Sys2Proof Sys2Proof.Machine

/-- R176 to R179, R207 to R261: decoding the word of a well-formed instruction gives the instruction back, every field at every value. -/
def Obligations.DecodeOfEncodeIsTheInstruction : Prop :=
  ∀ (i : Instr) (w : Word), i.wellFormed = true → encode i = some w → decode w = .ok i

/-- R180: a word that the decoder accepts is the one word of its instruction, and the instruction breaks no limit. -/
def Obligations.DecodedWordsHaveOneSpelling : Prop :=
  ∀ (w : Word) (i : Instr), decode w = .ok i → encode i = some w ∧ i.wellFormed = true

/-- Words written out from the encoding tables: the examples of R181, and one word of further families. -/
def Obligations.WordsOfTheEncodingTablesDecode : Prop :=
  decode 0x00000000#32 = .ok (.ill 0 0 0) ∧ decode 0x00000800#32 = .ok .nop ∧
  decode 0x04E84C00#32 = .ok (.add 7 8 9 1) ∧ decode 0x084320C1#32 = .ok (.extru 2 3 8 12) ∧
  decode 0x10A5FFF0#32 = .ok (.addi 5 5 0xFFF0) ∧ decode 0x28214004#32 = .ok (.shri 1 1 4) ∧
  decode 0x2D201234#32 = .ok (.lui 9 0x1234) ∧ decode 0x44C0FFFD#32 = .ok (.bne 6 0 0xFFFD) ∧
  decode 0x80C5A010#32 = .ok (.ldw 6 5 16) ∧ decode 0x8C642870#32 = .ok (.aadd 3 4 5 1 3) ∧
  decode 0x9C001000#32 = .ok (.fence 2)

/-- R203, R204: With no event scheduled, a running sequencer that is free to issue executes exactly the instruction that the word at its pc decodes to, once that has nothing left to wait for, and waits at it until then, with every register and every byte of memory as they were; around an instruction the step only counts a free value and sets when the next one issues. A plain store waits while 16 stores are outstanding; a form that waits for no access never waits. What a step adds after an instruction: of the whole state only the counter of free values, the issue time of the sequencer, its notes of a wait and of a device access, and, in the debug state, the mark of a single step differ. -/
def Obligations.StepExecutesTheFetchedInstruction : Prop :=
  (∀ (s f t : State) (w : Word) (i : Instr),
    s.agenda = [] → s.hub.thermtrip = false → s.seqStopped s.focus = false → (s.cpu s.focus).ready ≤ s.now →
    (s.cpu s.focus).busy = true → s.fetch s.focus = .ok (w, f) → decode w = .ok i →
    (f.issues i = true → exec i f = .next t → step s = .next (f.settle t i)) ∧
    (f.issues i = false → ∃ v, step s = .next v ∧ (∀ n r, v.reg n r = f.reg n r) ∧ (∀ n, v.pc n = f.pc n) ∧ sameMemory f v) ∧
    (∀ d a o, i ∈ [Instr.stb d a o, .sth d a o, .stw d a o, .std d a o] → (f.issues i = false ↔ 16 ≤ (f.cpu f.focus).storeQ.length)) ∧
    (f.issues i = false → (∃ d a o, i ∈ [Instr.stb d a o, .sth d a o, .stw d a o, .std d a o]) ∨ (waitOf i f).isSome = true) ∧
    (∀ d, scalarDest i = some d → f.issues i = true)) ∧
  (∀ (s t : State) (i : Instr),
    (s.settle t i).fresh = t.fresh + 1 ∧ (s.settle t i).hub = t.hub ∧ (s.settle t i).now = t.now ∧
    (∀ n r, (s.settle t i).reg n r = t.reg n r) ∧ (∀ n, (s.settle t i).pc n = t.pc n) ∧ sameMemory t (s.settle t i) ∧
    ∀ c, ((s.settle t i).col c).elems = (t.col c).elems)

/-- R203, R5; R180, R203; R178, R180, R208 to R213: In user mode a column's fetch gives the four bytes at the pc, low byte first, where they lie in an open bank, hold no uncorrectable word and no injected error, and no queued store. A word that does not decode takes the fault "illegal instruction", code 1, with epc at the word. In the opcodes of the integer, bitfield, f32 and shift forms, a code that is not assigned or a reserved field that is not zero makes the word illegal, and so does a bitfield that runs past bit 63. -/
def Obligations.FetchedBytesAndIllegalWords : Prop :=
  (∀ (s : State) (c : ColId) (a : Nat),
    s.pc (.col c) = BitVec.ofNat 64 a → a % 4 = 0 → a < 0x18000 → (s.cpu (.col c)).sup = false → (s.col c).drift.on = false →
    (s.cpu (.col c)).storeQ = [] →
    s.access ⟨.near, c, (s.col c).nearPhys a⟩ = .open_ → (s.col c).errinj = 0 →
    (s.cpu (.col c)).near.isBad ((s.col c).nearPhys a / 8) = false →
    ∃ f, s.fetch (.col c) = .ok (BitVec.ofNat 32 (leNat ((s.cpu (.col c)).near.getBytes ((s.col c).nearPhys a) 4)), f) ∧
      f.focus = s.focus ∧ f.now = s.now ∧ f.hub = s.hub ∧ (∀ n r, f.reg n r = s.reg n r) ∧ sameMemory s f) ∧
  (∀ (s f : State) (w : Word) (e : Reject),
    s.agenda = [] → s.hub.thermtrip = false → s.seqStopped s.focus = false → (s.cpu s.focus).ready ≤ s.now →
    (s.cpu s.focus).busy = true → s.fetch s.focus = .ok (w, f) → decode w = .error e →
    ∃ t, step s = .next t ∧ (t.cpu s.focus).epc = f.pc s.focus ∧ (t.cpu s.focus).ecause = 1) ∧
  (∀ w : Word,
    (bitsNat w 31 26 = 0x01 ∧ (27 ≤ bitsNat w 4 0 ∨ bitsNat w 9 5 ≠ 0) → ∃ e, decode w = .error e) ∧
    (bitsNat w 31 26 = 0x02 ∧ (3 ≤ bitsNat w 3 0 ∨ 64 < bitsNat w 15 10 + (if bitsNat w 9 4 = 0 then 64 else bitsNat w 9 4)) →
      ∃ e, decode w = .error e) ∧
    (bitsNat w 31 26 = 0x03 ∧ (14 ≤ bitsNat w 3 0 ∨ bitsNat w 10 4 ≠ 0) → ∃ e, decode w = .error e) ∧
    (bitsNat w 31 26 = 0x0A ∧ (bitsNat w 15 14 = 3 ∨ bitsNat w 13 6 ≠ 0) → ∃ e, decode w = .error e))

/-- R177: Frame of the 55 scalar forms that write a register: they always go on, to the next word, and nothing of the machine differs but g(d) and the pc. The end of a form writes g(d), unless d is 0, which reads as zero whatever is written; the pc moves to the next word; nothing else differs. -/
def Obligations.ScalarFormsChangeOnlyTheirRegister : Prop :=
  (∀ (i : Instr) (d : BitVec 5) (s : State), scalarDest i = some d →
    ∃ t, exec i s = .next t ∧ regsOnly s t s.focus d ∧ t.pc s.focus = s.pc s.focus + 4) ∧
  (∀ (s : State) (d : BitVec 5) (v : DWord),
    (d ≠ 0 → (s.ret d v).reg s.focus d = v) ∧ (s.ret d v).reg s.focus 0 = 0 ∧ (s.ret d v).pc s.focus = s.pc s.focus + 4 ∧
    regsOnly s (s.ret d v) s.focus d ∧ (d = 0 → s.ret d v = s.setPc s.focus (s.pc s.focus + 4)))

/-- R208, R209; R208, R209; R208: Every integer form completes on every operand, at both widths, with the table's result. Products, quotients and remainders, at both widths, with the corners of division. Leading zeros, trailing zeros and one bits, at both widths; N for zero. -/
def Obligations.IntegerFormsGiveTheTableResult : Prop :=
  (∀ (s : State) (d a b : BitVec 5),
    computes s d a b (.add d a b) (fun _ x y => x + y) ∧
    computes s d a b (.sub d a b) (fun _ x y => x - y) ∧
    computes s d a b (.and_ d a b) (fun _ x y => x &&& y) ∧
    computes s d a b (.or_ d a b) (fun _ x y => x ||| y) ∧
    computes s d a b (.xor d a b) (fun _ x y => x ^^^ y) ∧
    computes s d a b (.andn d a b) (fun _ x y => x &&& ~~~y) ∧
    computes s d a b (.shl d a b) (fun n x y => x <<< (y.toNat % n)) ∧
    computes s d a b (.shr d a b) (fun n x y => x >>> (y.toNat % n)) ∧
    computes s d a b (.sra d a b) (fun n x y => BitVec.ofInt n (x.toInt / 2 ^ (y.toNat % n))) ∧
    computes s d a b (.rol d a b) (fun n x y => x <<< (y.toNat % n) ||| x >>> (n - y.toNat % n)) ∧
    computes s d a b (.slt d a b) (fun n x y => if x.toInt < y.toInt then 1#n else 0#n) ∧
    computes s d a b (.sltu d a b) (fun n x y => if x.toNat < y.toNat then 1#n else 0#n) ∧
    computes s d a b (.min d a b) (fun _ x y => if x.toInt ≤ y.toInt then x else y) ∧
    computes s d a b (.max d a b) (fun _ x y => if x.toInt ≤ y.toInt then y else x) ∧
    computes s d a b (.minu d a b) (fun _ x y => if x.toNat ≤ y.toNat then x else y) ∧
    computes s d a b (.maxu d a b) (fun _ x y => if x.toNat ≤ y.toNat then y else x) ∧
    computes s d a b (.sel d a b) (fun _ x y => if s.g d ≠ 0 then x else y)) ∧
  (∀ (s : State) (d a b : BitVec 5),
    computes s d a b (.mul d a b) (fun n x y => BitVec.ofInt n (x.toInt * y.toInt)) ∧
    computes s d a b (.mulh d a b) (fun n x y => ((x.signExtend (n + n) * y.signExtend (n + n)) >>> n).setWidth n) ∧
    computes s d a b (.mulhu d a b) (fun n x y => ((x.setWidth (n + n) * y.setWidth (n + n)) >>> n).setWidth n) ∧
    computes s d a b (.div d a b) (fun n x y => if y = 0 then BitVec.allOnes n else BitVec.ofInt n (x.toInt.tdiv y.toInt)) ∧
    computes s d a b (.divu d a b) (fun n x y => if y = 0 then BitVec.allOnes n else BitVec.ofNat n (x.toNat / y.toNat)) ∧
    computes s d a b (.rem d a b) (fun n x y => if y = 0 then x else BitVec.ofInt n (x.toInt.tmod y.toInt)) ∧
    computes s d a b (.remu d a b) (fun n x y => if y = 0 then x else BitVec.ofNat n (x.toNat % y.toNat))) ∧
  (∀ (s : State) (d a b : BitVec 5),
    computes s d a b (.clz d a) (fun n x _ => BitVec.ofNat n (((List.range n).find? fun i => x.getLsbD (n - 1 - i)).getD n)) ∧
    computes s d a b (.ctz d a) (fun n x _ => BitVec.ofNat n (((List.range n).find? fun i => x.getLsbD i).getD n)) ∧
    computes s d a b (.popc d a) (fun n x _ => BitVec.ofNat n (((List.range n).filter fun i => x.getLsbD i).length)))

/-- R210: the bits of each bitfield form's result, one by one, where the field lies within 64 bits, with the forms' words; a word whose code is 3 to 15 or whose field runs past bit 63 is illegal. -/
def Obligations.BitfieldFormsMoveTheField : Prop :=
  (∀ w : Word, bitsNat w 31 26 = 0x02 → (3 ≤ bitsNat w 3 0 ∨ 64 < bitsNat w 15 10 + (if bitsNat w 9 4 = 0 then 64 else bitsNat w 9 4)) → ∃ e, decode w = .error e) ∧
  ∀ (s : State) (d a : BitVec 5) (p l : BitVec 6) (n : Nat),
    n = (if l = 0 then 64 else l.toNat) → p.toNat + n ≤ 64 →
    (∀ w : Word, (decode w = .ok (.extr d a p l) ↔ w = 0x02#6 ++ d ++ a ++ p ++ l ++ 0#4) ∧ (decode w = .ok (.extru d a p l) ↔ w = 0x02#6 ++ d ++ a ++ p ++ l ++ 1#4) ∧
      (decode w = .ok (.ins d a p l) ↔ w = 0x02#6 ++ d ++ a ++ p ++ l ++ 2#4)) ∧
    (∃ v, exec (.extr d a p l) s = .next (s.ret d v) ∧ ∀ k, k < 64 → v.getLsbD k = (s.g a).getLsbD (p.toNat + Nat.min k (n - 1))) ∧
    (∃ v, exec (.extru d a p l) s = .next (s.ret d v) ∧ ∀ k, k < 64 → v.getLsbD k = (decide (k < n) && (s.g a).getLsbD (p.toNat + k))) ∧
    (∃ v, exec (.ins d a p l) s = .next (s.ret d v) ∧ ∀ k, k < 64 → v.getLsbD k =
      if p.toNat ≤ k ∧ k < p.toNat + n then (s.g a).getLsbD (k - p.toNat) else (s.g d).getLsbD k)

/-- R212: the immediate forms; imm is sign-extended to 64 bits. -/
def Obligations.ImmediateFormsUseTheSignExtendedImmediate : Prop :=
  ∀ (s : State) (d a : BitVec 5) (i : BitVec 16),
    exec (.addi d a i) s = .next (s.ret d (s.g a + i.signExtend 64)) ∧
    exec (.andi d a i) s = .next (s.ret d (s.g a &&& i.signExtend 64)) ∧
    exec (.ori d a i) s = .next (s.ret d (s.g a ||| i.signExtend 64)) ∧
    exec (.xori d a i) s = .next (s.ret d (s.g a ^^^ i.signExtend 64)) ∧
    exec (.slti d a i) s = .next (s.ret d (if (s.g a).toInt < i.toInt then 1 else 0)) ∧
    exec (.sltui d a i) s = .next (s.ret d (if (s.g a).toNat < (i.signExtend 64).toNat then 1 else 0)) ∧
    (∀ w : Word, (decode w = .ok (.addi d a i) ↔ w = 0x04#6 ++ d ++ a ++ i) ∧ (decode w = .ok (.andi d a i) ↔ w = 0x05#6 ++ d ++ a ++ i) ∧
      (decode w = .ok (.ori d a i) ↔ w = 0x06#6 ++ d ++ a ++ i) ∧ (decode w = .ok (.xori d a i) ↔ w = 0x07#6 ++ d ++ a ++ i) ∧
      (decode w = .ok (.slti d a i) ↔ w = 0x08#6 ++ d ++ a ++ i) ∧ (decode w = .ok (.sltui d a i) ↔ w = 0x09#6 ++ d ++ a ++ i))

/-- R213: shifts by an immediate, lui and addpc, with their words; a shift word with selector 3 or a non-zero bit of imm<13:6> is illegal. -/
def Obligations.ShiftLuiAndAddpcForms : Prop :=
  ∀ (s : State) (d a : BitVec 5) (n : BitVec 6) (i : BitVec 16),
    exec (.shli d a n) s = .next (s.ret d (s.g a <<< n.toNat)) ∧
    exec (.shri d a n) s = .next (s.ret d (s.g a >>> n.toNat)) ∧
    exec (.srai d a n) s = .next (s.ret d (BitVec.ofInt 64 ((s.g a).toInt / 2 ^ n.toNat))) ∧
    exec (.lui d i) s = .next (s.ret d (i.signExtend 64 <<< 16)) ∧
    exec (.addpc d i) s = .next (s.ret d (s.pc s.focus + BitVec.ofInt 64 (4 * i.toInt))) ∧
    (∀ w : Word, (decode w = .ok (.shli d a n) ↔ w = 0x0A#6 ++ d ++ a ++ 0#2 ++ 0#8 ++ n) ∧
      (decode w = .ok (.shri d a n) ↔ w = 0x0A#6 ++ d ++ a ++ 1#2 ++ 0#8 ++ n) ∧
      (decode w = .ok (.srai d a n) ↔ w = 0x0A#6 ++ d ++ a ++ 2#2 ++ 0#8 ++ n) ∧
      (decode w = .ok (.lui d i) ↔ w = 0x0B#6 ++ d ++ 0#5 ++ i) ∧ (decode w = .ok (.addpc d i) ↔ w = 0x0C#6 ++ d ++ 0#5 ++ i)) ∧
    ∀ w : Word, bitsNat w 31 26 = 0x0A → (bitsNat w 15 14 = 3 ∨ bitsNat w 13 6 ≠ 0) → ∃ e, decode w = .error e

/-- R214; R215: Branches are taken exactly on their condition, to pc + 4·SignExt(off); call and callr link g31, and callr reads its target before the link is written. A jump to a register whose value is not word-aligned faults with code 3 and epc at the jump, and leaves every general register as it was. Frame of the branches and jumps: no memory, no control register and no flag differs, and no register but g31 in call and callr. -/
def Obligations.BranchesAndJumpsGoWhereTheySay : Prop :=
  (∀ (s : State) (a b : BitVec 5) (o : BitVec 16) (j : BitVec 26),
    let n := s.focus
    let pc := s.pc n
    let go (c : Prop) [Decidable c] : Out := if c then .next (s.setPc n (pc + BitVec.ofInt 64 (4 * o.toInt))) else .next (s.setPc n (pc + 4))
    exec (.beq a b o) s = go (s.g a = s.g b) ∧ exec (.bne a b o) s = go (s.g a ≠ s.g b) ∧
    exec (.blt a b o) s = go ((s.g a).toInt < (s.g b).toInt) ∧ exec (.bge a b o) s = go ((s.g b).toInt ≤ (s.g a).toInt) ∧
    exec (.bltu a b o) s = go ((s.g a).toNat < (s.g b).toNat) ∧ exec (.bgeu a b o) s = go ((s.g b).toNat ≤ (s.g a).toNat) ∧
    exec (.jmp j) s = .next (s.setPc n (pc + BitVec.ofInt 64 (4 * j.toInt))) ∧
    exec (.call j) s = .next ((s.setReg n 31 (pc + 4)).setPc n (pc + BitVec.ofInt 64 (4 * j.toInt))) ∧
    ((s.g a).toNat % 4 = 0 → exec (.jmpr a) s = .next (s.setPc n (s.g a)) ∧
      exec (.callr a) s = .next ((s.setReg n 31 (pc + 4)).setPc n (s.g a))) ∧
    ∀ w : Word, (decode w = .ok (.beq a b o) ↔ w = 0x10#6 ++ a ++ b ++ o) ∧ (decode w = .ok (.bne a b o) ↔ w = 0x11#6 ++ a ++ b ++ o) ∧
      (decode w = .ok (.blt a b o) ↔ w = 0x12#6 ++ a ++ b ++ o) ∧ (decode w = .ok (.bge a b o) ↔ w = 0x13#6 ++ a ++ b ++ o) ∧
      (decode w = .ok (.bltu a b o) ↔ w = 0x14#6 ++ a ++ b ++ o) ∧ (decode w = .ok (.bgeu a b o) ↔ w = 0x15#6 ++ a ++ b ++ o) ∧
      (decode w = .ok (.jmp j) ↔ w = 0x16#6 ++ j) ∧ (decode w = .ok (.call j) ↔ w = 0x17#6 ++ j) ∧
      (decode w = .ok (.jmpr a) ↔ w = 0x18#6 ++ 0#5 ++ a ++ 0#5 ++ 0#11) ∧ (decode w = .ok (.callr a) ↔ w = 0x18#6 ++ 0#5 ++ a ++ 0#5 ++ 1#11)) ∧
  (∀ (s : State) (a : BitVec 5) (i : Instr), i = .jmpr a ∨ i = .callr a → (s.g a).toNat % 4 ≠ 0 →
    ∃ t, exec i s = .next t ∧ (t.cpu s.focus).epc = s.pc s.focus ∧ (t.cpu s.focus).ecause = 3 ∧
      (∀ m r, t.reg m r = s.reg m r) ∧ sameMemory s t) ∧
  (∀ (s t : State) (a b : BitVec 5) (o : BitVec 16) (j : BitVec 26) (i : Instr),
    (i ∈ [.beq a b o, .bne a b o, .blt a b o, .bge a b o, .bltu a b o, .bgeu a b o, .jmp j] → exec i s = .next t →
      t = s.setPc s.focus (t.pc s.focus)) ∧
    (i = .call j ∨ i = .callr a ∧ (s.g a).toNat % 4 = 0 → exec i s = .next t → regsOnly s t s.focus 31) ∧
    (i = .jmpr a → (s.g a).toNat % 4 = 0 → exec i s = .next t → t = s.setPc s.focus (t.pc s.focus)))

/-- R211; R211, R89, R90, R95: The f32 forms read the low halves of their registers, round once to nearest-even, and leave the high half of the result zero; a NaN result is 0x7FC0_0000. The f32 forms that round nothing: copies change only bit 31, comparisons with NaN are false, ftoi of NaN is 0 and of an infinity the nearest end of the range; over zero a finite value gives an infinity with the XOR of the signs, and 0/0 and ∞/∞ give NaN. -/
def Obligations.ScalarFloatingPointFormsRoundOnce : Prop :=
  (∀ (s : State) (d a b : BitVec 5),
    let x := s.gf a
    let y := s.gf b
    exec (.fadd d a b) s = .next (s.ret d (f32Word (x.add y))) ∧
    exec (.fsub d a b) s = .next (s.ret d (f32Word (x.add y.neg))) ∧
    exec (.fmul d a b) s = .next (s.ret d (f32Word (x.mul y))) ∧
    exec (.ffma d a b) s = .next (s.ret d (f32Word ((s.gf d).add (x.mul y)))) ∧
    exec (.fdiv d a b) s = .next (s.ret d (f32Word (x.div y))) ∧
    exec (.fmin d a b) s = .next (s.ret d (f32Word (x.minv y))) ∧
    exec (.fmax d a b) s = .next (s.ret d (f32Word (x.maxv y))) ∧
    exec (.itof d a) s = .next (s.ret d (f32Word (Fv.ofInt (s.g a).toInt))) ∧
    (∀ v : Fv, (f32Word v).toNat < 2 ^ 32) ∧ f32Word .nan = 0x7FC00000#64) ∧
  (∀ (s : State) (d a b : BitVec 5),
    (∃ v, exec (.fabs d a) s = .next (s.ret d v) ∧ v = BitVec.setWidth 64 (BitVec.setWidth 31 (s.g a))) ∧
    (∃ v, exec (.fneg d a) s = .next (s.ret d v) ∧ v.toNat < 2 ^ 32 ∧ v.getLsbD 31 = !(s.g a).getLsbD 31 ∧
      ∀ k, k < 31 → v.getLsbD k = (s.g a).getLsbD k) ∧
    (s.gf a = .nan ∨ s.gf b = .nan → ∀ i ∈ [Instr.feq d a b, .flt d a b, .fle d a b], exec i s = .next (s.ret d 0)) ∧
    (∀ i ∈ [Instr.feq d a b, .flt d a b, .fle d a b], exec i s = .next (s.ret d 0) ∨ exec i s = .next (s.ret d 1)) ∧
    (s.gf a = .nan → exec (.ftoi d a) s = .next (s.ret d 0)) ∧
    (s.gf a = .inf false → exec (.ftoi d a) s = .next (s.ret d 0x7FFFFFFFFFFFFFFF#64)) ∧
    (s.gf a = .inf true → exec (.ftoi d a) s = .next (s.ret d 0x8000000000000000#64)) ∧
    (∀ p q m e k, m ≠ 0 → s.gf a = .num p m e → s.gf b = .num q 0 k →
      exec (.fdiv d a b) s = .next (s.ret d (if p = q then 0x7F800000#64 else 0xFF800000#64))) ∧
    (∀ p q e k, s.gf a = .num p 0 e → s.gf b = .num q 0 k → exec (.fdiv d a b) s = .next (s.ret d 0x7FC00000#64)) ∧
    (∀ p q, s.gf a = .inf p → s.gf b = .inf q → exec (.fdiv d a b) s = .next (s.ret d 0x7FC00000#64)))

/-- R88 to R91: rounding keeps every f32 code that is not a subnormal or a NaN: the value of the code rounds back to the code. -/
def Obligations.RoundingKeepsRepresentableValues : Prop :=
  ∀ x : Nat, x < 2 ^ 32 → FFmt.f32.isSub x = false → FFmt.f32.val x ≠ .nan → FFmt.f32.roundA (FFmt.f32.val x) = x

/-- R23, R230, R342, R343, R398, R400: the one operation by which a sequencer takes a fault does what those rules say, for every cause, in user and in supervisor mode. -/
def Obligations.TakingASequencerFault : Prop :=
  ∀ (s : State) (n : Node) (k : Trap), faultTaken s (s.seqFault n k) n k

/-- R181, R207; R207, R342; R207, R405, R406; R207, R416, R419: What `ill`, the privileged forms in user mode and `trap` in supervisor mode fault with. `trap` in user mode enters supervisor mode with epc after it, `eret` returns, `halt` stops the sequencer after itself, `nop` does nothing; each in its mode, and nothing else differs. `brk` counts, and where the task's DBG bit and BRKEN are set also stops the column in the debug state after itself and leaves a class-18 message with the code and the pc. `trace` raises the Lamport clock by one and answers 0, 1 or 2; `sonde` answers the old sampling rate of the port and sets the new one, and a bit of g(a)<63:9> faults "address". -/
def Obligations.SystemFormsActInTheirMode : Prop :=
  (∀ (s : State) (d a : BitVec 5) (i : BitVec 11),
    faultsWith (.ill d a i) s (.plain .illegal) ∧
    ((s.cpu s.focus).sup = false → faultsWith .eret s (.plain .privileged) ∧ faultsWith .halt s (.plain .privileged)) ∧
    ((s.cpu s.focus).sup = true → faultsWith (.trap i) s (.plain .illegal))) ∧
  (∀ (s : State) (i : BitVec 11),
    let n := s.focus
    let u := s.cpu n
    exec .nop s = .next (s.setPc n (u.pc + 4)) ∧
    (u.sup = false → exec (.trap i) s = .next (s.modCpu n fun u =>
      { u with epc := u.pc + 4, ecause := BitVec.ofNat 64 (25 + i.toNat * 256), psup := false, sup := true, pc := u.evec, supIdle := false })) ∧
    (u.sup = true → exec .halt s = .next (s.modCpu n fun u => { u with halt := true, pc := u.pc + 4 })) ∧
    (u.sup = true → ∃ b, exec .eret s = .next (s.modCpu n fun u =>
      { u with pc := u.epc, sup := u.psup, psup := false, busy := b, supIdle := false }) ∧ (u.supIdle = false → b = u.busy))) ∧
  (∀ (s : State) (c : ColId) (i : BitVec 11), s.focus = .col c →
    ∃ t, exec (.brk i) s = .next t ∧ (t.col c).dbg.brkcnt = satInc (s.col c).dbg.brkcnt 1 ∧
      ((s.cpu (.col c)).armed 18 = true → t.pc (.col c) = s.pc (.col c) + 4) ∧ (∀ m r, t.reg m r = s.reg m r) ∧ sameMemory s t ∧
      (((s.col c).dbg.brken = false ∨ ∀ b, (s.col c).band = some b → b.dbg = false) → t.pc (.col c) = s.pc (.col c) + 4 ∧ (t.col c).dbg.dhalt = (s.col c).dbg.dhalt ∧ (t.cpu (.col c)).pend = (s.cpu (.col c)).pend) ∧
      (∀ b, (s.col c).band = some b → b.dbg = true → b.finished = false → (s.col c).dbg.brken = true → (s.cpu (.col c)).armed 18 = true →
        (s.cpu (.col c)).pendCount < 64 → (s.cpu (.col c)).selfq = [] →
        (t.col c).dbg.dhalt = true ∧ ∃ m, (t.cpu (.col c)).pend = (s.cpu (.col c)).pend ++ [m] ∧ m.cls = 18 ∧ m.g1 = 1 ∧
          m.g2 = BitVec.setWidth 64 i ∧ m.g3 = s.pc (.col c))) ∧
  (∀ (s : State) (d a : BitVec 5) (i : BitVec 11) (k : BitVec 5),
    (∃ t v, exec (.trace d a i) s = .next t ∧ v ∈ [(0 : DWord), 1, 2] ∧ t.reg s.focus d = (if d = 0 then 0 else v) ∧
      (t.cpu s.focus).lclk = (s.cpu s.focus).lclk + 1 ∧ t.pc s.focus = s.pc s.focus + 4 ∧ sameRegs s t s.focus d ∧ sameMemory s t) ∧
    (bitsNat (s.g a) 63 9 ≠ 0 → faultsWith (.sonde d a k) s ⟨.address, none, s.g a⟩) ∧
    (∀ c p, s.focus = .col c → bitsNat (s.g a) 63 9 = 0 →
      p = (⟨⟨c, fin 31 (bitsNat (s.g a) 4 0), fin 3 (bitsNat (s.g a) 8 7)⟩, fin 3 (bitsNat (s.g a) 6 5)⟩ : PortRef) →
      ∃ t, exec (.sonde d a k) s = .next t ∧
        t.reg s.focus d = (if d = 0 then 0 else BitVec.ofNat 64 ((((s.col c).sampling.find? fun q => q.port == p).map (·.k)).getD 0)) ∧
        ((((t.col c).sampling.find? fun q => q.port == p).map (·.k)).getD 0) = k.toNat ∧
        (∀ q, q ≠ p → (t.col c).sampling.find? (fun x => x.port == q) = (s.col c).sampling.find? fun x => x.port == q) ∧
        t.pc s.focus = s.pc s.focus + 4 ∧ sameRegs s t s.focus d ∧ sameMemory s t))

/-- R206, R216 to R218; R206, R216 to R218, R138; R109, R114, R217; R107: A load of an aligned local address gives the bytes there, with the sequencer's own queued stores over them, zero- or sign-extended; it changes no other register and no memory; a full-tainted single-assignment word sets TAINT. A load of a device word that is present and plain or read-only gives its bytes, with what the stack's ordering point and the sequencer's own queue hold over them. A load of an uncorrectable near-store word of a column gives zero, sets TAINT and counts the error. The interleave of a column's near store sends different local addresses to different bytes of the banks, whatever the interleave register holds. -/
def Obligations.LoadsGiveTheBytesOfTheirAddress : Prop :=
  (∀ (s : State) (d a : BitVec 5) (o : BitVec 13) (i : Instr) (bytes : Nat) (signed : Bool), (i, bytes, signed) ∈ loadForms d a o →
    let n := s.focus
    let l := s.nearAt n (memAddr a o s)
    s.nearOk n (memAddr a o s) bytes → s.nearSound n l →
    (s.nearSa n (memAddr a o s).toNat = true → (s.presence l.word).isSome = true) →
    ∃ t, exec i s = .next t ∧ t.reg n d = (if d = 0 then 0 else extended (s.seenNat n l bytes) bytes signed) ∧
      t.pc n = s.pc n + 4 ∧ sameRegs s t n d ∧ sameMemory s t ∧
      (t.cpu n).taint = ((s.cpu n).taint || (s.nearSa n (memAddr a o s).toNat && s.presence l.word == some .tainted))) ∧
  (∀ (s f : State) (d a : BitVec 5) (o : BitVec 13) (i : Instr) (bytes : Nat) (signed : Bool) (l : Loc) (disc : Disc) (pt : Bool),
    (i, bytes, signed) ∈ loadForms d a o →
    let n := s.focus
    s.placeAt n (memAddr a o s) bytes false = (.ok (.dev l disc pt), f) → disc ≠ .sa → l.space = .dev → l.addr % bytes = 0 →
    sinkStack? l.addr = none → f.hub.dev.isBad (l.addr / 64) = false →
    ∃ t, exec i s = .next t ∧ t.reg n d = (if d = 0 then 0 else extended (f.seenNat n l bytes) bytes signed) ∧
      t.pc n = f.pc n + 4 ∧ sameRegs f t n d ∧ sameMemory f t) ∧
  (∀ (s : State) (d a : BitVec 5) (o : BitVec 13) (i : Instr) (bytes : Nat) (signed : Bool) (c : ColId), (i, bytes, signed) ∈ loadForms d a o →
    let l := s.nearAt (.col c) (memAddr a o s)
    s.focus = .col c → s.nearOk (.col c) (memAddr a o s) bytes → s.access l = .open_ → s.nearSa (.col c) (memAddr a o s).toNat = false →
    (s.col c).errinj = 0 → (s.cpu (.col c)).near.isBad (l.addr / 8) = true → (s.cpu (.col c)).storeQ = [] →
    ∃ t, exec i s = .next t ∧ t.reg (.col c) d = 0 ∧ (t.cpu (.col c)).taint = true ∧ (t.col c).euncor = satInc (s.col c).euncor 1) ∧
  (∀ (x : Column) (a b : Nat), a < 0x18000 → b < 0x18000 → x.nearCause a = none → x.nearCause b = none →
    x.nearPhys a = x.nearPhys b → a = b)

/-- R204, R216 to R218; R206, R216 to R218; R204: A store to a plain local address enters the store queue, so that its own bytes read as the register's low bytes and every other byte as before; no register and no byte of memory itself differs yet. The same for a plain device word; f is the state that the translation of the address leaves. A store that issues with 16 outstanding does so as the oldest performs, and is the youngest of the queue. -/
def Obligations.StoresWriteTheBytesOfTheirAddress : Prop :=
  (∀ (s : State) (d a : BitVec 5) (o : BitVec 13) (i : Instr) (bytes : Nat), (i, bytes) ∈ storeForms d a o →
    let n := s.focus
    let l := s.nearAt n (memAddr a o s)
    s.nearOk n (memAddr a o s) bytes → s.nodeAccess n l = .open_ → s.nearSa n (memAddr a o s).toNat = false →
    (s.cpu n).storeQ.length < 16 →
    ∃ t, exec i s = .next t ∧ (∀ k, k < bytes → t.seen n { l with addr := l.addr + k } = byteOf (s.g d) k) ∧
      (∀ x : Loc, x.outside l bytes → t.seen n x = s.seen n x) ∧ (∀ m x, m ≠ n → t.seen m x = s.seen m x) ∧
      (∀ m r, t.reg m r = s.reg m r) ∧ t.pc n = s.pc n + 4 ∧
      (∀ m, (t.cpu m).near = (s.cpu m).near) ∧ t.hub = s.hub ∧ t.stk = s.stk ∧ ∀ c, (t.col c).vert = (s.col c).vert) ∧
  (∀ (s f : State) (d a : BitVec 5) (o : BitVec 13) (i : Instr) (bytes : Nat) (l : Loc) (pt : Bool), (i, bytes) ∈ storeForms d a o →
    let n := s.focus
    s.placeAt n (memAddr a o s) bytes true = (.ok (.dev l .pl pt), f) → l.space = .dev → l.addr % bytes = 0 →
    sinkStack? l.addr = none → (f.cpu n).storeQ.length < 16 →
    ∃ t, exec i s = .next t ∧ (∀ k, k < bytes → t.seen n { l with addr := l.addr + k } = byteOf (s.g d) k) ∧
      (∀ x : Loc, x.outside l bytes → t.seen n x = f.seen n x) ∧ (∀ m r, t.reg m r = f.reg m r) ∧ t.pc n = f.pc n + 4 ∧
      (∀ m, (t.cpu m).near = (f.cpu m).near) ∧ t.hub = f.hub ∧ t.stk = f.stk ∧ ∀ c, (t.col c).vert = (f.col c).vert) ∧
  (∀ (s : State) (d a : BitVec 5) (o : BitVec 13) (q : QStore) (r : List QStore),
    let n := s.focus
    let l := s.nearAt n (memAddr a o s)
    s.nearOk n (memAddr a o s) 8 → s.nodeAccess n l = .open_ → s.nearSa n (memAddr a o s).toNat = false →
    (s.cpu n).storeQ = q :: r → (s.cpu n).storeQ.length = 16 → (∀ x ∈ r, x.serial ≠ q.serial) →
    ∃ t e, exec (.std d a o) s = .next t ∧ (t.cpu n).storeQ = r ++ [e] ∧ e.loc = l ∧ e.data = s.g d ∧ e.mask = 0xFF#8)

/-- R108, R116 to R118, R206, R216, R217; R223: The faults of loads and stores: a misaligned address, one outside the near store, a region that does not exist, an empty single-assignment word loaded, a full one stored to or stored to in part. The fault names the address and nothing is written. A misaligned atomic, one in a region that has no plain words, and one on a single-assignment word fault, and write nothing. -/
def Obligations.MemoryFormsFaultByTheTable : Prop :=
  (∀ (s : State) (d a : BitVec 5) (o : BitVec 13) (i : Instr) (bytes : Nat),
    ((∃ signed, (i, bytes, signed) ∈ loadForms d a o) ∨ (i, bytes) ∈ storeForms d a o) →
    let n := s.focus
    let A := memAddr a o s
    let l := s.nearAt n A
    (A.toNat % bytes ≠ 0 → faultsWith i s (.at_ .misaligned A)) ∧
    (A.toNat % bytes = 0 → bitsNat A 63 60 = 0 → 0x18000 ≤ A.toNat → faultsWith i s (.at_ .nearRange A)) ∧
    (A.toNat % bytes = 0 → bitsNat A 63 60 ∉ [0, 2, 4, 8] → faultsWith i s (.at_ .address A)) ∧
    (A.toNat % bytes = 0 → bitsNat A 63 60 = 2 → (s.cpu n).sup = false → faultsWith i s (.at_ .access A)) ∧
    (s.nearOk n A bytes → s.nodeAccess n l = .open_ → s.nearSa n A.toNat = true →
      ((∃ signed, (i, bytes, signed) ∈ loadForms d a o) → s.presence l.word = none → faultsWith i s (.at_ .saEmpty A)) ∧
      ((i, bytes) ∈ storeForms d a o → bytes ≠ 8 → faultsWith i s (.at_ .saPartial A)) ∧
      ((i, bytes) ∈ storeForms d a o → bytes = 8 → (s.presence l.word).isSome = true → faultsWith i s (.at_ .saOverwrite A)))) ∧
  (∀ (s : State) (d a b : BitVec 5) (w : BitVec 1) (sc : BitVec 2) (i : Instr) (f : (n : Nat) → BitVec n → BitVec n → BitVec n → BitVec n),
    (i, f) ∈ atomicForms d a b w sc →
    let bytes := if w = 1 then 8 else 4
    ((s.g a).toNat % bytes ≠ 0 → faultsWith i s (.at_ .misaligned (s.g a))) ∧
    ((s.g a).toNat % bytes = 0 → bitsNat (s.g a) 63 60 ∉ [0, 8] → faultsWith i s (.at_ .address (s.g a))) ∧
    (s.nearOk s.focus (s.g a) bytes → s.nearSa s.focus (s.g a).toNat = true → faultsWith i s (.at_ .saAtomic (s.g a))))

/-- R225, R142: an acquire load gives what the plain load gives once the writes that it returns have performed; a release store acts as the plain store once every earlier access of its issuer has performed for `sys`, which leaves no store of it queued; a fence completes with every earlier store performed, and with one of scope `pkg` or `sys` none of them waits at the ordering point. -/
def Obligations.AcquireReleaseAndFence : Prop :=
  ∀ (s : State) (d a : BitVec 5) (o : BitVec 13) (sc : BitVec 5),
    let n := s.focus
    let l := s.nearAt n (memAddr a o s)
    (∀ i bytes signed, (i, bytes, signed) ∈ acquireForms d a o → s.nearOk n (memAddr a o s) bytes →
      let f := s.settleWord n l
      f.nearSound n l → s.nearSa n (memAddr a o s).toNat = false →
      ∃ t, exec i s = .next t ∧ t.reg n d = (if d = 0 then 0 else extended (f.seenNat n l bytes) bytes signed) ∧
        t.pc n = s.pc n + 4 ∧ sameRegs s t n d ∧ sameMemory f t ∧ ∀ q ∈ (t.cpu n).storeQ, q.loc.word ≠ l.word) ∧
    (let f := s.drainFor n .sys
     (f.cpu n).storeQ = [] ∧ (∀ q ∈ (f.stack n.stack).ord, q.node = n → q.ag ≠ none) ∧
     exec (.strelW d a o) s = exec (.stw d a o) f ∧ exec (.strelD d a o) s = exec (.std d a o) f) ∧
    (∀ i bytes, (i, bytes) ∈ releaseForms d a o → s.nearOk n (memAddr a o s) bytes → s.nodeAccess n l = .open_ →
      s.nearSa n (memAddr a o s).toNat = false →
      ∃ t, exec i s = .next t ∧ (∀ k, k < bytes → t.seen n { l with addr := l.addr + k } = byteOf (s.g d) k) ∧ t.pc n = s.pc n + 4 ∧
        ∀ m r, t.reg m r = s.reg m r) ∧
    (sc.toNat ≤ 4 → ∃ t, exec (.fence sc) s = .next t ∧ (t.cpu n).storeQ = [] ∧ t.pc n = s.pc n + 4 ∧ (∀ m r, t.reg m r = s.reg m r) ∧
      (3 ≤ sc.toNat → ∀ q ∈ (t.stack n.stack).ord, q.node = n → q.ag ≠ none)) ∧
    (5 ≤ sc.toNat → faultsWith (.fence sc) s (.plain .illegal))

/-- R117, R118, R217; R219, R220: An 8-byte store to an empty single-assignment word of a column fills it: the word holds g(d) and is full; no other word and no register differs. `tstsa` gives the state of a word, 3 where it is not a single-assignment word; `stsa` fills an empty word and reports the previous state, leaves a full one as it is, and faults "SA discipline" on any other word. -/
def Obligations.SingleAssignmentStores : Prop :=
  (∀ (s : State) (d a : BitVec 5) (o : BitVec 13) (c : ColId),
    let l := s.nearAt (.col c) (memAddr a o s)
    s.memWf → s.focus = .col c → s.nearOk (.col c) (memAddr a o s) 8 → s.access l = .open_ → s.nearSa (.col c) (memAddr a o s).toNat = true →
    s.presence l = none →
    ∃ t, exec (.std d a o) s = .next t ∧ t.presence l = some .full ∧ (t.cpu (.col c)).near.rawWord (l.addr / 8) = s.g d ∧
      (∀ x, x / 8 ≠ l.addr / 8 → (t.cpu (.col c)).near.byte x = (s.cpu (.col c)).near.byte x) ∧
      (∀ x : Loc, x.addr / 8 ≠ l.addr / 8 → t.presence x = s.presence x) ∧
      (∀ m r, t.reg m r = s.reg m r) ∧ t.pc (.col c) = s.pc (.col c) + 4) ∧
  (∀ (s : State) (d a : BitVec 5) (c : ColId),
    let l := s.nearAt (.col c) (s.g a)
    s.memWf → s.focus = .col c → s.nearOk (.col c) (s.g a) 8 → s.access l = .open_ →
    (s.nearSa (.col c) (s.g a).toNat = true →
      exec (.tstsa d a) s = .next (s.ret d (match s.presence l with | none => 0 | some .full => 1 | some .tainted => 2)) ∧
      (s.presence l = none → ∃ t, exec (.stsa d a) s = .next t ∧ t.reg (.col c) d = 0 ∧ t.presence l = some .full ∧
        (t.cpu (.col c)).near.rawWord (l.addr / 8) = s.g d ∧ sameRegs s t (.col c) d ∧ t.pc (.col c) = s.pc (.col c) + 4 ∧
        ∀ x, x / 8 ≠ l.addr / 8 → (t.cpu (.col c)).near.byte x = (s.cpu (.col c)).near.byte x) ∧
      (∀ p, s.presence l = some p → exec (.stsa d a) s = .next (s.ret d (if p = .full then 1 else 2)))) ∧
    (s.nearSa (.col c) (s.g a).toNat = false →
      exec (.tstsa d a) s = .next (s.ret d 3) ∧ faultsWith (.stsa d a) s (.at_ .saDiscipline (s.g a))))

/-- R221, R205; R221, R205; R222: One step of `clrsa` on a range of single-assignment words empties the next word; before the last one it stays at the instruction, and after it it goes on. A range with another word faults and clears nothing. A step of `clrsa` goes on, however far it has come: in the near store for every range of single-assignment words, and wherever the next word is one of a range that its check found to be single-assignment words; the next word is empty then, and the instruction ends with the last one. `watch` registers an empty word, answers 1 for a full one, whose class-15 message with the word's address, value, tag and kind is queued at once, 2 when 16 watches are held, and 3 for a word that is not single-assignment; in the near store and in device memory. -/
def Obligations.ClearAndWatchSingleAssignment : Prop :=
  (∀ (s : State) (a : BitVec 5) (k : BitVec 11) (c : ColId),
    s.focus = .col c → (s.cpu (.col c)).clr = none → s.nearOk (.col c) (s.g a) 8 →
    ((∀ j, j < clrsaCount k → s.nearOk (.col c) (s.g a + BitVec.ofNat 64 (8 * j)) 8 ∧ s.nearSa (.col c) (s.g a + BitVec.ofNat 64 (8 * j)).toNat = true) →
      ∃ t, exec (.clrsa a k) s = .next t ∧ t.presence (s.nearAt (.col c) (s.g a)) = none ∧
        (∀ x : Loc, x.addr / 8 ≠ (s.nearAt (.col c) (s.g a)).addr / 8 → t.presence x = s.presence x) ∧
        (∀ m r, t.reg m r = s.reg m r) ∧ sameMemory s t ∧
        (clrsaCount k = 1 → t.pc (.col c) = s.pc (.col c) + 4 ∧ (t.cpu (.col c)).clr = none) ∧
        (1 < clrsaCount k → t.pc (.col c) = s.pc (.col c) ∧ (t.cpu (.col c)).clr = some 1)) ∧
    (s.nearSa (.col c) (s.g a).toNat = false → faultsWith (.clrsa a k) s (.at_ .saDiscipline (s.g a)))) ∧
  (∀ (s : State) (a : BitVec 5) (k : BitVec 11),
    let n := s.focus
    let j := ((s.cpu n).clr).getD 0
    let word (i : Nat) : DWord := s.g a + BitVec.ofNat 64 (8 * i)
    let after (f : State) (l : Loc) : State :=
      if j + 1 < clrsaCount k then (f.setPresence l none).modCpu n fun u => { u with clr := some (j + 1) }
      else ((f.setPresence l none).modCpu n fun u => { u with clr := none }).setPc n (f.pc n + 4)
    (∀ c, n = .col c → j < clrsaCount k →
      (∀ i, i < clrsaCount k → s.nearOk n (word i) 8 ∧ s.nearSa n (word i).toNat = true) →
      exec (.clrsa a k) s = .next (after s (s.nearAt n (word j)))) ∧
    (∀ (e f : State) (l : Loc), (s.g a).toNat % 8 = 0 → bitsNat (s.g a) 63 60 = 8 → (j = 0 → s.clrsaCheck (s.g a) (clrsaCount k) = (none, e)) →
      (j ≠ 0 → e = s) → e.saPlace n (word j) true = (.ok (some l), f) → exec (.clrsa a k) s = .next (after f l))) ∧
  (∀ (s : State) (d a : BitVec 5) (tag : BitVec 11) (c : ColId) (l : Loc) (sa : Bool) (f : State),
    let n := Node.col c
    let x := f.col c
    let near : Prop := s.nearOk n (s.g a) 8 ∧ s.nearSound n l ∧ l = s.nearAt n (s.g a) ∧ sa = s.nearSa n (s.g a).toNat ∧ f = s
    let dev : Prop := (s.g a).toNat % 8 = 0 ∧ bitsNat (s.g a) 63 60 = 8 ∧ s.saPlace n (s.g a) false = (.ok (if sa then some l else none), f) ∧ l.space = .dev ∧
      f.hub.dev.isBad (l.addr / 64) = false
    s.focus = .col c → (near ∨ dev) →
    (sa = false → exec (.watch d a tag) s = .next (f.done n d 3)) ∧
    (sa = true → f.presence l = none → 16 ≤ x.watches.length + x.fired.length → exec (.watch d a tag) s = .next (f.done n d 2)) ∧
    (sa = true → f.presence l = none → x.watches.length + x.fired.length < 16 →
      ∃ t w, exec (.watch d a tag) s = .next t ∧ t.reg n d = 0 ∧ (t.col c).watches = x.watches ++ [w] ∧ w.addr = s.g a ∧ w.loc = l ∧
        w.tag = tag ∧ sameRegs f t n d ∧ sameMemory f t ∧ t.pc n = f.pc n + 4) ∧
    (∀ p, sa = true → f.presence l = some p →
      ∃ t, exec (.watch d a tag) s = .next t ∧ t.reg n d = (if d = 0 then 0 else 1) ∧ (t.col c).watches = x.watches ∧ (t.col c).fired = x.fired ∧
        sameRegs f t n d ∧ sameMemory f t ∧ ((f.cpu n).armed 15 = true → t.pc n = f.pc n + 4) ∧
        ((f.cpu n).armed 15 = true → f.finished n = false → (f.cpu n).pendCount < 64 → (f.cpu n).selfq = [] →
          ∃ m, (t.cpu n).pend = (f.cpu n).pend ++ [m] ∧ m.cls = 15 ∧ m.g1 = s.g a ∧
            m.g2 = (match l.space with | .dev => f.hub.dev.rawWord (l.addr / 8) | _ => (s.cpu n).near.rawWord (l.addr / 8)) ∧
            m.g3 = BitVec.ofNat 64 (tag.toNat + (if p = .tainted then 2 else 1) * 2 ^ 16))))

/-- R136, R143, R223: an atomic on a plain near-store word, once the earlier accesses have performed for its scope, gives the old value, sign-extended, and leaves the operation's result there in the same step; no other byte and no other register differs. -/
def Obligations.AtomicsReadAndWriteAtOneInstant : Prop :=
  ∀ (s : State) (d a b : BitVec 5) (w : BitVec 1) (sc : BitVec 2) (i : Instr) (f : (n : Nat) → BitVec n → BitVec n → BitVec n → BitVec n),
    (i, f) ∈ atomicForms d a b w sc →
    let n := s.focus
    let bytes := if w = 1 then 8 else 4
    let l := s.nearAt n (s.g a)
    let e := s.drainFor n (match sc.toNat with | 0 => .col | 1 => .stack | 2 => .pkg | _ => .sys)
    let old := e.seenNat n l bytes
    s.nearOk n (s.g a) bytes → s.nearSa n (s.g a).toNat = false → e.nearSound n l → s.nodeAccess n l = .open_ → e.memWf →
    ∃ t, exec i s = .next t ∧ t.reg n d = (if d = 0 then 0 else extended old bytes true) ∧
      t.seenNat n l bytes = (f (8 * bytes) (BitVec.ofNat _ old) (BitVec.setWidth _ (s.g b)) (BitVec.setWidth _ (s.g d))).toNat ∧
      (∀ x : Loc, x.outside l bytes → t.seen n x = e.seen n x) ∧ (t.cpu n).storeQ = [] ∧ sameRegs s t n d ∧ t.pc n = s.pc n + 4

/-- R111, R114, R224; R224: `vldd` gives the vertical word, and zero with TAINT where its bus is retired or the word is uncorrectable; `vstd` writes it and no other byte; an address outside the apertures or not 8-byte aligned faults "vertical range"; with no slot of the layer's port free for the sequencer, the form waits for one (R71, R113). `vcpy` copies the sixteen words of a granule, either way, between an open plain near-store range and an open vertical granule that is on. -/
def Obligations.VerticalForms : Prop :=
  (∀ (s : State) (d a : BitVec 5) (c : ColId), s.focus = .col c →
    (vertLoc c (s.g a) 8 = none → faultsWith (.vldd d a) s (.at_ .verticalRange (s.g a)) ∧ faultsWith (.vstd d a) s (.at_ .verticalRange (s.g a))) ∧
    ∀ l, vertLoc c (s.g a) 8 = some l → s.asleep l = false → s.access l = .open_ → (s.col c).errinj = 0 →
      (s.seqSlot c (vLayer l.addr) = none → ∀ i ∈ [Instr.vldd d a, .vstd d a], ∃ t, exec i s = .next t ∧ (∀ m r, t.reg m r = s.reg m r) ∧ sameMemory s t ∧
        t.pc (.col c) = s.pc (.col c) ∧ (t.cpu (.col c)).ready = s.now + 1) ∧
      ((s.seqSlot c (vLayer l.addr)).isSome = true →
      let retired := (s.col c).vret.getLsbD (vLayer l.addr)
      let bad := retired || (s.col c).vert.isBad (l.addr / 8)
      (∃ t, exec (.vldd d a) s = .next t ∧ t.reg (.col c) d = (if d = 0 ∨ bad = true then 0 else (s.col c).vert.rawWord (l.addr / 8)) ∧
        (t.cpu (.col c)).taint = ((s.cpu (.col c)).taint || bad) ∧ sameRegs s t (.col c) d ∧ sameMemory s t ∧ t.pc (.col c) = s.pc (.col c) + 4) ∧
      (s.memWf → ∃ t, exec (.vstd d a) s = .next t ∧
        (t.col c).vert.rawWord (l.addr / 8) = (if retired = true then (s.col c).vert.rawWord (l.addr / 8) else s.g d) ∧
        (∀ x, x / 8 ≠ l.addr / 8 → (t.col c).vert.byte x = (s.col c).vert.byte x) ∧ (∀ m r, t.reg m r = s.reg m r) ∧
        (∀ m, (t.cpu m).near = (s.cpu m).near) ∧ t.pc (.col c) = s.pc (.col c) + 4))) ∧
  (∀ (s : State) (d a : BitVec 5) (c : ColId) (l : Loc),
    let near (j : Nat) : Loc := s.nearAt (.col c) (s.g d + BitVec.ofNat 64 (8 * j))
    s.memWf → s.focus = .col c → vertLoc c (s.g a) 128 = some l → s.asleep l = false → s.access l = .open_ → (s.col c).errinj = 0 →
    (s.seqSlot c (vLayer l.addr)).isSome = true → (s.col c).vret = 0 → (s.g d).toNat % 128 = 0 → (s.cpu (.col c)).storeQ = [] →
    (∀ j, j < 16 → s.nearOk (.col c) (s.g d + BitVec.ofNat 64 (8 * j)) 8 ∧ s.nearSa (.col c) (s.g d + BitVec.ofNat 64 (8 * j)).toNat = false ∧
      s.access (near j) = .open_ ∧ (s.cpu (.col c)).near.isBad ((near j).addr / 8) = false ∧ (s.col c).vert.isBad (l.addr / 8 + j) = false) →
    (∃ t, exec (.vcpy d a 0) s = .next t ∧ (∀ j, j < 16 → (t.cpu (.col c)).near.rawWord ((near j).addr / 8) = (s.col c).vert.rawWord (l.addr / 8 + j)) ∧
      (∀ m r, t.reg m r = s.reg m r) ∧ (∀ x, (t.col c).vert.byte x = (s.col c).vert.byte x) ∧ t.pc (.col c) = s.pc (.col c) + 4) ∧
    (∃ t, exec (.vcpy d a 1) s = .next t ∧ (∀ j, j < 16 → (t.col c).vert.rawWord (l.addr / 8 + j) = (s.cpu (.col c)).near.rawWord ((near j).addr / 8)) ∧
      (∀ m r, t.reg m r = s.reg m r) ∧ (∀ x, (t.cpu (.col c)).near.byte x = (s.cpu (.col c)).near.byte x) ∧ t.pc (.col c) = s.pc (.col c) + 4))

/-- R181, R226; R227, R229, R230, R344; R18, R226 to R230: Each of the four forms gives the register's old value, and the writing ones write g(a), its union with the old value, or the old value without g(a); a number outside the map is illegal, and a supervisor register in user mode is privileged. What the control registers of a column's sequencer read as, and which numbers there are. A write reaches the writable fields of its register and leaves every general register and the memories as they were; the read-only registers do not change. -/
def Obligations.ControlRegisterFormsAndFields : Prop :=
  (∀ (s : State) (d a : BitVec 5) (k : BitVec 11),
    let n := s.focus
    let old := s.readCr n k.toNat
    (s.crCause k.toNat = none →
      exec (.crd d k) s = .next (s.ret d old) ∧ exec (.cwr d a k) s = .next ((s.writeCr n k.toNat (s.g a)).done n d old) ∧
      exec (.cset d a k) s = .next ((s.writeCr n k.toNat (old ||| s.g a)).done n d old) ∧
      exec (.cclr d a k) s = .next ((s.writeCr n k.toNat (old &&& ~~~(s.g a))).done n d old)) ∧
    (∀ i ∈ [Instr.crd d k, .cwr d a k, .cset d a k, .cclr d a k],
      (isUserReg k.toNat = false → isSupReg k.toNat = false → faultsWith i s (.plain .illegal)) ∧
      (isSupReg k.toNat = true → (s.cpu n).sup = false → faultsWith i s (.plain .privileged))) ∧
    (isUserReg k.toNat = true ∨ (isSupReg k.toNat = true ∧ (s.cpu n).sup = true) → s.crCause k.toNat = none)) ∧
  (∀ (s : State) (c : ColId),
    let n := Node.col c
    let u := s.cpu n
    let x := s.col c
    s.readCr n 0x000 = (s.stack (stackOf c)).cyc ∧ s.readCr n 0x001 = BitVec.setWidth 64 u.lclk ∧ s.readCr n 0x002 = BitVec.setWidth 64 u.task ∧
    s.readCr n 0x003 = BitVec.setWidth 64 u.xid ∧ (s.readCr n 0x004).getLsbD 0 = u.taint ∧
    (s.readCr n 0x005).toNat = c.val + c.val / 64 * 256 ∧ s.readCr n 0x007 = BitVec.ofNat 64 (x.drift.hosted % 65536) ∧
    s.readCr n 0x008 = u.ewsel ∧ s.readCr n 0x009 = BitVec.setWidth 64 u.dropmsg ∧
    (∀ k : Fin 20, s.readCr n (0x010 + k.val) = BitVec.setWidth 64 (u.hte.get k)) ∧
    s.readCr n 0x400 = BitVec.ofNat 64 ((if u.sup then 1 else 0) + (if u.psup then 2 else 0) + if u.halt then 4 else 0) ∧
    s.readCr n 0x401 = u.epc ∧ s.readCr n 0x402 = u.ecause ∧ s.readCr n 0x403 = u.evec ∧ s.readCr n 0x404 = x.ptb ∧
    s.readCr n 0x406 = BitVec.setWidth 64 x.nsmap ∧ s.readCr n 0x407 = BitVec.setWidth 64 x.nssa ∧ s.readCr n 0x408 = u.ebad ∧
    s.readCr n 0x420 = BitVec.setWidth 64 x.ecorr ∧ s.readCr n 0x421 = BitVec.setWidth 64 x.euncor ∧
    s.readCr n 0x431 = BitVec.setWidth 64 x.vret ∧ s.readCr n 0x433 = x.errinj ∧
    (∀ k, isUserReg k = true ↔ k ≤ 9 ∨ (0x10 ≤ k ∧ k ≤ 0x23) ∨
      (0x40 ≤ k ∧ k ≤ 0x53) ∨ (0x58 ≤ k ∧ k ≤ 0x62) ∨ (0x64 ≤ k ∧ k ≤ 0x6A)) ∧
    ∀ k, isSupReg k = true ↔ (0x400 ≤ k ∧ k ≤ 0x408) ∨ (0x410 ≤ k ∧ k ≤ 0x417) ∨ k = 0x420 ∨ k = 0x421 ∨ (0x430 ≤ k ∧ k ≤ 0x433)) ∧
  (∀ (s : State) (c : ColId) (v : DWord),
    let n := Node.col c
    (∀ k, k < 4 ∨ k = 5 ∨ k = 6 ∨ k = 7 ∨ k = 9 → s.writeCr n k v = s) ∧
    ((s.writeCr n 4 v).cpu n).taint = v.getLsbD 0 ∧ ((s.writeCr n 8 v).cpu n).ewsel = v &&& 0x31F#64 ∧
    (∀ k : Fin 20, ((s.writeCr n (0x10 + k.val) v).cpu n).hte.get k = BitVec.setWidth 32 v &&& 0xCF01FFFC#32) ∧
    (let t := s.writeCr n 0x400 v; (t.cpu n).sup = v.getLsbD 0 ∧ (t.cpu n).psup = v.getLsbD 1 ∧ (t.cpu n).halt = (s.cpu n).halt) ∧
    ((s.writeCr n 0x401 v).cpu n).epc = v ∧ ((s.writeCr n 0x402 v).cpu n).ecause = v &&& 0x7FFFF#64 ∧
    ((s.writeCr n 0x403 v).cpu n).evec = v &&& ~~~3#64 ∧ ((s.writeCr n 0x408 v).cpu n).ebad = v ∧
    ((s.writeCr n 0x407 v).col c).nssa = BitVec.setWidth 16 v ∧
    ((s.writeCr n 0x406 v).col c).nsmap = (if (s.col c).band.isSome then (s.col c).nsmap else BitVec.setWidth 16 v) ∧
    ∀ k, (∀ m r, (s.writeCr n k v).reg m r = s.reg m r) ∧ ∀ m, (s.writeCr n k v).pc m = s.pc m)

/-- R18, R20, R33, R239, R240: `end` leaves the sequencer idle, and `end final` marks its stage finished; `armh` binds or unbinds one class and answers the old entry; `maskh` and `unmaskh` set or clear the masks of a set of classes and answer the old ones, `maskh` sparing class 19 in user mode; `raise` queues a message of the column to itself, or answers 1 while 64 are pending. -/
def Obligations.HandlerForms : Prop :=
  ∀ (s : State) (c : ColId) (d a : BitVec 5) (k : BitVec 1) (p : BitVec 4) (cl : BitVec 5) (f : BitVec 1), s.focus = .col c → cl.toNat ≤ 19 →
    let n := Node.col c
    let u := s.cpu n
    let cf := fin 19 cl.toNat
    (∃ t, exec (.end_ f) s = .next t ∧ (t.cpu n).busy = false ∧ (∀ m r, t.reg m r = s.reg m r) ∧ t.pc n = s.pc n ∧ (t.cpu n).pend = u.pend ∧
      (t.col c).band = (if f = 1 then (s.col c).band.map fun b => { b with finished := true } else (s.col c).band)) ∧
    ((s.g a).toNat % 4 = 0 → (s.g a).toNat < 0x18000 → s.nearCause n (s.g a).toNat = none →
      ∃ t, exec (.armh d a 0 k p cl) s = .next t ∧ t.reg n d = (if d = 0 then 0 else BitVec.setWidth 64 (u.hte.get cf)) ∧
        (t.cpu n).armed cl.toNat = true ∧ (t.cpu n).entry cl.toNat = s.g a ∧ (t.cpu n).masked cl.toNat = u.masked cl.toNat ∧
        (t.cpu n).prio cl.toNat = (if k = 1 then u.prio cl.toNat else p.toNat) ∧ (∀ j, j ≠ cf → (t.cpu n).hte.get j = u.hte.get j) ∧
        sameRegs s t n d ∧ t.pc n = s.pc n + 4) ∧
    (s.g a = 0 → ∃ t, exec (.armh d a 1 k p cl) s = .next t ∧ t.reg n d = (if d = 0 then 0 else BitVec.setWidth 64 (u.hte.get cf)) ∧
        (t.cpu n).armed cl.toNat = false ∧ (t.cpu n).entry cl.toNat = u.entry cl.toNat ∧ (∀ j, j ≠ cf → (t.cpu n).hte.get j = u.hte.get j) ∧
        sameRegs s t n d ∧ t.pc n = s.pc n + 4) ∧
    ((s.g a).toNat < 2 ^ 20 → ∀ i b, (i, b) ∈ [(Instr.maskh d a, true), (.unmaskh d a, false)] →
      ∃ t, exec i s = .next t ∧
        (∀ j, j < 20 → (t.cpu n).masked j = (if (s.g a).getLsbD j = true ∧ ¬(b = true ∧ j = 19 ∧ u.sup = false) then b else u.masked j)) ∧
        (∀ j, j < 20 → (t.cpu n).armed j = u.armed j ∧ (t.cpu n).entry j = u.entry j ∧ (t.cpu n).prio j = u.prio j) ∧
        (d ≠ 0 → ∀ j, j < 20 → (t.reg n d).getLsbD j = u.masked j) ∧ sameRegs s t n d ∧ t.pc n = s.pc n + 4) ∧
    (64 ≤ u.pend.length + u.grants → exec (.raise d a cl) s = .next (s.ret d 1)) ∧
    (u.pend.length + u.grants < 64 → s.finished n = false → u.armed cl.toNat = true →
      ∃ t m, exec (.raise d a cl) s = .next t ∧ t.reg n d = 0 ∧ (t.cpu n).pend = u.pend ++ [m] ∧ m.cls = cl ∧ m.src = ⟨false, BitVec.ofNat 8 c.val⟩ ∧
        m.g1 = s.g a ∧ m.g2 = s.g (a + 1) ∧ m.g3 = s.g (a + 2) ∧ (t.cpu n).lclk = u.lclk + 1 ∧ (t.cpu n).storeQ = [] ∧
        sameRegs s t n d ∧ t.pc n = s.pc n + 4)

/-- R235 to R238; R238, R346: `send`, `reply` and `bcast` read their payload from the near store and put one entry with their targets into the outbound queue, stamped with the raised Lamport clock; `sendi` sends g(a) to g(a+2) and a zero word; with 16 messages queued each answers 1 and does nothing else. `post` writes a 64-byte record of KIND 0 with its code and the 32 bytes at its address into the partition's event queue, advances TAIL and signals; without room it answers 1 and does nothing else. -/
def Obligations.MessageFormsAndPost : Prop :=
  (∀ (s f : State) (c : ColId) (d a : BitVec 5) (x l : BitVec 3) (cl : BitVec 5) (ws : List DWord) (tt : Bool), s.focus = .col c →
    let n := Node.col c
    let u := s.cpu n
    let v := s.g a
    let sent (i : Instr) (ts : List Target) (words : List DWord) (tnt : Bool) (sub : BitVec 4) (e : State) : Prop :=
      ∃ t o, exec i s = .next t ∧ t.reg n d = 0 ∧ (t.cpu n).outq = (e.cpu n).outq ++ [o] ∧ o.dests = ts ∧ o.msg.words = words ∧ o.msg.cls = cl ∧
        o.msg.sub = sub ∧ o.msg.taint = tnt ∧ o.msg.src = ⟨false, BitVec.ofNat 8 c.val⟩ ∧ o.msg.stamp = (e.cpu n).lclk + 1 ∧
        (t.cpu n).lclk = (e.cpu n).lclk + 1 ∧ sameRegs e t n d ∧ t.pc n = e.pc n + 4
    (u.outq.length < 16 → s.readStruct n (BitVec.ofNat 64 (bitsNat v 16 0)) (4 * (l.toNat + 1)) 32 = .ok (ws, tt, f) →
      (∀ tg, s.descOk v (l.toNat + 1) false true = .ok () → s.targetOf (bitsNat v 47 32) = some tg →
        sent (.send d a x l cl) [tg] ws tt (BitVec.setWidth 4 x) f) ∧
      (s.descOk v (l.toNat + 1) false false = .ok () → u.task.getLsbD 13 = false →
        sent (.reply d a x l cl) [.col (fin 255 (bitsNat u.task 7 0))] ws tt (BitVec.setWidth 4 x) f) ∧
      (∀ b, s.descOk v (l.toNat + 1) true true = .ok () → (s.col c).band = some b →
        sent (.bcast d a x l cl) ((countFrom (bitsNat v 47 32) (if bitsNat v 63 48 = 0 then b.size - bitsNat v 47 32 else bitsNat v 63 48)).filterMap
          fun i => s.targetOf i) ws tt (BitVec.setWidth 4 x) f)) ∧
    (u.outq.length < 16 → ∀ tg, (s.g d).toNat < 2 ^ 16 → s.targetOf (s.g d).toNat = some tg →
      sent (.sendi d a cl) [tg] [s.g a, s.g (a + 1), s.g (a + 2), 0] false 0 s) ∧
    (16 ≤ u.outq.length →
      (∀ tg, s.descOk v (l.toNat + 1) false true = .ok () → s.targetOf (bitsNat v 47 32) = some tg → exec (.send d a x l cl) s = .next (s.ret d 1)) ∧
      (s.descOk v (l.toNat + 1) true true = .ok () → exec (.bcast d a x l cl) s = .next (s.ret d 1)) ∧
      (s.descOk v (l.toNat + 1) false false = .ok () → u.task.getLsbD 13 = false → exec (.reply d a x l cl) s = .next (s.ret d 1)) ∧
      ∀ tg, (s.g d).toNat < 2 ^ 16 → s.targetOf (s.g d).toNat = some tg → exec (.sendi d a cl) s = .next (s.ret d 1))) ∧
  (∀ (s f : State) (c : ColId) (d a : BitVec 5) (k : BitVec 8) (ws : List DWord) (tt : Bool), s.focus = .col c →
    let p := s.partOf (.col c)
    let v := s.g a
    s.descOk v 1 false false = .ok () →
    (s.hub.evFree p = 0 → exec (.post d a k) s = .next (s.ret d 1)) ∧
    (s.hub.evFree p ≠ 0 → s.readStruct (.col c) (BitVec.ofNat 64 (bitsNat v 16 0)) 4 32 = .ok (ws, tt, f) → ws.length = 4 → s.memWf →
      let e := f.drainFor (.col c) .sys
      e.memWf → (∀ q, e.hub.reg q = s.hub.reg q) → e.hub.evTail = s.hub.evTail →
      let ring := bitsNat (s.hub.reg (partReg p 0x100)) 45 12 * 4096 + 64 * (s.hub.evTail.get p).toNat
      let size := bitsNat (s.hub.reg (partReg p 0x108)) 3 0
      ∃ t, exec (.post d a k) s = .next t ∧ t.reg (.col c) d = 0 ∧ t.hub.dev.byte ring = 0 ∧ t.hub.dev.byte (ring + 1) = k ∧
        (∀ j, j < 32 → t.hub.dev.byte (ring + 32 + j) = byteOf (wordAt ws (j / 8)) j) ∧
        (∀ x, x < ring ∨ ring + 64 ≤ x → t.hub.dev.byte x = e.hub.dev.byte x) ∧
        (t.hub.evTail.get p).toNat = ((s.hub.evTail.get p).toNat + 1) % 2 ^ size ∧ t.hub.evHeld = e.hub.evHeld ∧
        t.hub.signals = e.hub.signals ++ [.msi (s.hub.reg (partReg p 0x120)) (s.hub.reg (partReg p 0x128) &&& 0xFFFFFFFF#64)] ∧
        t.pc (.col c) = e.pc (.col c) + 4 ∧ ∀ m r, m ≠ .col c ∨ r ≠ d → t.reg m r = e.reg m r))

/-- R27, R30, R59, R242 to R244: the configuration forms on a live context that `ewsel` selects, and `cfgl`: each gives its old value or status 0 with its effect, and all ones or its status with no effect where the context is not live or the resource is taken. -/
def Obligations.ConfigurationForms : Prop :=
  ∀ (s : State) (c : ColId) (d a : BitVec 5) (i : BitVec 3) (p : BitVec 2) (sel : BitVec 6) (f : BitVec 4) (k : BitVec 5) (w : BitVec 11),
    s.focus = .col c →
    let n := Node.col c
    let r := s.selected c
    let x := s.ctx r
    (x.isLive s.now = false → (s.g a).toNat < 2 ^ 32 → exec (.cfge d a i) s = .next (s.ret d (BitVec.allOnes 64))) ∧
    (x.isLive s.now = false → exec (.ctxi d sel) s = .next (s.ret d (BitVec.allOnes 64))) ∧
    (x.isLive s.now = true → (s.g a).toNat < 2 ^ 32 → i.toNat < hLen x.hdr →
      progOk x.hdr ((vset x.prog (fin 7 i.toNat) (BitVec.setWidth 32 (s.g a))).toList.take (hLen x.hdr)) = true →
      ∃ t, exec (.cfge d a i) s = .next t ∧ t.reg n d = (if d = 0 then 0 else BitVec.setWidth 64 (x.prog.get (fin 7 i.toNat))) ∧
        t.ctx r = { x with prog := vset x.prog (fin 7 i.toNat) (BitVec.setWidth 32 (s.g a)), dirty := true } ∧
        (∀ q, q ≠ r → t.ctx q = s.ctx q) ∧ sameRegs s t n d ∧ sameMemory s t ∧ t.pc n = s.pc n + 4) ∧
    ((s.g a).toNat < 2 ^ 16 → (x.routes.get (fin 3 p.toNat))[i.toNat]? = none → exec (.cfgw d a p i) s = .next (s.ret d (BitVec.allOnes 64))) ∧
    (∀ old, (s.g a).toNat < 2 ^ 16 → (x.routes.get (fin 3 p.toNat))[i.toNat]? = some old → x.isLive s.now = true → (swOf old).form ≠ 7 →
      bitsNat (s.g a) 15 12 ≠ 7 →
      s.routesOk r x.hdr x.words (vset x.routes (fin 3 p.toNat) (modNth (fun _ => BitVec.setWidth 16 (s.g a)) i.toNat (x.routes.get (fin 3 p.toNat)))) = true →
      ∃ t, exec (.cfgw d a p i) s = .next t ∧ t.reg n d = (if d = 0 then 0 else BitVec.setWidth 64 old) ∧
        ((t.ctx r).routes.get (fin 3 p.toNat))[i.toNat]? = some (BitVec.setWidth 16 (s.g a)) ∧ sameRegs s t n d ∧ t.pc n = s.pc n + 4) ∧
    (x.isLive s.now = true → sel.getLsbD 4 = false →
      ∃ t, exec (.ctxi d sel) s = .next t ∧ t.reg n d = 0 ∧
        (t.ctx r).v = (if sel.getLsbD 0 then vfill 8 0 else x.v) ∧ (t.ctx r).acc = (if sel.getLsbD 1 then vfill 2 (vfill 8 0) else x.acc) ∧
        (t.ctx r).accTaint = (if sel.getLsbD 1 then vfill 2 0 else x.accTaint) ∧
        (t.ctx r).m = (if sel.getLsbD 2 then vfill 4 0xFFFFFFFF#32 else x.m) ∧ (t.ctx r).stall = (if sel.getLsbD 3 then vfill 5 0 else x.stall) ∧
        (t.ctx r).blame = (if sel.getLsbD 3 then 0 else x.blame) ∧ (t.ctx r).q = x.q ∧ (t.ctx r).c = x.c ∧ (t.ctx r).hdr = x.hdr ∧
        (∀ q, q ≠ r → t.ctx q = s.ctx q) ∧ sameRegs s t n d ∧ sameMemory s t ∧ t.pc n = s.pc n + 4) ∧
    ((s.g a).toNat < 2 ^ 13 → regionOf (s.g a) = none → exec (.mode d a f) s = .next (s.ret d 2)) ∧
    (∀ q, (s.g a).toNat < 2 ^ 13 → regionOf (s.g a) = some q → q.Nodup →
      (∀ e ∈ q, (s.ctx ⟨c, e.1, e.2⟩).isLive s.now = true ∧ hRole (s.ctx ⟨c, e.1, e.2⟩).hdr = (if (s.g a).getLsbD 12 then .cp else .sy)) →
      ∃ t, exec (.mode d a f) s = .next t ∧ t.reg n d = 0 ∧
        (∀ e ∈ q, (t.ctx ⟨c, e.1, e.2⟩).hdr = putField (s.ctx ⟨c, e.1, e.2⟩).hdr 30 (if (s.g a).getLsbD 12 then 3#2 else 0#2)) ∧
        (∀ e k, (e, k) ∉ q → t.ctx ⟨c, e, k⟩ = s.ctx ⟨c, e, k⟩) ∧ sameRegs s t n d ∧ t.pc n = s.pc n + 4) ∧
    ((s.g a).toNat < 2 ^ 12 → (s.col c).wpre.isSome = true → exec (.wpre d a w) s = .next (s.ret d 1)) ∧
    (∀ q, (s.g a).toNat < 2 ^ 12 → (s.col c).wpre = none → regionOf (s.g a) = some q → q.Nodup →
      (∀ e ∈ q, (s.ctx ⟨c, e.1, e.2⟩).isLive s.now = true ∧ hRole (s.ctx ⟨c, e.1, e.2⟩).hdr = .sy) →
      ∃ t, exec (.wpre d a w) s = .next t ∧ t.reg n d = 0 ∧ (t.col c).wpre = some ⟨q, if w = 0 then 2048 else w.toNat, 0⟩ ∧
        (∀ e ∈ q, (t.ctx ⟨c, e.1, e.2⟩).wcnt = if w = 0 then 2048 else w.toNat) ∧ sameRegs s t n d ∧ t.pc n = s.pc n + 4) ∧
    (∀ nn, bitsNat (s.g a) 63 48 = 0 → bitsNat (s.g a) 31 17 = 0 → nn = bitsNat (s.g a) 47 32 → nn ≠ 0 → bitsNat (s.g a) 2 0 = 0 →
      s.nearCause n (bitsNat (s.g a) 16 0) = none → s.nearCause n (bitsNat (s.g a) 16 0 + 40 * nn - 1) = none →
      ((s.col c).cfgl.isSome = true → exec (.cfgl d a k) s = .next (s.ret d 1)) ∧
      ((s.col c).cfgl = none → ∃ t j, exec (.cfgl d a k) s = .next t ∧ t.reg n d = 0 ∧
        (t.col c).cfgl = some ⟨bitsNat (s.g a) 16 0, nn, 0, s.now, k, none, [], j, (s.cpu n).lclk⟩ ∧ j ∈ (t.col c).jobs ∧ sameRegs s t n d ∧ sameMemory s t ∧ t.pc n = s.pc n + 4))

/-- R45, R119, R245: `strm` starts a stream on a live AG context from a descriptor that R119 accepts, with its iterators zero, and answers 1, 2 or 3 where it does not; `stop` and `armc` answer the elements issued and the old section count. -/
def Obligations.StreamForms : Prop :=
  ∀ (s f : State) (c : ColId) (d a e : BitVec 5) (k : BitVec 2) (ws : List DWord) (tt : Bool), s.focus = .col c →
    let n := Node.col c
    let r : CtxRef := ⟨c, fin 31 e.toNat, fin 3 k.toNat⟩
    (s.readStruct n (s.g a) 4 8 = .ok (ws, tt, f) →
      let m := streamOf ws (s.g a).toNat f.now
      let resv := (f.col c).resv.any fun q => q.2.1 == r.elem.val && q.2.2 == r.ctx.val
      ((f.ctx r).isLive f.now = false ∨ hRole (f.ctx r).hdr ≠ .ag → exec (.strm d a k e) s = .next (f.done n d 3)) ∧
      ((f.ctx r).isLive f.now = true → hRole (f.ctx r).hdr = .ag → (f.ctx r).strm.isSome = true → exec (.strm d a k e) s = .next (f.done n d 1)) ∧
      ((f.ctx r).isLive f.now = true → hRole (f.ctx r).hdr = .ag → (f.ctx r).strm = none → m.descOk (f.bindings c) = false →
        exec (.strm d a k e) s = .next (f.done n d 2)) ∧
      (∀ w, (f.ctx r).isLive f.now = true → hRole (f.ctx r).hdr = .ag → (f.ctx r).strm = none → m.descOk (f.bindings c) = true →
        issuingWord ((f.ctx r).prog.toList.take (hLen (f.ctx r).hdr)) = some w → m.agrees (opOf w) resv = true →
        ∃ t st, exec (.strm d a k e) s = .next t ∧ t.reg n d = 0 ∧ (t.ctx r).strm = some { m with stamp := st } ∧ (t.ctx r).it = vfill 4 0 ∧
          (t.cpu n).storeQ = [] ∧ sameRegs f t n d ∧ t.pc n = f.pc n + 4)) ∧
    ((s.ctx r).strm = none → exec (.stop d k e) s = .next (s.ret d (BitVec.allOnes 64))) ∧
    (∀ m, (s.ctx r).strm = some m →
      ∃ t m', exec (.stop d k e) s = .next t ∧ t.reg n d = (if d = 0 then 0 else BitVec.ofNat 64 m.nElems) ∧ (t.ctx r).strm = some m' ∧
        m'.halt = (if m.allIssued then m.halt else .stopped) ∧ m'.nElems = m.nElems ∧ m'.reqs.length = m.reqs.length ∧ (t.ctx r).it = (s.ctx r).it ∧
        (∀ q, q ≠ r → t.ctx q = s.ctx q) ∧ sameRegs s t n d ∧ sameMemory s t ∧ t.pc n = s.pc n + 4) ∧
    ((s.g a).toNat < 2 ^ 32 →
      ∃ t, exec (.armc d a k e) s = .next t ∧ t.reg n d = (if d = 0 then 0 else BitVec.setWidth 64 (s.ctx r).sect) ∧
        t.ctx r = { s.ctx r with sect := BitVec.setWidth 32 (s.g a), dirty := true } ∧ (∀ q, q ≠ r → t.ctx q = s.ctx q) ∧ sameRegs s t n d ∧
        sameMemory s t ∧ t.pc n = s.pc n + 4)

/-- R39, R246 to R248: `inj` and `injm` place their records in order, one a cycle, in free slots of the hosted stage's injection port, or answer 1 and place nothing; `prime` also places the prime marker and raises the occupancy; `barr` starts the column's barrier, or answers 1 while one is pending. -/
def Obligations.InjectionAndBarrierForms : Prop :=
  ∀ (s f : State) (c : ColId) (d a : BitVec 5) (k : BitVec 4) (j : BitVec 3) (tag : BitVec 8) (b : BitVec 1), s.focus = .col c →
    let n := Node.col c
    (∀ i marker rs, (i, marker) ∈ [(Instr.inj d a k, false), (.injm d a k, true)] →
      s.structCause n (s.g a) (40 * k.toNat) 8 = .ok () → s.structShut n (s.g a).toNat (5 * k.toNat) = false →
      s.readRecords c (s.g a).toNat k.toNat = (rs, f) → (∀ r ∈ rs, imageOk r.1 marker = true ∧ (marker = true → injSub r.1 = true)) →
      (((f.col c).injFree < k.toNat ∨ (f.col c).injHeld = true) → exec i s = .next (f.done n d 1)) ∧
      (k.toNat ≤ (f.col c).injFree → (f.col c).injHeld = false →
        ∃ t l, exec i s = .next t ∧ t.reg n d = 0 ∧ t.flights = f.flights ++ l ∧ l.length = k.toNat ∧ rs.length = k.toNat ∧
          (∀ m, m < k.toNat → ∃ x r, l[m]? = some x ∧ rs[m]? = some r ∧ x.dest = .port (imagePort c r.1) ∧ x.tok.payload = r.2.1 ∧ x.tok.marker = marker ∧
            x.tok.taint = r.2.2 ∧ x.due = f.now + m + 1 ∧ x.cred = .inj c (f.col c).drift.hosted) ∧
          (t.col c).injFree = (f.col c).injFree - k.toNat ∧ sameRegs f t n d ∧ sameMemory f t ∧ t.pc n = f.pc n + 4)) ∧
    (∀ hw t0 w, s.structCause n (s.g a) (8 + 32 * j.toNat) 8 = .ok () → s.structShut n (s.g a).toNat (1 + 4 * j.toNat) = false →
      s.nearWords n (s.g a).toNat 1 = (hw, t0, f) → imageOk (wordAt hw 0) false = true →
      let p := imagePort c (wordAt hw 0)
      let c4 := (f.ctx p.at_).c.get 4
      (f.ctx p.at_).mergeWord = some w → (f.ctx p.at_).isLive f.now = true → portOf w.b = p.port →
      (bitsNat c4 15 0 ≤ bitsNat c4 31 16 + j.toNat → exec (.prime d a j) s = .next (s.seqFault n ⟨.primeLimit, none, BitVec.ofNat 64 (bitsNat c4 31 16)⟩)) ∧
      (bitsNat c4 31 16 + j.toNat < bitsNat c4 15 0 → (f.col c).injFree < j.toNat + 1 → exec (.prime d a j) s = .next (f.done n d 1)) ∧
      (bitsNat c4 31 16 + j.toNat < bitsNat c4 15 0 → j.toNat + 1 ≤ (f.col c).injFree → (f.col c).injHeld = false →
        ∃ t l x, exec (.prime d a j) s = .next t ∧ t.reg n d = 0 ∧ t.flights = f.flights ++ x :: l ∧ l.length = j.toNat ∧ x.tok.marker = true ∧ x.tok.sub = 3 ∧
          x.tok.payload = BitVec.ofNat 256 j.toNat ∧ x.dest = .port p ∧ (∀ y ∈ l, y.dest = .port p ∧ y.tok.marker = false) ∧
          bitsNat ((t.ctx p.at_).c.get 4) 31 16 = bitsNat c4 31 16 + j.toNat ∧ (t.col c).injFree = (f.col c).injFree - (j.toNat + 1) ∧
          t.pc n = s.pc n + 4)) ∧
    ((s.col c).barr.isSome = true → exec (.barr d tag b) s = .next (s.ret d 1)) ∧
    ((s.col c).barr = none → ∃ t y, exec (.barr d tag b) s = .next t ∧ t.reg n d = 0 ∧ (t.col c).barr = some y ∧ y.tag = tag ∧ y.band = decide (b = 1) ∧
      y.after = (s.cpu n).serial ∧ y.stamp = (s.cpu n).lclk ∧ y.jobs = (s.col c).jobs ∧ y.drained = false ∧ sameRegs s t n d ∧ sameMemory s t ∧ t.pc n = s.pc n + 4)

/-- R161 to R166, R171, R249 to R252: the frost forms: a load starts into a shadow that is not busy, an immediate swap needs a ready shadow, an armed one a shadow that is not empty, and a cancel an armed swap; `fgqy` reads the plane and the counters; `fgclr` and `femit` start unless one is in progress. -/
def Obligations.FrostForms : Prop :=
  ∀ (s : State) (c : ColId) (d a : BitVec 5) (k : BitVec 4) (x : BitVec 1), s.focus = .col c →
    let n := Node.col c
    let fb := (s.col c).fab
    let shadow := (fb.planes.get fb.shadow).st
    (2 ^ 28 ≤ (s.g a).toNat ∨ (s.g a).toNat % 128 ≠ 0 ∨ vertDecode (s.g a).toNat = none → faultsWith (.fgld d a) s (.at_ .verticalRange (s.g a))) ∧
    ((s.g a).toNat < 2 ^ 28 → (s.g a).toNat % 128 = 0 → (vertDecode (s.g a).toNat).isSome = true →
      (fb.busy = false → ∃ t l, exec (.fgld d a) s = .next t ∧ t.reg n d = 0 ∧ (t.col c).fab.load = some l ∧ l.plane = fb.shadow ∧ l.addr.toNat = (s.g a).toNat ∧
        (((t.col c).fab.planes.get fb.shadow).st = .loading) ∧ (t.col c).fab.planes.get fb.act = fb.planes.get fb.act ∧ (t.cpu n).storeQ = [] ∧
        sameRegs s t n d ∧ t.pc n = s.pc n + 4) ∧
      (fb.busy = true → ∃ t, exec (.fgld d a) s = .next t ∧ t.reg n d = (if d = 0 then 0 else 1) ∧ (t.col c).fab = fb ∧ sameRegs s t n d ∧
        ((s.cpu n).armed 16 = true → t.pc n = s.pc n + 4) ∧
        ((s.cpu n).armed 16 = true → s.finished n = false → (s.cpu n).pendCount < 64 → (s.cpu n).selfq = [] →
          ∃ m, (t.cpu n).pend = (s.cpu n).pend ++ [m] ∧ m.cls = 16 ∧ bitsNat m.g1 7 0 = 1 ∧ bitsNat m.g1 15 8 = 6))) ∧
    (shadow ≠ .ready → exec (.fgsw d 0 k 0) s = .next (s.ret d 1)) ∧
    (shadow = .ready → ∃ t, exec (.fgsw d 0 k 0) s = .next t ∧ t.reg n d = 0 ∧ (t.col c).fab.act = fb.shadow ∧ (t.col c).fab.armed = none ∧ (t.col c).fab.pos = 0 ∧
      (t.col c).fab.planes = fb.planes ∧ (t.col c).fab.pipe = fb.pipe ∧ sameRegs s t n d ∧ sameMemory s t ∧ t.pc n = s.pc n + 4) ∧
    (fb.armed.isSome = true ∨ shadow = .empty → exec (.fgsw d 0 k 1) s = .next (s.ret d 1)) ∧
    (fb.armed = none → shadow ≠ .empty → ∃ t, exec (.fgsw d 0 k 1) s = .next t ∧ t.reg n d = 0 ∧ (t.col c).fab = { fb with armed := some k } ∧ sameRegs s t n d ∧
      sameMemory s t ∧ t.pc n = s.pc n + 4) ∧
    (fb.armed = none → exec (.fgsw d 1 k 0) s = .next (s.ret d 1)) ∧
    (fb.armed.isSome = true → ∃ t, exec (.fgsw d 1 k 0) s = .next t ∧ t.reg n d = 0 ∧ (t.col c).fab = { fb with armed := none } ∧ sameRegs s t n d ∧
      t.pc n = s.pc n + 4) ∧
    exec (.fgqy d 0 9) s = .next (s.ret d (BitVec.setWidth 64 fb.pos)) ∧
    exec (.fgqy d 0 7) s = .next (s.ret d (if (fb.planes.get fb.act).st = .empty then 0 else BitVec.setWidth 64 (fb.planes.get fb.act).pageId)) ∧
    (∀ j : Fin 6, ∃ t, exec (.fgqy d x (BitVec.ofNat 4 (j.val + 1))) s = .next t ∧ t.reg n d = (if d = 0 then 0 else BitVec.setWidth 64 (fb.cnt.get j)) ∧
      (t.col c).fab = (if x = 1 then { fb with cnt := vset fb.cnt j 0 } else fb) ∧ sameRegs s t n d ∧ t.pc n = s.pc n + 4) ∧
    (∀ first count, fb.pipe = [] → first = bitsNat (s.g a) 5 0 → count = bitsNat (s.g a) 12 6 → 1 ≤ count → first + count ≤ 64 → bitsNat (s.g a) 63 23 = 0 →
      (bitsNat (s.g a) 21 13 = 0 →
        (fb.clr.isSome = true ∨ fb.emit.isSome = true → exec (.fgclr d a) s = .next (s.ret d 1)) ∧
        (fb.clr = none → fb.emit = none → ∃ t q, exec (.fgclr d a) s = .next t ∧ t.reg n d = 0 ∧ (t.col c).fab.clr = some q ∧ q.pos = first ∧
          q.last = first + count - 1 ∧ (t.col c).fab.acc = fb.acc ∧ sameRegs s t n d ∧ t.pc n = s.pc n + 4)) ∧
      (1 ≤ bitsNat (s.g a) 21 13 → bitsNat (s.g a) 21 13 ≤ 256 →
        (fb.clr.isSome = true ∨ fb.emit.isSome = true → exec (.femit d a) s = .next (s.ret d 1)) ∧
        (fb.clr = none → fb.emit = none → ∃ t q, exec (.femit d a) s = .next t ∧ t.reg n d = 0 ∧ (t.col c).fab.emit = some q ∧ q.pos = first ∧
          q.last = first + count - 1 ∧ q.rows = bitsNat (s.g a) 21 13 ∧ (t.col c).fab.acc = fb.acc ∧ sameRegs s t n d ∧ t.pc n = s.pc n + 4)))

/-- R253 to R256, R78, R81: the drift forms: outside a drift band each answers that there is none; in one, `dband` sets the notice mask, `dsave` and `drest` start a save or a rollback of the hosted stage unless there is no berth or the controller is occupied, `dscrl` refuses while a forced scroll is in progress anywhere in the band and else sends the hosted stage's scroll marker down its port's channels, `dstage` and `dqry` answer the state of a stage and the counters. -/
def Obligations.DriftForms : Prop :=
  ∀ (s : State) (c : ColId) (d a : BitVec 5) (x b : BitVec 1) (k : BitVec 3), s.focus = .col c →
    let n := Node.col c
    let dr := (s.col c).drift
    let cols := match s.taskOf c with | some t => t.cols | none => [c]
    (dr.on = false →
      ((s.g a).toNat < 16 → exec (.dband d a) s = .next (s.ret d (BitVec.allOnes 64))) ∧
      ((s.g a).toNat < 2 ^ 16 → exec (.dstage d a) s = .next (s.ret d (BitVec.allOnes 64))) ∧
      exec (.dsave d) s = .next (s.ret d 1) ∧ exec (.drest d) s = .next (s.ret d 1) ∧ exec (.dscrl d b) s = .next (s.ret d 1) ∧
      exec (.dqry d x k) s = .next (s.ret d 0)) ∧
    (dr.on = true →
      ((s.g a).toNat < 16 → ∃ t, exec (.dband d a) s = .next t ∧ t.reg n d = (if d = 0 then 0 else BitVec.setWidth 64 dr.mask) ∧
        (t.col c).drift = { dr with mask := BitVec.setWidth 4 (s.g a) } ∧ sameRegs s t n d ∧ sameMemory s t ∧ t.pc n = s.pc n + 4) ∧
      (dr.berth = none → exec (.dsave d) s = .next (s.ret d 1) ∧ exec (.drest d) s = .next (s.ret d 1)) ∧
      (dr.berth.isSome = true → dr.occupied = true → exec (.dsave d) s = .next (s.ret d 2) ∧ exec (.drest d) s = .next (s.ret d 2)) ∧
      (dr.berth.isSome = true → dr.occupied = false →
        (∃ t, exec (.dsave d) s = .next t ∧ t.reg n d = 0 ∧ (t.col c).drift = { dr with op := some ⟨false, none, (s.cpu n).g⟩ } ∧ sameRegs s t n d ∧
          sameMemory s t ∧ t.pc n = s.pc n + 4) ∧
        (dr.cur = none → exec (.drest d) s = .next (s.ret d 3)) ∧
        (∀ r, dr.cur = some r → r.resident = true → (s.readBerth c r).1.isSome = true →
          ∃ t, exec (.drest d) s = .next t ∧ t.reg n d = 0 ∧ (t.col c).drift = { dr with op := some ⟨true, none, (s.cpu n).g⟩ } ∧ sameRegs s t n d ∧
            sameMemory s t ∧ t.pc n = s.pc n + 4)) ∧
      ((∃ q ∈ cols, (s.col q).drift.forced.isSome = true) → exec (.dscrl d b) s = .next (s.ret d 2)) ∧
      ((∀ q ∈ cols, (s.col q).drift.forced = none) → (s.cpu n).storeQ = [] →
        (dr.cur = none → ∃ t, exec (.dscrl d 0) s = .next t ∧ t.reg n d = 0 ∧ (t.col c).drift = dr ∧ t.flights = s.flights ∧ sameRegs s t n d ∧ t.pc n = s.pc n + 4) ∧
        (∀ r p o, dr.cur = some r → dr.scrollq = [] → (s.col c).injOrd = [(p, o)] → p.at_.col = c → (∀ q ∈ r.ctxs, (s.ctx ⟨c, q.1, q.2⟩).strm = none) → (s.col c).injFree ≠ 0 →
          ∃ t y, exec (.dscrl d 0) s = .next t ∧ t.reg n d = 0 ∧ t.flights = s.flights ++ [y] ∧ y.dest = .port p ∧ y.tok.marker = true ∧ y.tok.sub = 6 ∧ y.tok.ord = o ∧
            (t.col c).injFree = (s.col c).injFree - 1 ∧ sameRegs s t n d ∧ t.pc n = s.pc n + 4)) ∧
      (∀ tk r, s.taskOf c = some tk → bitsNat (s.g a) 63 16 = 0 → bitsNat (s.g a) 15 0 < tk.n →
        (s.col (nth c tk.cols (bitsNat (s.g a) 15 0 % Nat.max tk.cols.length 1))).drift.res (bitsNat (s.g a) 15 0) = some r →
        ∃ v, exec (.dstage d a) s = .next (s.ret d v) ∧
          v.toNat % 2 ^ 24 = bitsNat (s.g a) 15 0 % Nat.max tk.cols.length 1 + bitsNat (s.g a) 15 0 / Nat.max tk.cols.length 1 * 256 ∧
          v.getLsbD 24 = (s.col (nth c tk.cols (bitsNat (s.g a) 15 0 % Nat.max tk.cols.length 1))).drift.weightsReady r) ∧
      (∀ j : Fin 7, ∃ t, exec (.dqry d x (BitVec.ofNat 3 j.val)) s = .next t ∧ t.reg n d = (if d = 0 then 0 else BitVec.setWidth 64 (dr.cnt.get j)) ∧
        (t.col c).drift = (if x = 1 then { dr with cnt := vset dr.cnt j 0 } else dr) ∧ sameRegs s t n d ∧ t.pc n = s.pc n + 4))

/-- R125, R129, R130, R257 to R261: `xfer` puts its 64-byte block into the queue of an engine of the stack, `swap` its request into the layer-swap engine's, `bmov` its move at the engine hart, and `cgrun` starts a graph of the column, or each answers that there is no room; `xqry` and `cgdec` answer what a transfer has left and lower a node. -/
def Obligations.EngineForms : Prop :=
  ∀ (s f : State) (c : ColId) (h : HartId) (d a cl : BitVec 5) (e : BitVec 3) (ws : List DWord) (tt : Bool),
    (s.focus = .col c →
      let n := Node.col c
      let k := stackOf c
      (s.readStruct n (s.g a) 8 8 = .ok (ws, tt, f) →
        (((f.stack k).te.get (fin 7 e.toNat)).q.length < 16 →
          ∃ t x, exec (.xfer d a 0 e) s = .next t ∧ t.reg n d = (if d = 0 then 0 else BitVec.ofNat 64 (e.toNat * 256)) ∧
            ((t.stack k).te.get (fin 7 e.toNat)).q = ((f.stack k).te.get (fin 7 e.toNat)).q ++ [x] ∧ x.b = ws ∧ x.from_ = some c ∧ x.job ∈ (t.col c).jobs ∧
            (t.cpu n).storeQ = [] ∧ sameRegs f t n d ∧ t.pc n = f.pc n + 4) ∧
        (16 ≤ ((f.stack k).te.get (fin 7 e.toNat)).q.length → exec (.xfer d a 0 e) s = .next (f.done n d (BitVec.ofNat 64 (1 + e.toNat * 256)))) ∧
        (∀ i, ((f.stack k).te.get i).q.length < 16 →
          ∃ t x y, exec (.xfer d a 1 e) s = .next t ∧ t.reg n d = (if d = 0 then 0 else BitVec.ofNat 64 (y.val * 256)) ∧ y ≤ i ∧
            ((t.stack k).te.get y).q = ((f.stack k).te.get y).q ++ [x] ∧ x.b = ws ∧ sameRegs f t n d ∧ t.pc n = f.pc n + 4) ∧
        ((∀ i, 16 ≤ ((f.stack k).te.get i).q.length) → exec (.xfer d a 1 e) s = .next (f.done n d (BitVec.ofNat 64 (1 + e.toNat * 256))))) ∧
      (s.readStruct n (s.g a) 4 8 = .ok (ws, tt, f) →
        ((f.stack k).swaps < 32 → ∃ t q, exec (.swap d a) s = .next t ∧ t.reg n d = 0 ∧ (t.stack k).lseQ = (f.stack k).lseQ ++ [q] ∧ q.col = c ∧ q.shelf = bitsNat (wordAt ws 0) 51 48 ∧
          q.auto = false ∧ q.job ∈ (t.col c).jobs ∧ (t.cpu n).storeQ = [] ∧ sameRegs f t n d ∧ t.pc n = f.pc n + 4) ∧
        (32 ≤ (f.stack k).swaps → exec (.swap d a) s = .next (f.done n d 1))) ∧
      ((s.g a).toNat < 2 ^ 16 → ((s.stack k).te.get (fin 7 e.toNat)).q = [] → ((s.stack k).te.get (fin 7 e.toNat)).cur = none →
        exec (.xqry d a e) s = .next (s.ret d 0)) ∧
      (∀ x, (s.g a).toNat < 2 ^ 16 → ((s.stack k).te.get (fin 7 e.toNat)).q = [x] → x.from_ = some c → x.xid = BitVec.setWidth 16 (s.g a) → x.reply = none →
        ∃ v, exec (.xqry d a e) s = .next (s.ret d v) ∧ bitsNat v 15 0 = 1) ∧
      ((s.g a).toNat < 2 ^ 12 → s.graph? c = none → exec (.cgdec d a) s = .next (s.ret d 1)) ∧
      (∀ g, (s.g a).toNat < 2 ^ 12 → s.graph? c = some g → g.nodes.length ≤ (s.g a).toNat → exec (.cgdec d a) s = .next (s.ret d 2)) ∧
      (∀ g, (s.g a).toNat < 2 ^ 12 → s.graph? c = some g → (s.g a).toNat < g.nodes.length →
        exec (.cgdec d a) s = .next ((s.decNode c (s.g a).toNat).done n d 0)) ∧
      ((s.g a).toNat % 32 = 0 → bitsNat (s.g a) 63 60 = 8 → bitsNat (s.g a) 59 48 = 0 → bitsNat (s.g d) 11 0 ≠ 0 → bitsNat (s.g d) 63 12 = 0 →
        ((s.graph? c).isSome = true → exec (.cgrun d a cl) s = .next (s.ret d 1)) ∧
        (s.graph? c = none → ∃ t g, exec (.cgrun d a cl) s = .next t ∧ t.reg n d = 0 ∧ g ∈ (t.stack k).graphs ∧ g.col = c ∧ g.cls = cl.toNat ∧
          g.nodes.length = bitsNat (s.g d) 11 0 ∧ (s.hub.engWeight (s.partOf n) 2 = 0 → ∃ q, g.ended = some (1, 0xFFF, q)) ∧ sameRegs s t n d ∧ t.pc n = s.pc n + 4)) ∧
      ((s.g a).toNat % 32 ≠ 0 → faultsWith (.cgrun d a cl) s (.at_ .misaligned (s.g a))) ∧
      faultsWith (.bmov d a) s (.plain .illegal)) ∧
    (s.focus = .hart h → s.readStruct (.hart h) (s.g a) 4 8 = .ok (ws, tt, f) →
      (∀ e, bulkFields ws = .error e → faultsWith (.bmov d a) s (.plain .operand)) ∧
      (bulkFields ws = .ok () → (f.hart h).moves.length < 8 → ∃ t m, exec (.bmov d a) s = .next t ∧ t.reg (.hart h) d = 0 ∧ (t.hart h).moves = (f.hart h).moves ++ [m] ∧ m.next = 0 ∧ m.written = 0 ∧
        (t.cpu (.hart h)).storeQ = [] ∧ sameRegs f t (.hart h) d ∧ t.pc (.hart h) = f.pc (.hart h) + 4) ∧
      (bulkFields ws = .ok () → 8 ≤ (f.hart h).moves.length → exec (.bmov d a) s = .next (f.done (.hart h) d 1)))

/-- R11, R356, R421, R422; R422: A store to a launch port queues a task or is counted in LREJ; a column idle for 64 cycles is clock-gated and a channel quiet for 10 µs enters self-refresh; droop and THERMTRIP. Once a die has tripped, no step but POWER_ON goes on; POWER_ON does. -/
def Obligations.LaunchAndClockEvents : Prop :=
  (∀ (s : State) (p : PartId) (q : Fin 16) (a : BitVec 64) (c : ColId) (ch : Fin 16),
    let e := s.flushOrd fun o => o.pa / 256 == bitsNat a 47 0 / 256
    let tk := newTask s.hub.nextTask (e.hub.peek (bitsNat a 47 0) 256) (bitsNat a 47 0) p q.val s.hub.tick
    (s.hub.bstep = 9 → s.hub.pwr = .run → bitsNat a 7 0 ≠ 0 ∨ 1024 ≤ (s.hub.queues.get q).length →
      answers (.launchPortWrite p q a) s fun t => t.hub.lrej.get p = satInc (s.hub.lrej.get p) 1 ∧ t.hub.tasks = s.hub.tasks ∧ t.hub.queues = s.hub.queues) ∧
    (s.hub.bstep = 9 → s.hub.pwr = .run → bitsNat a 7 0 = 0 → (s.hub.queues.get q).length < 1024 → tk.recordStatus p.val q.val = none →
      answers (.launchPortWrite p q a) s fun t => t.hub.queues.get q = s.hub.queues.get q ++ [s.hub.nextTask] ∧ t.hub.tasks = s.hub.tasks ++ [tk] ∧
        t.hub.nextTask = s.hub.nextTask + 1 ∧ t.hub.lrej = s.hub.lrej) ∧
    (∀ k, s.hub.bstep = 9 → s.hub.pwr = .run → bitsNat a 7 0 = 0 → (s.hub.queues.get q).length < 1024 → tk.recordStatus p.val q.val = some k →
      answers (.launchPortWrite p q a) s fun t => ∃ x ∈ t.hub.tasks, x.id = s.hub.nextTask ∧ x.st = .ended) ∧
    (64 ≤ (s.col c).idleFor → answers (.columnClockGate c) s fun t => (t.col c).gated = true ∧ ∀ k, k ≠ c → t.col k = s.col k) ∧
    (29000 ≤ s.hub.quiet.get ch → answers (.gddr7SelfRefresh ch) s fun t => t.hub.selfref.getLsbD ch.val = true ∧ t.hub.dev = s.hub.dev) ∧
    answers (.droopStretch c) s (fun t => (t.col c).droop = true ∧ ∀ k, k ≠ c → t.col k = s.col k) ∧
    answers (.droopEnd c) s (fun t => (t.col c).droop = false ∧ ∀ k, k ≠ c → t.col k = s.col k) ∧
    answers .thermtrip s fun t => t.hub.thermtrip = true ∧ t.hub.signals = s.hub.signals ++ [.thermtrip]) ∧
  (∀ s : State, s.hub.thermtrip = true →
    ((∀ o r, s.agenda ≠ .occurs (.powerOn o) :: r) → step s = .fault .clocksStopped) ∧
    ∀ o r, s.agenda = .occurs (.powerOn o) :: r → ∃ t, step s = .next t)

/-- R423 to R426: calm and doldrums are refused while a task holds columns or an engine works, and entered otherwise; an entry that is done leaves every channel in self-refresh, or device memory without GDDR7's contents; an enabled source wakes a sleeping part, and one that meets an entry is latched and wakes it at its end. -/
def Obligations.SleepAndWakeEvents : Prop :=
  ∀ (s : State),
    (∀ i deep, (i, deep) ∈ [(Instr.pwrCalm, false), (.pwrDoldrums, true)] → s.hub.bstep = 9 → s.hub.pwr = .run →
      (s.holdsColumns = true → answers i s fun t => t.hub.pwrres = 1 ∧ t.hub.pwr = .run) ∧
      (s.holdsColumns = false → s.enginesBusy = true → answers i s fun t => t.hub.pwrres = 2 ∧ t.hub.pwr = .run) ∧
      (s.holdsColumns = false → s.enginesBusy = false → answers i s fun t => t.hub.pwrres = 0 ∧ t.hub.pwr = .entering deep ∧ t.hub.wakeLatched = none)) ∧
    (s.hub.pwr = .entering false → s.hub.wakeLatched = none →
      answers .pwrEntryDone s fun t => t.hub.pwr = .calm ∧ t.hub.selfref = 0xFFFF ∧ t.hub.pwrAt = s.now ∧ t.hub.dev = s.hub.dev ∧ ∀ c, (t.col c).gated = true) ∧
    (s.hub.pwr = .entering true → s.hub.wakeLatched = none → Memory.wf s.hub.dev = true → (∀ k, (s.stack k).ord = []) →
      answers .pwrEntryDone s fun t => t.hub.pwr = .doldrums ∧ (∀ a, a < 2 ^ 36 → t.hub.dev.byte a = 0) ∧
        (∀ a, 2 ^ 36 ≤ a → t.hub.dev.byte a = s.hub.dev.byte a) ∧ ∀ c, (t.col c).cpu.near = .empty ∧ (t.col c).vret = (s.col c).vret) ∧
    (∀ deep k, s.hub.pwr = .entering deep → s.hub.wakeLatched = some k →
      answers .pwrEntryDone s fun t => t.hub.pwr = .run ∧ t.hub.lastwake = BitVec.ofNat 8 k ∧ t.hub.wakeLatched = none) ∧
    (∀ i src, (i, src) ∈ [(Instr.wakeRootPort, 0), (.wakeEndpoint, 1), (.wakePin, 2), (.wakeTimer, 3)] → (s.hub.reg 0x0E0D10).getLsbD src = true →
      (src = 0 → s.hub.pciemode = 0 ∨ s.hub.pciemode = 2) → (src = 1 → s.hub.pciemode = 1 ∨ s.hub.pciemode = 2) →
      (src = 3 → bitsNat (s.hub.reg 0x0E0D18) 47 0 ≠ 0 ∧ s.hub.pwrAt + bitsNat (s.hub.reg 0x0E0D18) 47 0 * 2900 ≤ s.now) →
      s.hub.pwr = .calm ∨ s.hub.pwr = .doldrums →
      answers i s fun t => t.hub.pwr = .run ∧ t.hub.lastwake = BitVec.ofNat 8 src ∧ ∀ c, (t.col c).gated = false) ∧
    (∀ i src, (i, src) ∈ [(Instr.wakeRootPort, 0), (.wakeEndpoint, 1), (.wakePin, 2)] → (s.hub.reg 0x0E0D10).getLsbD src = true →
      (src = 0 → s.hub.pciemode = 0 ∨ s.hub.pciemode = 2) → (src = 1 → s.hub.pciemode = 1 ∨ s.hub.pciemode = 2) →
      ∀ deep, s.hub.pwr = .entering deep → s.hub.wakeLatched = none → answers i s fun t => t.hub.wakeLatched = some src ∧ t.hub.pwr = .entering deep)

/-- R428 to R431: power-on stops at its step with its code, or opens the part with every register at its reset value and what failed out of service; an attestation request is accepted, refused while one is in progress or refused for its buffer, and its end writes the report and clears BUSY. -/
def Obligations.BringUpAndAttestation : Prop :=
  ∀ (s : State) (o : PowerOn) (v : BitVec 64) (buf : Nat),
    (answers (.powerOn o) s fun t => t.hub.bstep = o.outcome.1 ∧ t.hub.berr = o.outcome.2 ∧ t.hub.thermtrip = false ∧ t.hub.pwr = .run ∧ t.hub.tasks = [] ∧
      t.hub.regs = [] ∧ t.now = 0 ∧ (∀ c, (t.cpu (.col c)).busy = false ∧ (t.cpu (.col c)).hte = hteReset ∧ (t.cpu (.col c)).near = .empty) ∧
      (o.outcome.1 = 9 → (∀ c : ColId, (t.col c).inService = (!(o.badCols.contains c.val) && !(o.badStacks.contains (c.val / 64)))) ∧ t.hub.degr = o.degr ∧ t.hub.degrOpen = o.degr)) ∧
    (o.mode = 3#2 → o.outcome = (1, 1)) ∧
    (s.hub.bstep = 9 → v.getLsbD 63 = true → buf = bitsNat v 45 6 * 64 →
      (s.hub.attest.isSome = true → answers (.attestRequest v) s fun t => t.hub.atres = 1 ∧ t.hub.attest = s.hub.attest) ∧
      (s.hub.attest = none → s.hub.channel? buf = some 16 → s.hub.channel? (buf + 16863) = some 16 →
        answers (.attestRequest v) s fun t => t.hub.atres = 0 ∧ t.hub.attest = some buf) ∧
      (s.hub.attest = none → s.hub.channel? buf ≠ some 16 ∨ s.hub.channel? (buf + 16863) ≠ some 16 →
        answers (.attestRequest v) s fun t => t.hub.atres = 2 ∧ t.hub.attest = none)) ∧
    (s.hub.attest = some buf → s.memWf → (∀ k, (s.stack k).ord = []) → (s.hub.report buf).length = 256 →
      answers .attestDone s fun t => t.hub.attest = none ∧ t.hub.atres = 0 ∧ t.hub.dev.getBytes buf 256 = s.hub.report buf ∧
        (s.hub.dev.bad = [] → ∀ x, x < buf ∨ buf + 16864 ≤ x → t.hub.dev.byte x = s.hub.dev.byte x))

/-- R19 to R22, R35, R133, R386, R419: the oldest entry of an outbound queue departs with its sequence number once its receiver has an entry, and is lost where no task holds the column; a message lands as a pending one of its class; a dispatch loads g1 to g5, the pc of the class's handler, `task` and the clock, and issues 3 cycles later; a dictionary is reset on request; a held message is written to its ring. -/
def Obligations.MessageEvents : Prop :=
  ∀ (s : State) (n : Node) (i : Nat),
    let u := s.cpu n
    (∀ o t0, u.outq[0]? = some o → o.dests = [t0] → o.comp = false → s.sendReady n o.after = true → s.hub.pwr = .run → s.fate t0 o.msg = .go →
      (∀ f ∈ s.msgs, f.dst ≠ t0 ∨ f.msg.src ≠ o.msg.src) →
      answers (.messageDepart n 0) s fun t => (t.cpu n).outq = u.outq.drop 1 ∧ (t.cpu t0.node).pendCount = (s.cpu t0.node).pendCount + (if o.msg.needsEntry then 1 else 0) ∧
        t.msgs = s.msgs ++ [⟨t0, { o.msg with seq := lookupD 0 t0.key u.seqTx }, s.now + s.msgLatency n t0 + o.msg.len.toNat⟩]) ∧
    (∀ o c, u.outq[0]? = some o → o.dests = [.col c] → s.sendReady n o.after = true → s.hub.pwr = .run → s.taskOf c = none →
      answers (.messageDepart n 0) s fun t => (t.cpu n).outq = u.outq.drop 1 ∧ (t.cpu (.col c)).dropmsg = satInc (s.cpu (.col c)).dropmsg 1 ∧ t.msgs = s.msgs) ∧
    (∀ f, s.msgs[i]? = some f → f.due ≤ s.now → s.msgs.any (·.before f) = false → (∀ c, n = .col c → (s.col c).gated = false) → f.dst.node = n → f.msg.sub = 0 → f.msg.comp = false →
      s.finished n = false → u.armed f.msg.cls.toNat = true → u.selfq = [] →
      answers (.messageLand i) s fun t => t.msgs = dropNth i s.msgs ∧ (t.cpu n).grants = u.grants - 1 ∧ lookupD 0 f.msg.src.key (t.cpu n).seqRx = f.msg.seq + 1 ∧
        ∃ m, (t.cpu n).pend = u.pend ++ [m] ∧ m.cls = f.msg.cls ∧ m.src = f.msg.src ∧ m.stamp = some f.msg.stamp ∧ m.taint = f.msg.taint ∧
          m.g1 = wordAt f.msg.words 0 ∧ m.g2 = wordAt f.msg.words 1 ∧ m.g3 = wordAt f.msg.words 2) ∧
    (∀ j st m, s.canDispatch n = true → u.ready ≤ s.now → u.choose = some (j, st) → u.pend[j]? = some m → u.selfq = [] →
      answers (.messageDispatch n) s fun t => (t.cpu n).busy = true ∧ (t.cpu n).pend = dropNth j u.pend ∧ (t.cpu n).starve = st ∧
        t.reg n 1 = m.g1 ∧ t.reg n 2 = m.g2 ∧ t.reg n 3 = m.g3 ∧ t.reg n 4 = m.g4 ∧ t.reg n 5 = BitVec.ofNat 64 (0x16C00 + 256 * m.cls.toNat + 24) ∧
        (∀ r, 6 ≤ r.toNat → t.reg n r = s.reg n r) ∧ (t.cpu n).ready = s.now + s.nodeCycles n 3 ∧ (m.handler = none → t.pc n = u.entry m.cls.toNat ∧ (t.cpu n).xid = u.xid) ∧
        (∀ a x, m.handler = some (a, x) → t.pc n = BitVec.ofNat 64 (a.toNat * 4) ∧ (t.cpu n).xid = x) ∧
        (m.stamp = none → (t.cpu n).lclk = u.lclk) ∧
        (∀ v, m.stamp = some v → (t.cpu n).lclk = (if u.lclk.toNat < v.toNat + 1 then v + 1 else u.lclk)) ∧ (t.cpu n).taint = (u.taint || m.taint)) ∧
    (∀ col slot key d, s.resets[i]? = some (col, slot, key) → key < 256 → (s.cpu (.col (fin 255 key))).dictTx.lookup (col * 16 + slot) = some d →
      answers (.dictResetRequest i) s fun t => t.resets = dropNth i s.resets ∧
        (t.cpu (.col (fin 255 key))).dictTx.lookup (col * 16 + slot) = some { Dict.empty with peer := d.peer, plain := true }) ∧
    (∀ id tk q s1 s2, s.task? id = some tk → tk.spill[0]? = some q → q.written = false → tk.spillStop = none → tk.spillCap ≠ 0 →
      s.hub.admits 24 (s.taskSpace id).2 4 = true → s.hub.engWeight (s.taskSpace id).2 5 ≠ 0 →
      s.spillPut (s.taskSpace id).1 (s.taskSpace id).2 (tk.spillAt + 64 + tk.delivered % tk.spillCap * 320) (dwords (spillRecord q.msg)) = .ok s1 →
      s1.spillPut (s.taskSpace id).1 (s.taskSpace id).2 tk.spillAt (tk.spillHeader tk.delivered 1) = .ok s2 →
      answers (.spillRecordWrite id 0) s fun t => ∃ x, t.task? id = some x ∧ x.spill.head?.map (·.written) = some true ∧ t.hub.dev = s2.hub.dev)

/-- R11, R33, R357, R364: the candidate that the dispatcher works on is passed to the mapper, placed, and loads its columns, waits, or ends with the mapper's status; a loaded task runs and its entry message is pending; a task whose stages are finished ends, frees its columns and writes status 0 and its faults to its mailbox. -/
def Obligations.TaskEvents : Prop :=
  ∀ (s : State) (p : PartId) (tk : Task) (m : MapperPlan) (id : BitVec 16),
    (s.hub.serving = some p → s.hub.subject p = some tk → s.hub.pwr = .run →
      (tk.st = .queued → answers (.taskPlace p .asked) s fun t => t.hub.turn = s.hub.turn ∧ (∃ x, t.task? tk.id = some x ∧ x.st = .placing) ∧
        ∀ q, tk.id ∉ t.hub.queues.get q) ∧
      (tk.st = .queued → answers (.taskPlace p .later) s fun t => t.hub.turn = p + 1 ∧ t.hub.tasks = s.hub.tasks ∧ t.hub.queues = s.hub.queues) ∧
      (tk.st = .placing → answers (.taskPlace p .later) s fun t => t.hub.turn = p + 1 ∧ (∃ x, t.task? tk.id = some x ∧ x.st = .queued) ∧
        t.hub.queues.get (fin 15 tk.level) = tk.id :: s.hub.queues.get (fin 15 tk.level)) ∧
      (∀ k, tk.st = .queued ∨ tk.st = .placing → k = 4 ∨ k = 6 →
        answers (.taskPlace p (.refused k)) s fun t => t.hub.turn = p + 1 ∧ (∃ x, t.task? tk.id = some x ∧ x.st = .ended) ∧ ∀ q, tk.id ∉ t.hub.queues.get q) ∧
      (∀ l, tk.st = .queued ∨ tk.st = .placing → s.placement tk m = .ok l → s.placeOk tk l.obj l.code m = true →
        answers (.taskPlace p (.placed m)) s fun t => t.hub.turn = p + 1 ∧
          ((tk.drift = true ∧ t.hub.tasks = s.hub.tasks ∧ t.hub.queues = s.hub.queues) ∨
           ((∃ x, t.task? tk.id = some x ∧ x.st = .loading ∧ x.cols = m.cols ∧ x.place = some (l.placed m) ∧ x.sbt = l.sbt) ∧
            (∀ q, tk.id ∉ t.hub.queues.get q) ∧
            ∀ c ∈ m.cols, ∃ b, (t.col c).band = some b ∧ b.task = tk.id ∧ (t.col c).ptb = m.ptb ∧ (t.cpu (.col c)).busy = false)))) ∧
    (∀ c, s.task? id = some tk → tk.st = .loading → s.loaded tk = true → tk.cols[tk.eslot]? = some c →
      (∀ k ∈ tk.cols, (s.col k).drift.next = none ∧ (s.col k).parkedMap = 0) → s.finished (.col c) = false → tk.eclass < 32 →
      (s.cpu (.col c)).armed tk.eclass = true →
      answers (.entryMessage id) s fun t => (∃ x, t.task? id = some x ∧ x.st = .running ∧ x.started = s.now) ∧
        ∃ m, (t.cpu (.col c)).pend = (s.cpu (.col c)).pend ++ [m] ∧ m.cls.toNat = tk.eclass ∧ m.src = ⟨true, 0x28⟩ ∧ m.area = (tk.epay ++ List.replicate 32 0).take 32) ∧
    (s.task? id = some tk → tk.st = .running → tk.id = id → s.memWf →
      (∀ i ∈ tk.stageSlots, ∀ c, tk.cols[i]? = some c → (s.col c).stagesDone = true ∧ (s.cpu (.col c)).outq = [] ∧ (s.cpu (.col c)).storeQ = []) →
      answers (.taskRetire id) s fun t => (∃ x, t.task? id = some x ∧ x.st = .ended ∧ x.cols = []) ∧ (∀ c ∈ tk.cols, (t.col c).band = none ∧ (t.cpu (.col c)).pend = []) ∧
        ((s.hub.channel? tk.mbox).isSome = true → t.hub.dev.rawWord (tk.mbox / 8) = BitVec.ofNat 64 (tk.faults % 2 ^ 32 * 2 ^ 32)))

/-- R32, R356, R360 to R363, R380: a tick takes the sensors' readings and sets SKIP by the thresholds; a quantum expires; a task that starves moves up one level once; the watchdog, which counts the cycles in a row that hold a queued token without a firing, raises its fault at slot 0; a task whose parties wait for a page counts as expired; `dtherm` is written where TLO lies below THI. -/
def Obligations.SchedulingEvents : Prop :=
  ∀ (s : State) (temps : List (BitVec 8)) (v : BitVec 64) (id : BitVec 16) (tk : Task),
    ((s.hub.tick + 1) * 290000 ≤ s.now → answers (.dispatchTick temps) s fun t => t.hub.tick = s.hub.tick + 1 ∧
      ∀ c : ColId, t.hub.dtemp.get c = (temps[c.val]?).getD (s.hub.dtemp.get c) ∧
        t.hub.skip.get c = (if (s.hub.reg 0x0E0108).getLsbD 16 = false then s.hub.skip.get c
          else if bitsNat (s.hub.reg 0x0E0108) 7 0 ≤ (t.hub.dtemp.get c).toNat then true
          else if (t.hub.dtemp.get c).toNat ≤ bitsNat (s.hub.reg 0x0E0108) 15 8 then false else s.hub.skip.get c)) ∧
    (s.hub.bstep = 9 → answers (.dthermWrite v) s fun t =>
      t.hub.reg 0x0E0108 = (if bitsNat v 15 8 < bitsNat v 7 0 then v &&& 0x1FFFF#64 else s.hub.reg 0x0E0108)) ∧
    (s.task? id = some tk →
      (tk.st = .running → bitsNat (s.hub.reg 0x0E0100) 15 0 ≠ 0 → tk.started + tk.offQ + bitsNat (s.hub.reg 0x0E0100) 15 0 * 290000 ≤ s.now →
        answers (.quantumExpiry id) s fun t => ∃ x, t.task? id = some x ∧ x.expired = true ∧ x.level = tk.home ∧ x.promoted = false ∧ x.st = .running) ∧
      (tk.st = .queued ∨ tk.st = .preempted → tk.promoted = false → tk.level < 15 → bitsNat (s.hub.reg (0x0E0180 + 8 * tk.level)) 15 0 ≠ 0 →
        tk.since + bitsNat (s.hub.reg (0x0E0180 + 8 * tk.level)) 15 0 ≤ s.hub.tick →
        answers (.starvationPromotion id) s fun t => (∃ x, t.task? id = some x ∧ x.level = tk.level + 1 ∧ x.promoted = true) ∧
          (t.hub.queues.get (fin 15 (tk.level + 1))).getLast? = some id ∧ id ∉ t.hub.queues.get (fin 15 tk.level)) ∧
      (∀ c, tk.st = .running → 2 ^ 24 ≤ tk.waited → tk.cols.head? = some c → (s.cpu (.col c)).armed 19 = true → (s.cpu (.col c)).pendCount < 64 →
        answers (.watchdog id) s fun t => (∃ x, t.task? id = some x ∧ x.waited = 0) ∧
          ∃ m, (t.cpu (.col c)).pend = (s.cpu (.col c)).pend ++ [m] ∧ m.cls = 19 ∧ bitsNat m.g1 7 0 = 21 ∧
            m.g3 = (s.stack (stackOf c)).cyc - BitVec.ofNat 64 (s.now - tk.fired)) ∧
      (∀ n, tk.st = .running → s.debugged tk = false → s.stopped tk = false → (s.taskFlow n tk).waited = (if (tk.cols.any fun c => (s.col c).holdsToken) = true then tk.waited + n else 0)) ∧
      (tk.st = .running → s.stoppedOnPage tk = true → tk.fired + 4096 ≤ s.now →
        answers (.faultQuiescent id) s fun t => ∃ x, t.task? id = some x ∧ x.expired = true ∧ x.st = .running))

/-- R356, R370: a task command that meets one in progress answers busy, one that names no task answers that, and otherwise a queued task is suspended, killed with status 8 or, once suspended, released to the tail of its level, and a running one starts to leave its columns. -/
def Obligations.TaskCommandEvents : Prop :=
  ∀ (s : State) (p : PartId) (a : BitVec 48) (tk : Task), s.hub.bstep = 9 →
    (∀ i ∈ [Instr.tcmdSuspend p a, .tcmdKill p a, .tcmdRelease p a],
      ((s.hub.tstat.get p).getLsbD 0 = true → answers i s fun t => t.hub.tstat.get p = 5 ∧ t.hub.tasks = s.hub.tasks) ∧
      ((s.hub.tstat.get p).getLsbD 0 = false → s.hub.taskAt p a = none → answers i s fun t => t.hub.tstat.get p = 2 ∧ t.hub.tasks = s.hub.tasks)) ∧
    ((s.hub.tstat.get p).getLsbD 0 = false → s.hub.taskAt p a = some tk →
      (tk.st = .queued →
        answers (.tcmdSuspend p a) s (fun t => t.hub.tstat.get p = 0 ∧ (∃ x, t.task? tk.id = some x ∧ x.st = .suspended) ∧ ∀ q, tk.id ∉ t.hub.queues.get q) ∧
        answers (.tcmdKill p a) s (fun t => t.hub.tstat.get p = 0 ∧ (∃ x, t.task? tk.id = some x ∧ x.st = .ended) ∧ ∀ q, tk.id ∉ t.hub.queues.get q) ∧
        answers (.tcmdRelease p a) s fun t => t.hub.tstat.get p = 6 ∧ t.hub.tasks = s.hub.tasks) ∧
      (tk.st = .running →
        answers (.tcmdSuspend p a) s (fun t => t.hub.tstat.get p = 1 ∧ (∃ x, t.task? tk.id = some x ∧ x.st = .preempting ∧ x.susp = true) ∧ ∀ c ∈ tk.cols, (t.col c).pre = .stopped) ∧
        answers (.tcmdKill p a) s (fun t => t.hub.tstat.get p = 1 ∧ (∃ x, t.task? tk.id = some x ∧ x.st = .preempting ∧ x.ending = some 8) ∧ ∀ c ∈ tk.cols, (t.col c).pre = .stopped)) ∧
      (tk.st = .suspended → answers (.tcmdRelease p a) s fun t => t.hub.tstat.get p = 0 ∧
        (∃ x, t.task? tk.id = some x ∧ x.st = (if tk.images.isEmpty then .queued else .preempted) ∧ x.level = tk.home ∧ x.since = s.hub.tick) ∧
        t.hub.queues.get (fin 15 tk.home) = s.hub.queues.get (fin 15 tk.home) ++ [tk.id]))

/-- R34, R362, R366 to R369: the victim of the candidate stops at its columns; each sequencer halts with its stores performed, the column drains and its image is saved; with the last one the columns are free and the task waits at the tail of its level; it is restored to its columns where they are free, or else to those that the mapper answers. -/
def Obligations.PreemptionEvents : Prop :=
  ∀ (s e : State) (id : BitVec 16) (tk : Task) (c : ColId),
    (∀ k v, s.task? id = some tk → tk.st = .running → s.hub.candidate tk.part = some k → s.victim k = some v → v.id = id →
      answers (.preempt id) s fun t => (∃ x, t.task? id = some x ∧ x.st = .preempting) ∧ ∀ k ∈ tk.cols, (t.col k).pre = .stopped) ∧
    ((s.col c).pre = .stopped → s.mayHalt c = true →
      answers (.preemptSequencerHalt c) s fun t => (t.col c).pre = .halted ∧ (t.cpu (.col c)).storeQ = [] ∧ ∀ m r, t.reg m r = s.reg m r) ∧
    ((s.settleFrost c).drainable c = true → (∀ k, s.taskOf c = some k → k.ending = none) →
      answers (.preemptDrained c) s fun t => (t.col c).pre = .drained ∧ ∀ k, ∀ o ∈ (t.stack k).ord, o.node ≠ .col c) ∧
    (s.taskOf c = some tk → tk.ending = none → (s.col c).pre = .drained → s.saveImage tk ((indexOf? (· == c) tk.cols).getD 0) c = some e →
      ((∃ k ∈ tk.cols, k ≠ c ∧ (s.col k).pre ≠ .saved) → answers (.checkpointSaved c) s fun t => (t.col c).pre = .saved ∧ (t.col c).band = (s.col c).band) ∧
      ((∀ k ∈ tk.cols, k ≠ c → (s.col k).pre = .saved) → tk.susp = false →
        answers (.checkpointSaved c) s fun t => (∃ x, t.task? tk.id = some x ∧ x.st = .preempted ∧ x.images.length = tk.cols.length) ∧
          (∀ k ∈ tk.cols, (t.col k).band = none) ∧ t.hub.queues.get (fin 15 tk.home) = s.hub.queues.get (fin 15 tk.home) ++ [tk.id])) ∧
    (∀ k old l, s.task? id = some tk → tk.st = .preempted → s.hub.serving = some tk.part → s.hub.subject tk.part = some k → k.id = id → s.hub.pwr = .run → tk.place = some old →
      ((∀ y ∈ tk.cols, s.freeFor tk y = true) → s.linksOk tk.drift old.toMapperPlan = true → s.placement tk old.toMapperPlan = .ok l →
        answers (.taskRestore id .later) s fun t => (∃ x, t.task? id = some x ∧ x.st = .running ∧ x.cols = old.cols ∧ x.images = [] ∧ x.started = s.now) ∧
          ∀ q, id ∉ t.hub.queues.get q) ∧
      (∀ m, (∃ y ∈ tk.cols, s.freeFor tk y = false) → s.placement tk m = .ok l → s.placeOk tk l.obj l.code m = true →
        answers (.taskRestore id (.placed m)) s fun t => (∃ x, t.task? id = some x ∧ x.st = .running ∧ x.cols = m.cols ∧ x.images = [] ∧ x.started = s.now) ∧
          ∀ q, id ∉ t.hub.queues.get q))

/-- R183, R192, R265 to R268: the lane-wise integer words between registers: each lane whose mask bit is set gets its result, wrapped or, with SAT, clamped to the format; every other lane and register stays as it was, and nothing is emitted. -/
def Obligations.IntegerElementWordsWorkLaneByLane : Prop :=
  ∀ (f : Fire) (e : EW) (i : Nat), isReg e.d = true → isReg e.a = true → isReg e.b = true → e.t ≤ 5 → i < 256 / laneW e.t →
    let w := laneW e.t
    let x := laneOf (f.ctx.v.get (fin 7 e.a)).toNat w i
    let y := laneOf (f.ctx.v.get (fin 7 e.b)).toNat w i
    let old := laneOf (f.ctx.v.get (fin 7 e.d)).toNat w i
    let on := (f.ctx.m.get (fin 3 e.pm)).getLsbD i
    let num (v : Nat) : Int := if e.t % 2 = 0 ∧ 2 ^ (w - 1) ≤ v then (v : Int) - 2 ^ w else v
    let clamp (z : Int) : Int := if e.t % 2 = 0 then max (-(2 ^ (w - 1))) (min (2 ^ (w - 1) - 1) z) else max 0 (min (2 ^ w - 1) z)
    let fit (z : Int) : Nat := ((if e.mod % 2 = 1 then clamp z else z) % 2 ^ w).toNat
    let gives (v : Nat) : Prop :=
      let t := execEword f e
      laneOf (t.ctx.v.get (fin 7 e.d)).toNat w i = (if on = true then v else old) ∧ (∀ k, k ≠ fin 7 e.d → t.ctx.v.get k = f.ctx.v.get k) ∧ t.out = f.out
    (opOf e = .vadd → gives (fit (num x + num y))) ∧ (opOf e = .vsub → gives (fit (num x - num y))) ∧ (opOf e = .vmul → gives (fit (num x * num y))) ∧
    (opOf e = .vmad → gives (fit (num old + num x * num y))) ∧ (opOf e = .vand → gives (x &&& y)) ∧ (opOf e = .vor → gives (x ||| y)) ∧
    (opOf e = .vxor → gives (x ^^^ y)) ∧ (opOf e = .vmin → gives (if num x ≤ num y then x else y)) ∧ (opOf e = .vmax → gives (if num x ≤ num y then y else x))

/-- R27, R29, R44, R50, R55: the one permitted context of a free element fires: it takes its tokens from its ports, their credits go back, and the element is occupied for as many cycles as the program has words; an epoch sets the arbiter's weights; a credit raises its counter; a decrement lowers a merge's occupancy or counts a dropped token. -/
def Obligations.FiringAndCreditEvents : Prop :=
  ∀ (s : State) (c : ColId) (e : ElemId) (k : CtxId) (i : Nat) (z : StackId),
    let r : CtxRef := ⟨c, e, k⟩
    let x := s.ctx r
    ((s.elem c e).busy ≤ s.now → s.candidate r = true → (∀ j, j ≠ k → s.candidate ⟨c, e, j⟩ = false) → x.mergeWord = none → hRole x.hdr ≠ .sy → hRole x.hdr ≠ .ag →
      (∀ w ∈ x.words, isAgWord (opOf w) = false) →
      answers (.elementFiring c e) s fun t => ((s.col c).droop = false → (t.elem c e).busy = s.now + hLen x.hdr) ∧ (t.elem c e).last = k ∧
        ∀ p, ((t.ctx r).q.get p).toks = (x.q.get p).toks.drop (x.takes p) ∧
          ∀ q ∈ (x.q.get p).toks.take (x.takes p), q.cred ≠ .free → ∃ y ∈ t.credits, y.feeder = q.cred) ∧
    ((s.cyc z).toNat % 256 = 0 → answers (.arbiterEpoch z) s fun t => ∀ c : ColId, stackOf c = z → (s.col c).band.isSome = true → ∀ e k, (s.elem c e).busy ≤ s.now →
      (t.elem c e).w.get k = 1 + sumList (((s.ctx ⟨c, e, k⟩).q.toList.map fun q => q.toks.length)) ∧ (t.elem c e).k.get k = 0 ∧ (t.elem c e).skip.get k = 0 ∧
        t.ctx ⟨c, e, k⟩ = s.ctx ⟨c, e, k⟩) ∧
    (∀ y, s.credits[i]? = some y → y.due ≤ s.now → (∃ p, y.feeder = .port p) ∨ (∃ c k, y.feeder = .exit c k) ∨ (∃ c k, y.feeder = .inj c k) ∨ (∃ c k, y.feeder = .turn c k) ∨ (∃ c, y.feeder = .frost c) →
      answers (.creditReturn i) s fun t => t.credits = dropNth i s.credits ∧ t.freeOf y.feeder = s.freeOf y.feeder + 1) ∧
    (∀ y, s.decs[i]? = some y → y.due ≤ s.now → y.merge = r → s.admitsFirst y = false →
      let occ := bitsNat (x.c.get 4) 31 16
      (x.st = .live → x.mergeWord.isSome = true → occ ≠ 0 →
        answers (.mergeDecrement i) s fun t => t.decs = dropNth i s.decs ∧ bitsNat ((t.ctx r).c.get 4) 31 16 = occ - 1) ∧
      (x.st = .live → x.mergeWord.isSome = true → occ = 0 →
        answers (.mergeDecrement i) s fun t => t.decs = dropNth i s.decs ∧ (t.elem c e).droptok = satInc (s.elem c e).droptok 1) ∧
      (x.st ≠ .live ∨ x.mergeWord = none →
        answers (.mergeDecrement i) s fun t => t.decs = dropNth i s.decs ∧
          (t.elem y.from_.col y.from_.elem).droptok = satInc (s.elem y.from_.col y.from_.elem).droptok 1))

/-- R39, R46, R48, R52, R390: a token that is due lands behind the others of its port, or is dropped and counted where no live context consumes the port; markers that align are consumed together and forwarded; a flit with a bad header is lost and its credit goes back. -/
def Obligations.TokenAndMarkerEvents : Prop :=
  ∀ (s : State) (c : ColId) (e : ElemId) (k : CtxId) (i : Nat),
    let r : CtxRef := ⟨c, e, k⟩
    (∀ f p, s.flights[i]? = some f → f.due ≤ s.now → (∀ g ∈ s.flights.take i, g.dest ≠ f.dest) → f.dest = .port p → f.tok.marker = false → (s.col p.at_.col).gated = false →
      ((s.ctx p.at_).st = .live → hCi (s.ctx p.at_).hdr p.port ≠ 0 → (s.col p.at_.col).drift.forced = none → (s.ctx p.at_).isHeld = false → (s.ctx p.at_).mergeWord = none →
        answers (.tokenLand i) s fun t => t.flights = dropNth i s.flights ∧
          ((t.ctx p.at_).q.get p.port).toks = ((s.ctx p.at_).q.get p.port).toks ++ [⟨f.tok, f.cred, f.due⟩] ∧
          ∀ q, q ≠ p.port → ((t.ctx p.at_).q.get q).toks = ((s.ctx p.at_).q.get q).toks) ∧
      ((s.ctx p.at_).st = .empty ∨ (s.ctx p.at_).st = .parked ∨ ((s.ctx p.at_).st = .live ∧ hCi (s.ctx p.at_).hdr p.port = 0) →
        answers (.tokenLand i) s fun t => t.flights = dropNth i s.flights ∧ (t.elem p.at_.col p.at_.elem).droptok = satInc (s.elem p.at_.col p.at_.elem).droptok 1 ∧
          (f.cred ≠ .free → ∃ y ∈ t.credits, y.feeder = f.cred))) ∧
    (∀ f c, s.flights[i]? = some f → f.due ≤ s.now → (∀ g ∈ s.flights.take i, g.dest ≠ f.dest) → f.dest = .frost c → (s.col c).gated = false →
      answers (.tokenLand i) s fun t => t.flights = dropNth i s.flights ∧ (t.col c).fab.q = (s.col c).fab.q ++ [⟨f.tok, f.cred, f.due⟩]) ∧
    (∀ m, (s.ctx r).stopped = false → s.fires c = true → (s.heads r).alignsAt r = some m → m.sub ≠ 5 → m.sub ≠ 6 → (s.heads r).swapsOn r m = false →
      answers (.markerAlign c e k) s fun t => (t.ctx r).mismatch = false ∧
        ∀ p, ((s.heads r).ctx r).aligns p = true →
          ((t.ctx r).q.get p).toks = (((s.heads r).ctx r).q.get p).toks.drop 1 ∧
          ((t.ctx r).q.get p).wave = (if m.sub = 0 then true else if m.sub = 1 then false else (((s.heads r).ctx r).q.get p).wave)) ∧
    (∀ f, s.flights[i]? = some f → answers (.flitHeaderDrop (.token i)) s fun t => t.flights = dropNth i s.flights ∧ (f.cred ≠ .free → ∃ y ∈ t.credits, y.feeder = f.cred)) ∧
    (i < s.ctl.length → answers (.flitHeaderDrop (.control i)) s fun t => t.ctl = dropNth i s.ctl ∧ t.flights = s.flights) ∧
    (∀ m, s.msgs[i]? = some m → m.msg.needsEntry = true → (s.cpu m.dst.node).selfq = [] →
      answers (.flitHeaderDrop (.message i)) s fun t => t.msgs = dropNth i s.msgs ∧ (t.cpu m.dst.node).grants = (s.cpu m.dst.node).grants - 1)

/-- R27, R41, R190, R191, R242, R396: a control token parks its context where it is malformed, opens a part, adds to it, or completes it, and the context goes live with its header and seed; an entry of a configuration load is sent as such a token, and its end queues its message. -/
def Obligations.ConfigurationEvents : Prop :=
  ∀ (s : State) (c : ColId) (i : Nat),
    (∀ f, s.ctl[i]? = some f → f.due ≤ s.now → (∀ g ∈ s.ctl.take i, ctlDest g.tok.hdr ≠ ctlDest f.tok.hdr) → s.atRest (ctlDest f.tok.hdr) = true →
      (s.col (ctlDest f.tok.hdr).col).gated = false →
      let r := ctlDest f.tok.hdr
      let pidx := bitsNat f.tok.hdr 50 49
      let plen := bitsNat f.tok.hdr 48 47
      (ctlOk f.tok.hdr = false ∨ f.tok.bad = true → answers (.configTokenArrive i) s fun t => (t.ctx r).st = .parked ∧ t.ctl = dropNth i s.ctl) ∧
      (ctlOk f.tok.hdr = true → f.tok.bad = false → (s.ctx r).st ≠ .loading → pidx = 0 → plen ≠ 0 →
        answers (.configTokenArrive i) s fun t => (t.ctx r).st = .loading ∧ (t.ctx r).load = some ⟨plen, 1, payloadWords f.tok.payload⟩ ∧ t.ctl = dropNth i s.ctl) ∧
      (∀ l, ctlOk f.tok.hdr = true → f.tok.bad = false → (s.ctx r).st = .loading → (s.ctx r).load = some l → pidx = l.next → plen = l.plen → pidx < plen →
        answers (.configTokenArrive i) s fun t => (t.ctx r).st = .loading ∧ (t.ctx r).load = some { l with next := pidx + 1, words := l.words ++ payloadWords f.tok.payload } ∧
          t.ctl = dropNth i s.ctl) ∧
      (∀ l p, ctlOk f.tok.hdr = true → f.tok.bad = false → (s.ctx r).st = .loading → (s.ctx r).load = some l → pidx = l.next → plen = l.plen → pidx = plen →
        parsePart plen (l.words ++ payloadWords f.tok.payload) = some p → progOk p.hdr p.prog = true →
        ({ s with ctl := dropNth i s.ctl } : State).routesOk r p.hdr (ewsOf p.prog) p.routes = true →
        answers (.configTokenArrive i) s fun t => (t.ctx r).st = .live ∧ (t.ctx r).load = none ∧ (t.ctx r).hdr = p.hdr ∧ (t.ctx r).seed = p.seed ∧ (t.ctx r).routes = p.routes ∧
          t.ctl = dropNth i s.ctl)) ∧
    (∀ l ws bad f, (s.col c).cfgl = some l → l.badIdx = none → l.next < l.n → l.due ≤ s.now → s.nearWords (.col c) (l.addr + 40 * l.next) 5 = (ws, bad, f) →
      (cfglOk (wordAt ws 0) (f.col c).bandSize = false →
        answers (.cfglEntrySend c) s fun t => (t.col c).cfgl.map (·.badIdx) = some (some l.next) ∧ t.ctl = s.ctl) ∧
      (∀ d, cfglOk (wordAt ws 0) (f.col c).bandSize = true → f.slotCol c (bitsNat (wordAt ws 0) 7 0) = some d →
        answers (.cfglEntrySend c) s fun t => (t.col c).cfgl.map (·.next) = some (l.next + 1) ∧
          ∃ y, t.ctl = s.ctl ++ [y] ∧ y.tok.payload = vecOf (ws.drop 1) ∧ y.tok.bad = bad ∧ y.due = s.now + f.latency c d ∧
            ctlDest y.tok.hdr = ⟨d, fin 31 (bitsNat (wordAt ws 0) 12 8), fin 3 (bitsNat (wordAt ws 0) 14 13)⟩)) ∧
    (∀ l, (s.col c).cfgl = some l → l.badIdx.isSome = true ∨ l.n ≤ l.next →
      (∀ p ∈ l.parts, p.whole = true → ∃ q, p.res = some (true, q) ∧ q ≤ s.now) →
      answers (.cfglComplete c) s fun t => (t.col c).cfgl = none ∧
        (l.cls ≠ 31 → s.finished (.col c) = false → (s.cpu (.col c)).armed l.cls.toNat = true → (s.cpu (.col c)).pendCount < 64 → (s.cpu (.col c)).selfq = [] →
          ∃ m, (t.cpu (.col c)).pend = (s.cpu (.col c)).pend ++ [m] ∧ m.cls = l.cls ∧ m.g2 = 0 ∧ m.g3 = BitVec.ofNat 64 (l.parts.filter (·.whole)).length))

/-- R43, R120, R124, R140: the oldest reply of a stream leaves on its output with the port's ordinal, the stream's completion token follows its last access, and a completion token covers its group of requests. -/
def Obligations.AddressGeneratorEvents : Prop :=
  ∀ (s : State) (c : ColId) (e : ElemId) (k : CtxId) (m : Stream) (w : SW),
    let r : CtxRef := ⟨c, e, k⟩
    let f := s.formReplies r
    let leads (o : PortId) : Prop := (routeOf ((s.ctx r).routes.get o)).head = .dests [w] ∧ (routeOf ((s.ctx r).routes.get o)).turn = none ∧ w.form = 2
    let left (t : State) (o : PortId) (p : Vec) : Prop := ∃ y ∈ t.flights, y.dest = .port (w.portRef c k none) ∧ y.tok.payload = p ∧ y.tok.ord = (s.ctx r).ord.get o ∧ y.due = s.now + 1
    s.sends r = true →
    (∀ tk ts, (f.ctx r).strm = some m → m.next ≤ s.now → m.out = tk :: ts → f.canEmit r m.dout = true → leads m.dout →
      answers (.agReplyEmit c e k) s fun t => left t m.dout tk.payload ∧ (t.ctx r).ord.get m.dout = (s.ctx r).ord.get m.dout + 1 ∧
        ∀ y, (t.ctx r).strm = some y → y.out = ts ∧ y.next = s.now + 1) ∧
    ((f.ctx r).strm = some m → m.cen = true → m.compDone = false → m.drained = true → m.eosDue = false → m.next ≤ s.now → f.canEmit r m.cout = true → leads m.cout →
      answers (.streamCompletionToken c e k) s fun t => left t m.cout m.compToken.payload ∧ ∀ y, (t.ctx r).strm = some y → y.compDone = true) ∧
    (∀ n, (s.ctx r).strm = some m → ((s.ctx r).c.get 6).getLsbD 0 = true → m.nextGroup ((s.ctx r).c.get 6) = some n →
      (∀ q ∈ m.reqs, m.covered ≤ q.idx → q.idx < m.covered + n → s.reqForSys r m q = true) → s.canEmit r (c6Port ((s.ctx r).c.get 6)) = true →
      leads (c6Port ((s.ctx r).c.get 6)) →
      answers (.completionTokenEmit c e k) s fun t => (∀ y, (t.ctx r).strm = some y → y.covered = m.covered + n) ∧
        ∃ y ∈ t.flights, y.dest = .port (w.portRef c k none) ∧ bitsNat y.tok.payload 31 0 = (m.covered + n - 1) % 2 ^ 32 ∧ y.tok.valid = 1)

/-- R109, R344, R389, R394; R348, R393, R401, R402: A corrected word is written back, with no other change to its store; a bus that has met a threshold retires; a window begins with the counts of its stack's buses at 0; and a write to `vret` retires the buses of its set bits, and brings none back. The retrain and recovery counters of a link; a link that has not recovered within 1 ms goes out of service, and the running task that crosses it is on its way to status 7; an endpoint link that goes down leaves the tasks running and raises event 11 in every enabled partition. -/
def Obligations.StoreBusAndLinkEvents : Prop :=
  (∀ (s : State) (c : ColId) (n : Node) (z : StackId) (l : Fin 4) (w : Nat) (v : BitVec 64),
    (answers (.eccWriteback (.col c) true w) s fun t => (∀ b, b ∈ (t.col c).vert.soft ↔ b ∈ (s.col c).vert.soft ∧ b / 64 ≠ w) ∧
      (t.col c).vert.bytes = (s.col c).vert.bytes ∧ (t.col c).vert.bad = (s.col c).vert.bad) ∧
    (answers (.eccWriteback n false w) s fun t => (∀ b, b ∈ (t.cpu n).near.soft ↔ b ∈ (s.cpu n).near.soft ∧ b / 64 ≠ w) ∧
      (t.cpu n).near.bytes = (s.cpu n).near.bytes ∧ (t.cpu n).near.bad = (s.cpu n).near.bad) ∧
    (64 ≤ ((s.col c).buses.get l).unc ∨ 1024 ≤ ((s.col c).buses.get l).run → answers (.vbusRetire c l) s fun t => ∀ j < 4,
      (t.col c).vret.getLsbD j = ((s.col c).vret.getLsbD j || decide (j = l.val))) ∧
    ((s.cyc z).toNat / 2 ^ 30 ≠ (s.stack z).window → answers (.vbusErrorWindow z) s fun t => (t.stack z).window = (s.cyc z).toNat / 2 ^ 30 ∧
      ∀ k : ColId, (t.col k).vret = (s.col k).vret ∧ ∀ j, ((t.col k).buses.get j).unc = if stackOf k = z then 0 else ((s.col k).buses.get j).unc) ∧
    (s.hub.bstep = 9 → answers (.vretWrite c v) s fun t => ∀ j < 4, (t.col c).vret.getLsbD j = ((s.col c).vret.getLsbD j || v.getLsbD j))) ∧
  (∀ (s : State) (k : LinkRef) (u : Fin 8) (id : BitVec 16) (tk : Task) (since : Nat) (p : PartId),
    let low (h : Hub) (a : Nat) : Nat := bitsNat (h.reg a) 31 0
    let high (h : Hub) (a : Nat) : Nat := bitsNat (h.reg a) 63 32
    let up (v : Nat) : Nat := min (v + 1) (2 ^ 32 - 1)
    ((s.hub.retrain.any fun r => r.1 == k) = false →
      answers (.linkRetrain k false) s (fun t => t.hub.retrain = s.hub.retrain ++ [(k, s.now)] ∧ low t.hub k.reg = low s.hub k.reg ∧
        high t.hub k.reg = if k = .pcie then high s.hub k.reg else up (high s.hub k.reg)) ∧
      answers (.linkRetrain k true) s fun t => t.hub.retrain = s.hub.retrain ∧ low t.hub k.reg = up (low s.hub k.reg) ∧ high t.hub k.reg = high s.hub k.reg) ∧
    ((s.hub.retrain.any fun r => r.1 == k) = true → answers (.linkRetrain k true) s fun t => (∀ r, r ∈ t.hub.retrain ↔ r ∈ s.hub.retrain ∧ r.1 ≠ k) ∧
      high t.hub k.reg = if k = .pcie then up (high s.hub k.reg) else high s.hub k.reg) ∧
    ((s.hub.retrain.find? fun r => r.1 == .ucie u) = some (.ucie u, since) → since + 2900000 ≤ s.now → s.task? id = some tk → tk.st = .running → (s.hub.tasks.map (·.id)).Nodup →
      answers (.linkOutOfService (.ucie u) [id]) s fun t => t.hub.links.get u = false ∧ (∀ r ∈ t.hub.retrain, r.1 ≠ .ucie u) ∧
        ∃ x, t.task? id = some x ∧ x.st = .preempting ∧ x.ending = some 7) ∧
    ((s.hub.retrain.find? fun r => r.1 == .pcie) = some (.pcie, since) → since + 2900000 ≤ s.now →
      answers (.linkOutOfService .pcie []) s fun t => t.hub.pcieUp = false ∧ t.hub.tasks = s.hub.tasks) ∧
    (s.hub.pciemode ≠ 0#2 → (s.hub.reg (0x0F0130 + 0x1000 * p.val)).getLsbD 0 = true → s.hub.evHeld.get p = [] →
      answers .pcieEndpointLinkDown s fun t => t.hub.pcieUp = false ∧ t.hub.tasks = s.hub.tasks ∧
        ∃ r, t.hub.evHeld.get p = [r] ∧ r.bytes.head? = some 2#8 ∧ r.bytes[1]? = some 11#8))

/-- R117, R118, R150, R151, R349, R389, R403: a Keano core loads, stores and modifies device memory in place, uncached or at LPDDR6; LR and SC work through a cached mapping and fault through an uncached one; its load of an empty SA word waits, and is withdrawn after LIMIT cycles with an access fault; an uncorrectable burst faults the load, is counted and sends the RAS MSI; a posted write lands byte for byte, and a read returns the bytes; a host's 8-byte write to a launch port of BAR 0 is one to that port of HOSTPART. -/
def Obligations.KeanoAndHostAccesses : Prop :=
  ∀ (s : State) (core : Fin 16) (pa bytes i : Nat) (v : BitVec 64) (op : Nat) (ch : Nat), s.hub.bstep = 9 → s.memWf →
    let at_ (w : DWord) : DWord := BitVec.ofNat 64 (w.toNat / 2 ^ (8 * (pa % 8)) % 2 ^ (8 * bytes))
    let old := at_ (s.hub.dev.rawWord (pa / 8))
    let holds (t : State) (x : DWord) : Prop := ∀ a, t.hub.dev.byte a = if pa ≤ a ∧ a < pa + bytes then BitVec.ofNat 8 (x.toNat / 2 ^ (8 * (a - pa))) else s.hub.dev.byte a
    let msi : Signal := .msi (s.hub.reg 0x0E0AE0) (s.hub.reg 0x0E0AE8 &&& 0xFFFFFFFF#64)
    (∀ cached, s.hub.channel? pa = some ch → cached = false ∨ ch = 16 → bytes ∈ [1, 2, 4, 8] → pa % bytes = 0 →
      (s.hub.dev.isBad (pa / 64) = false →
        answers (.keanoDeviceAccess ⟨core, pa, bytes, false, cached, .load⟩) s (fun t => t.hub.signals = s.hub.signals ++ [.loaded core old] ∧ ∀ a, t.hub.dev.byte a = s.hub.dev.byte a) ∧
        answers (.keanoDeviceAccess ⟨core, pa, bytes, false, cached, .store v⟩) s (fun t => t.hub.signals = s.hub.signals ∧ holds t v) ∧
        (4 ≤ bytes → answers (.keanoDeviceAccess ⟨core, pa, bytes, false, cached, .amo op v⟩) s fun t => t.hub.signals = s.hub.signals ++ [.loaded core old] ∧
          holds t (amoResult op bytes old v)) ∧
        (cached = true → answers (.keanoDeviceAccess ⟨core, pa, bytes, false, true, .lr⟩) s (fun t => t.hub.signals = s.hub.signals ++ [.loaded core old] ∧ (core, pa / 64) ∈ t.hub.kres) ∧
          answers (.keanoDeviceAccess ⟨core, pa, bytes, false, true, .sc v⟩) s fun t => (∀ r ∈ t.hub.kres, r.1 ≠ core) ∧
            if s.hub.kres.contains (core, pa / 64) then t.hub.signals = s.hub.signals ++ [.loaded core 0] ∧ holds t v
            else t.hub.signals = s.hub.signals ++ [.loaded core 1] ∧ ∀ a, t.hub.dev.byte a = s.hub.dev.byte a)) ∧
      (cached = false → ∀ o ∈ [KeanoOp.lr, KeanoOp.sc v], answers (.keanoDeviceAccess ⟨core, pa, bytes, false, cached, o⟩) s fun t => t.hub.kres = s.hub.kres ∧
        t.hub.signals = s.hub.signals ++ [if o = KeanoOp.lr then .loadFault core else .storeFault core]) ∧
      (s.hub.dev.isBad (pa / 64) = true → answers (.keanoMemoryError core pa false) s fun t => t.hub.signals = s.hub.signals ++ [.loadFault core, msi] ∧
        bitsNat (t.hub.reg (errReg ch)) 63 32 = min (bitsNat (s.hub.reg (errReg ch)) 63 32 + 1) (2 ^ 32 - 1)) ∧
      (s.hub.dev.presence (pa / 8) = none → s.deferCount ⟨.dev, 0, pa⟩ < 16 →
        answers (.keanoDeviceAccess ⟨core, pa, bytes, true, cached, .load⟩) s fun t => t.hub.keano = s.hub.keano ++ [⟨core, pa, bytes, s.now⟩] ∧ t.hub.signals = s.hub.signals)) ∧
    (answers (.keanoMemoryError core pa true) s fun t => t.hub.signals = s.hub.signals ++ [msi] ∧
      bitsNat (t.hub.reg 0x0E0A80) 63 32 = min (bitsNat (s.hub.reg 0x0E0A80) 63 32 + 1) (2 ^ 32 - 1)) ∧
    (∀ w, s.hub.keano[i]? = some w → bitsNat (s.hub.reg 0x0E0D40) 47 0 ≠ 0 → w.since + bitsNat (s.hub.reg 0x0E0D40) 47 0 ≤ s.now → s.hub.dev.presence (w.pa / 8) = none →
      answers (.saDeferTimeout i) s fun t => t.hub.keano = dropNth i s.hub.keano ∧ t.hub.signals = s.hub.signals ++ [.loadFault w.core] ∧
        bitsNat (t.hub.reg 0x0E0D48) 31 0 = min (bitsNat (s.hub.reg 0x0E0D48) 31 0 + 1) (2 ^ 32 - 1)) ∧
    (∀ bs : List Byte, s.hub.pcieUp = true → s.hub.pciemode = 0#2 → (∀ j < bs.length, (s.hub.channel? (pa + j)).isSome = true ∧ s.hub.dev.isBad ((pa + j) / 64) = false) →
      answers (.pcieInboundAccess ⟨.dma, pa, bs, 0⟩) s (fun t => t.hub.signals = s.hub.signals ∧
        ∀ a, t.hub.dev.byte a = if pa ≤ a then (bs[a - pa]?).getD (s.hub.dev.byte a) else s.hub.dev.byte a) ∧
      (bs ≠ [] → answers (.pcieInboundAccess ⟨.dma, pa, [], bs.length⟩) s fun t => t.hub.signals = s.hub.signals ++ [.pcie ((List.range bs.length).map fun j => s.hub.dev.byte (pa + j))])) ∧
    (∀ q : Fin 16, s.hub.pcieUp = true → s.hub.pciemode = 1#2 ∨ s.hub.pciemode = 2#2 →
      exec (.pcieInboundAccess ⟨.bar0, 0x1000 + 8 * q.val, leBytes 8 v.toNat, 0⟩) s = exec (.launchPortWrite s.hub.hostpart q v) s)

/-- R222, R346, R416 to R419: a fired watch leaves its column and its class-15 message is queued; a trace, statistics or event record is written at the TAIL of its ring, which moves on, and an event record sends the queue's MSI; a Keano clock is raised past the value written to it, and a traced value offers a record with its core's clock. -/
def Obligations.RecordEvents : Prop :=
  ∀ (s : State) (c : ColId) (i n : Nat) (z : StackId) (k : Fin 16) (v : BitVec 64) (p : PartId),
    (∀ w x tnt, (s.col c).fired[i]? = some (w, x, tnt) → s.finished (.col c) = false → (s.cpu (.col c)).armed 15 = true → (s.cpu (.col c)).pendCount < 64 → (s.cpu (.col c)).selfq = [] →
      answers (.watchFire c i) s fun t => (t.col c).fired = dropNth i (s.col c).fired ∧ ∃ m, (t.cpu (.col c)).pend = (s.cpu (.col c)).pend ++ [m] ∧ m.cls = 15 ∧
        m.g1 = w.addr ∧ m.g2 = x ∧ m.g3 = BitVec.ofNat 64 (w.tag.toNat + (if tnt then 2 else 1) * 2 ^ 16)) ∧
    (∀ r rs, (s.stack z).sinkQ = r :: rs → s.hub.traceOn r.part = true → bitsNat (s.hub.reg (partReg r.part 0x208)) 4 0 = n →
      (s.hub.trTail.get r.part).toNat < 2 ^ n → ringUsed (bitsNat (s.hub.reg (partReg r.part 0x210)) 31 0) (s.hub.trTail.get r.part).toNat n + r.bytes.length / 32 < 2 ^ n →
      answers (.traceRecordWrite z) s fun t => (t.stack z).sinkQ = rs ∧
        (t.hub.trTail.get r.part).toNat = ((s.hub.trTail.get r.part).toNat + r.bytes.length / 32) % 2 ^ n) ∧
    (∀ st sc bs, s.hub.statQ[i]? = some (st, p, sc, bs) → (∀ q ∈ s.hub.statQ.take i, q.2.1 ≠ p) → bs.length = 32 → s.hub.statOn p = true →
      bitsNat (s.hub.reg (partReg p 0x248)) 4 0 = n → ringUsed (bitsNat (s.hub.reg (partReg p 0x250)) 31 0) (s.hub.stTail.get p).toNat n + 2 < 2 ^ n →
      answers (.statRingAppend i) s fun t => t.hub.statQ = dropNth i s.hub.statQ ∧ (t.hub.stTail.get p).toNat = ((s.hub.stTail.get p).toNat + 2) % 2 ^ n) ∧
    (∀ r rs, s.hub.evHeld.get p = r :: rs → 0 < s.hub.evFree p → r.bytes.length = 64 → s.memWf → bitsNat (s.hub.reg (partReg p 0x108)) 3 0 = n → n ≠ 0 →
      let base := bitsNat (s.hub.reg (partReg p 0x100)) 45 12 * 2 ^ 12 + 64 * (s.hub.evTail.get p).toNat
      (∀ j < 64, (s.hub.channel? (base + j)).isSome = true) →
      answers (.eventRecordWrite p) s fun t => t.hub.evHeld.get p = rs ∧ (t.hub.evTail.get p).toNat = ((s.hub.evTail.get p).toNat + 1) % 2 ^ n ∧
        (∀ j < 64, some (t.hub.dev.byte (base + j)) = r.bytes[j]?) ∧
        t.hub.signals = s.hub.signals ++ [.msi (s.hub.reg (partReg p 0x120)) (s.hub.reg (partReg p 0x128) &&& 0xFFFFFFFF#64)]) ∧
    (s.hub.bstep = 9 →
      answers (.kclkWrite k v) s (fun t => t.hub.kclk.get k = (if (s.hub.kclk.get k).toNat < (field v 0 48).toNat + 1 then field v 0 48 + 1 else s.hub.kclk.get k)) ∧
      (s.hub.traceOn 0 = true → (s.stack 0).sinkQ.length < 64 →
        answers (.ktraceWrite k v) s fun t => t.hub.kclk.get k = s.hub.kclk.get k + 1 ∧
          ∃ r, (t.stack 0).sinkQ = (s.stack 0).sinkQ ++ [r] ∧ r.part = 0 ∧ (r.bytes.drop 8).take 8 = leBytes 8 (s.hub.kclk.get k + 1).toNat ∧
            (r.bytes.drop 32).take 8 = leBytes 8 v.toNat))

/-- R107, R344, R348 to R352, R421, R429: a bit of PCOL takes a free column, or gives back one that no task holds; a host's mailbox write sends its MSI and a core's raises its vector; a bank or shelf closes for its reassignment, is busy until it is drained, and opens zeroed with its new owner; a period sets its meters to 0; a shelf is asked for a state, and comes up after waking; a register write reaches its register. -/
def Obligations.PartitionEvents : Prop :=
  ∀ (s : State) (p : PartId) (q : Fin 4) (c : ColId) (m : Fin 16) (v : BitVec 64) (z : StackId), s.hub.bstep = 9 →
    (let hit (k : ColId) : Prop := k.val / 64 = q.val
     let bit (k : ColId) : Bool := v.getLsbD (k.val % 64)
     answers (.pcolWrite p q v) s fun t => ∀ k : ColId, hit k →
       ((s.col k).part = none → (t.col k).part = if bit k then some p else none) ∧
       (∀ o, (s.col k).part = some o → o ≠ p → (t.col k).part = some o ∧ (bit k = true → t.hub.perr.getLsbD p.val = true)) ∧
       ((s.col k).part = some p → (t.col k).part = (if bit k ∨ s.heldByTask k = true then some p else none) ∧
         (bit k = false → s.heldByTask k = true → t.hub.perr.getLsbD p.val = true))) ∧
    (s.hub.pcieUp = true → s.hub.pciemode ≠ 0#2 → answers (.inboundMailboxWrite m v) s fun t => t.hub.mailIn.get m = v ∧ t.hub.signals = s.hub.signals ++ [.mailbox m.val]) ∧
    (answers (.outboundMailboxWrite m v) s fun t => t.hub.mailOut.get m = v ∧ t.hub.signals = s.hub.signals ++ (if s.hub.pciemode = 0#2 then [] else [.msix m.val])) ∧
    (let c := fin 255 (bitsNat v 7 0)
     let h : Fin 16 := fin 15 (bitsNat v 11 8)
     let cmd := if v.getLsbD 12 then Instr.reassignShelf v else .reassignBank v
     (s.hub.reassign.isSome = true → answers cmd s fun t => t.hub.rstat.getLsbD 4 = true ∧ t.hub.reassign = s.hub.reassign) ∧
     (s.hub.reassign = none → v.getLsbD 63 = true → (v.getLsbD 12 = true → (s.col c).shelfBusy h = false) →
       answers cmd s fun t => t.hub.rstat.getLsbD 0 = true ∧
         (∃ r, t.hub.reassign = some r ∧ r.shelf = v.getLsbD 12 ∧ r.idx = h ∧ r.col = c ∧ r.newPart = fin 7 (bitsNat v 15 13) ∧ s.now < r.due) ∧
         (v.getLsbD 12 = true → (t.col c).shelfShut.getLsbD h.val = true) ∧ (v.getLsbD 12 = false → (t.col c).bankShut.getLsbD h.val = true)) ∧
     (s.hub.reassign = none → v.getLsbD 63 = true → v.getLsbD 12 = true → (s.col c).shelfBusy h = true →
       answers cmd s fun t => t.hub.reassign = none ∧ bitsNat t.hub.rstat 3 1 = 1 ∧ t.hub.rstat.getLsbD 0 = false)) ∧
    (∀ r, s.hub.reassign = some r → r.due ≤ s.now → s.memWf →
      answers .reassignDone s fun t => t.hub.reassign = none ∧ t.hub.rstat.getLsbD 0 = false ∧
        (r.shelf = true → (t.col r.col).shelfTag.get r.idx = some r.newPart ∧ (t.col r.col).shelfShut.getLsbD r.idx.val = false) ∧
        (r.shelf = false → (t.col r.col).bankTag.get r.idx = some r.newPart ∧ (t.col r.col).bankShut = 0 ∧ (t.col r.col).nsmap.getLsbD r.idx.val = r.il ∧
          (t.col r.col).nssa.getLsbD r.idx.val = r.sa ∧
          (((s.col r.col).bankTag.get r.idx).getD ((s.col r.col).part.getD (r.newPart + 1)) ≠ r.newPart →
            ∀ a, r.idx.val * 0x1800 ≤ a → a < (r.idx.val + 1) * 0x1800 → (t.cpu (.col r.col)).near.byte a = 0))) ∧
    ((s.cyc z).toNat / 4096 ≠ (s.stack z).period → answers (.budgetPeriod z) s fun t => (t.stack z).period = (s.cyc z).toNat / 4096 ∧ (z = 0 → t.hub.use = []) ∧
      ∀ k : ColId, stackOf k = z → ∀ j, (t.col k).useL.get j = 0 ∧ ∀ l, ((t.col k).useV.get j).get l = 0) ∧
    (answers (.shpwrWrite c v) s fun t => ∀ h : Fin 16, (s.col c).drift.shelves.get h = .free →
      let now := (s.col c).shpw.get h
      (t.col c).shpw.get h = match bitsNat v (2 * h.val + 1) (2 * h.val) with
        | 0 => if now = 0#2 then 0#2 else 3#2
        | 1 => 1#2
        | 2 => 2#2
        | _ => now) ∧
    ((s.col c).shpw.get m = 3#2 → s.memWf → answers (.shelfWakeDone c m) s fun t => (t.col c).shpw.get m = 0#2 ∧
      ∀ a, shelfBase m.val ≤ a → a < shelfBase m.val + shelfBytes → (t.col c).vert.byte a = if (s.col c).wasOff.getLsbD m.val then 0 else (s.col c).vert.byte a) ∧
    (∀ a ∈ [0x0E0A00, 0x0E0A88, 0x0E0AC8, 0x0E0AE0], answers (.registerWrite a v) s fun t => t.hub.reg a = v ∧ ∀ b, b ≠ a → t.hub.reg b = s.hub.reg b) ∧
    (answers (.registerWrite 0x0E0D40 v) s fun t => t.hub.reg 0x0E0D40 = v &&& 0xFFFFFFFFFFFF#64)

/-- R125, R127 to R130, R257, R260, R419: an idle engine takes its oldest block, or turns it away with status 1; a finished transfer reports to its column and frees its engine; a request packet is taken or, malformed, dropped and counted, and one that is read through ends with its EOS marker; a node of a graph is launched, finishes and lowers its successors, and the graph ends with its last, and reports. -/
def Obligations.TransferAndGraphEvents : Prop :=
  ∀ (s : State) (z : StackId) (e : TeId) (c : ColId) (i j : Nat), s.hub.pwr = .run →
    let u := (s.stack z).te.get e
    let lists (x : Xfer) (t : State) : Prop := ∀ k, k ∈ (t.col x.col).jobs ↔ k ∈ (s.col x.col).jobs ∧ k ≠ x.job
    (∀ x r, u.cur = none → u.q = x :: r →
      (x.ok (s.bandOfTask x.task) = true → s.hub.engWeight (s.taskSpace x.task).2 0 ≠ 0 →
        answers (.transferStart z e) s fun t => ((t.stack z).te.get e).q = r ∧ (t.cpu (.hart (teHart z e))).lclk = lamport (s.cpu (.hart (teHart z e))).lclk (some x.stamp) ∧
          ∃ m, ((t.stack z).te.get e).cur = some m ∧ m.x = x ∧ m.next = 0 ∧ m.total = x.total ∧ m.fault = false) ∧
      (x.ok (s.bandOfTask x.task) = false ∨ s.hub.engWeight (s.taskSpace x.task).2 0 = 0 → x.ccls = 31 → x.node = none →
        answers (.transferStart z e) s fun t => ((t.stack z).te.get e).q = r ∧ ((t.stack z).te.get e).cur = none ∧ lists x t)) ∧
    (∀ m tk, u.cur = some m → m.x.reply = none → m.fault = false → m.total ≤ m.next → m.part = [] → m.paused = none → m.clipped = 0 → m.x.cnode = 0xFFF →
      (m.x.ccls = 31 → answers (.transferComplete z e) s fun t => ((t.stack z).te.get e).cur = none ∧ t.msgs = s.msgs ∧ lists m.x t) ∧
      (m.x.ccls < 13 → s.task? m.x.task = some tk → tk.st ≠ .ended → tk.spills = false → (s.cpu (.col m.x.col)).pendCount < 64 →
        answers (.transferComplete z e) s fun t => ((t.stack z).te.get e).cur = none ∧ lists m.x t ∧ ∃ f, t.msgs = s.msgs ++ [f] ∧ f.dst = .col m.x.col ∧ f.msg.cls.toNat = m.x.ccls ∧
          f.msg.handler = some (m.x.haddr, m.x.xid) ∧ f.msg.words = [BitVec.ofNat 64 (if m.taint then 3 else 0), BitVec.ofNat 64 (m.written / 8), 0, 0])) ∧
    (∀ q r b col k, u.cur = none → u.packets = q :: r → q.arr ≤ s.now → q.tok.marker = false → q.cred = .exit col k → (s.col col).band = some b →
      (packetOf col b.task (s.slotOf b.task) q.tok.payload = none →
        answers (.requestPacket z e) s fun t => ((t.stack z).te.get e).packets = r ∧ ((t.stack z).te.get e).badPackets = satInc u.badPackets 1 ∧ ((t.stack z).te.get e).cur = none) ∧
      (∀ x, packetOf col b.task (s.slotOf b.task) q.tok.payload = some x →
        answers (.requestPacket z e) s fun t => ((t.stack z).te.get e).packets = r ∧ ∃ m, ((t.stack z).te.get e).cur = some m ∧ m.x = x ∧ m.next = 0 ∧ m.total = (x.w 1).toNat)) ∧
    (∀ m p v, u.cur = some m → m.x.reply = some (p, v) → m.fault = false → m.total ≤ m.next → s.freeOf (.port p) ≠ 0 →
      answers (.requestPacket z e) s fun t => ((t.stack z).te.get e).cur = none ∧ ∃ f, t.flights = s.flights ++ [f] ∧ f.dest = .port p ∧ f.due = s.now + 1 ∧
        f.tok.marker = true ∧ f.tok.sub = 2 ∧ f.tok.vch = v ∧ f.tok.payload = BitVec.setWidth 256 (m.x.w 3)) ∧
    (∀ g n tk, s.overGraph? c = none → s.graph? c = some g → g.base = none → g.nodes[i]? = some n → s.task? g.task = some tk → tk.st = .running → n.finished = false →
      let ended (t : State) (status node : Nat) : Prop := ∃ h ∈ (t.stack (stackOf c)).graphs, h.id = g.id ∧ h.ended = some (status, node, s.cyc (stackOf c))
      (∀ d, n.launched = false → n.count = 0 → n.kind = 1 → s.slotOf g.task (bitsNat n.arg 15 0) = some d →
        answers (.cgNodeFinish c i) s fun t => (t.ctx ⟨d, fin 31 (bitsNat n.arg 20 16), fin 3 (bitsNat n.arg 22 21)⟩).sect = field n.arg 32 32 ∧
          ∃ h, t.graph? c = some h ∧ h.nodes[i]?.map (·.launched) = some true) ∧
      (n.launched = true → n.bad = false → n.kind = 2 → n.succ = [] → answers (.cgNodeFinish c i) s fun t =>
        if (dropNth i g.nodes).all (·.finished) then ended t 0 0xFFF else ∃ h, t.graph? c = some h ∧ h.nodes[i]?.map (·.finished) = some true) ∧
      (∀ y, n.launched = true → n.bad = false → n.kind = 2 → n.succ = [j] → j ≠ i → j < 4095 → g.nodes[j]? = some y → 2 ≤ y.count → y.finished = false →
        answers (.cgNodeFinish c i) s fun t => ∃ h, t.graph? c = some h ∧ h.nodes[i]?.map (·.finished) = some true ∧ h.nodes[j]? = some { y with count := y.count - 1 }) ∧
      (n.launched = true → n.bad = false → n.kind = 2 → n.succ = [g.nodes.length] → g.nodes.length < 4095 → answers (.cgNodeFinish c i) s fun t =>
        ended t 1 g.nodes.length)) ∧
    (∀ g st nd cy, s.overGraph? c = some (g, st, nd, cy) → s.graph? c = none →
      let gone (t : State) : Prop := ∀ x, x ∈ (t.stack (stackOf c)).graphs ↔ x ∈ (s.stack (stackOf c)).graphs ∧ x.id ≠ g.id
      (g.cls = 31 → answers (.cgNodeFinish c i) s fun t => gone t ∧ t.msgs = s.msgs) ∧
      (∀ tk, g.cls < 31 → s.task? g.task = some tk → tk.st ≠ .ended → tk.spills = false → (s.cpu (.col c)).pendCount < 64 →
        answers (.cgNodeFinish c i) s fun t => gone t ∧ ∃ f, t.msgs = s.msgs ++ [f] ∧ f.dst = .col c ∧ f.msg.cls.toNat = g.cls ∧
          f.msg.words = [BitVec.ofNat 64 (st + nd * 2 ^ 16), BitVec.ofNat 64 (g.nodes.filter (·.finished)).length, cy, 0]))

/-- R79, R109, R136, R138, R139, R149, R258, R259: a queued store performs without its issuer's view changing, and a store at an ordering point reaches its channel; a refill is taken and its shelf is filling, or turned away, and with its last granule the shelf is ready; a bulk move that has ended queues its message; a kick arrives at its engine's hart. -/
def Obligations.AccessSwapAndKickEvents : Prop :=
  ∀ (s : State) (n : Node) (z : StackId) (h : HartId) (i : Nat), s.memWf →
    (∀ o, (s.cpu n).storeQ[i]? = some o → (∀ x ∈ (s.cpu n).storeQ.take i, x.loc.word ≠ o.loc.word) → o.due ≤ s.now → o.loc.addr % 8 = 0 → (o.loc.space = .dev ∨ (o.loc.space = .near ∧ ∀ c, n = .col c → o.loc.col = c)) →
      (∀ c, (s.col c).cpu.near.isBad (o.loc.addr / 8) = false) → (∀ k, (s.hart k).cpu.near.isBad (o.loc.addr / 8) = false) →
      answers (.accessPerforms (.store n i)) s fun t => (t.cpu n).storeQ = dropNth i (s.cpu n).storeQ ∧ (∀ a, t.seen n { o.loc with addr := a } = s.seen n { o.loc with addr := a }) ∧
        (∀ m r, t.reg m r = s.reg m r)) ∧
    (∀ o, (s.stack z).ord[i]? = some o → (∀ x ∈ (s.stack z).ord.take i, x.pa / 8 ≠ o.pa / 8) → s.hub.dev.isBad (o.pa / 64) = false →
      answers (.accessPerforms (.ordered z i)) s fun t => (t.stack z).ord = dropNth i (s.stack z).ord ∧
        ∀ w, t.hub.dev.rawWord w = if w = o.pa / 8 then mergeWord (s.hub.dev.rawWord w) o.data o.mask else s.hub.dev.rawWord w) ∧
    (∀ r rs, (s.stack z).lse = none → (s.stack z).lseQ = r :: rs → s.refillRuns r = true →
      (s.refillRefused r = false → s.fetches r = false → answers (.swapRefillStart z) s fun t => (t.stack z).lseQ = rs ∧
        (t.col r.col).drift.shelves.get (fin 15 r.shelf) = .filling r.stage ∧ ∃ f, (t.stack z).lse = some f ∧ f.r = r ∧ f.next = 0) ∧
      (s.refillRefused r = true → r.ccls = 31 → answers (.swapRefillStart z) s fun t => (t.stack z).lseQ = rs ∧ (t.stack z).lse = none ∧
        (∀ k, (t.col r.col).drift.shelves.get k = (s.col r.col).drift.shelves.get k) ∧ ∀ k, k ∈ (t.col r.col).jobs ↔ k ∈ (s.col r.col).jobs ∧ k ≠ r.job)) ∧
    (∀ f, (s.stack z).lse = some f → s.refillRuns f.r = true → f.paused = none → f.fault = false → f.r.pieces ≤ f.next → f.r.ccls = 31 → f.r.auto = false →
      answers (.swapRefillDone z) s fun t => (t.stack z).lse = none ∧ (t.col f.r.col).drift.shelves.get (fin 15 f.r.shelf) = .ready f.r.stage ∧
        ∀ k, k ∈ (t.col f.r.col).jobs ↔ k ∈ (s.col f.r.col).jobs ∧ k ≠ f.r.job) ∧
    (∀ m, (s.hart h).moves[i]? = some m → m.bad = true ∨ m.fault = true ∨ m.len ≤ m.next → s.finished (.hart h) = false → (s.hart h).cpu.armed 12 = true →
      (s.hart h).cpu.pendCount < 64 → (s.hart h).cpu.selfq = [] →
      answers (.bmovComplete h i) s fun t => (t.hart h).moves = dropNth i (s.hart h).moves ∧ ∃ p, (t.hart h).cpu.pend = (s.hart h).cpu.pend ++ [p] ∧ p.cls = 12 ∧
        p.g1 = (if m.bad then 1 else if m.fault then 2 else if m.taint then 3 else 0) ∧ p.g2 = BitVec.ofNat 64 m.written ∧ p.g3 = BitVec.setWidth 64 m.tag) ∧
    (∀ eng v st fr, s.hub.kicked[i]? = some (eng, v, st, fr) → (∀ k ∈ s.hub.kicked.take i, k.1 ≠ eng) → eng < 0x2C → eng ≠ 0x28 → hartSender h = eng → s.finished (.hart h) = false →
      (s.hart h).cpu.armed 0 = true → (s.hart h).cpu.pendCount < 64 →
      answers (.engineKick i) s fun t => t.hub.kicked = dropNth i s.hub.kicked ∧ ∃ p, (t.hart h).cpu.pend = (s.hart h).cpu.pend ++ [p] ∧ p.cls = 0 ∧ p.g1 = v ∧ p.stamp = some st)

/-- R154, R158, R161 to R171, R174, R252: a vector that is admitted adds the rows of the active page at the position, 28 of the column's cycles later, and moves the position on; one of two tokens keeps the page and the position that it entered with; without a page it is dropped and counted; a marker follows what was admitted before it, swaps the planes it is armed for, and a wave-begin resets the position; rows are emitted 8 a token; positions are cleared 4 a cycle; a page that has been read is ready, or refused with its class-16 message. -/
def Obligations.FrostEvents : Prop :=
  ∀ (s : State) (c : ColId),
    let f := (s.col c).fab
    f.pipe = [] → f.next ≤ s.now → s.frostRuns c = true →
    let p := f.planes.get f.act
    (∀ q r, f.q = q :: r → q.arr ≤ s.now → q.tok.marker = false → q.tok.sonde = none →
      (f.half = none → p.st = .ready → p.iw16 = false → f.posHeld f.pos = false →
        answers (.frostVectorAdmit c) s fun t => (t.col c).fab.q = r ∧ (t.col c).fab.pos = f.pos + 1 ∧ (t.col c).fab.next = s.now + 1 ∧
          (t.col c).fab.cnt.get 0 = satInc (f.cnt.get 0) 1 ∧ (q.cred ≠ .free → ∃ y ∈ t.credits, y.feeder = q.cred) ∧
          (t.col c).fab.pipe = [.vec (s.now + s.colCycles c 28) f.pos.toNat (p.rowValues (frostIns p [q.tok])) (p.taint || q.tok.taint)]) ∧
      (f.half = none → p.st = .ready → p.iw16 = true → 16 < p.nin → f.posHeld f.pos = false →
        answers (.frostVectorAdmit c) s fun t => (t.col c).fab.q = r ∧ (t.col c).fab.pos = f.pos + 1 ∧ (t.col c).fab.pipe = [] ∧ (t.col c).fab.half = some (q.tok, p, f.pos)) ∧
      (∀ a y x, f.half = some (a, y, x) → f.posHeld x = false →
        answers (.frostVectorAdmit c) s fun t => (t.col c).fab.q = r ∧ (t.col c).fab.pos = f.pos ∧ (t.col c).fab.half = none ∧ (t.col c).fab.cnt.get 0 = satInc (f.cnt.get 0) 1 ∧
          (t.col c).fab.pipe = [.vec (s.now + s.colCycles c 28) x.toNat (y.rowValues (frostIns y [a, q.tok])) (y.taint || (a.taint || q.tok.taint))]) ∧
      (f.half = none → p.st ≠ .ready → f.nopage = true → answers (.frostVectorAdmit c) s fun t => (t.col c).fab.q = r ∧ (t.col c).fab.pos = f.pos ∧ (t.col c).fab.pipe = [] ∧
        (t.col c).fab.cnt.get 1 = satInc (f.cnt.get 1) 1)) ∧
    (∀ q r, f.q = q :: r → q.arr ≤ s.now → q.tok.marker = true → f.half = none → f.markHeld q.tok = false → 1 ≤ s.foFree c →
      let swaps : Prop := f.armed = some q.tok.sub ∧ (f.planes.get f.shadow).st = .ready
      answers (.frostMarkerAdmit c) s fun t => (t.col c).fab.q = r ∧ (t.col c).fab.pipe = [.mark (s.now + s.colCycles c 28) q.tok] ∧
        (q.tok.sub = 0 → (t.col c).fab.pos = 0) ∧ (q.tok.sub ≠ 0 → ¬swaps → (t.col c).fab.pos = f.pos) ∧
        (swaps → (t.col c).fab.act = f.shadow ∧ (t.col c).fab.armed = none ∧ (t.col c).fab.pos = 0 ∧ (t.col c).fab.cnt.get 3 = satInc (f.cnt.get 3) 1) ∧
        (¬swaps → (t.col c).fab.act = f.act ∧ (t.col c).fab.armed = f.armed)) ∧
    (∀ e o rt w, f.emit = some e → e.next ≤ s.now → s.foFree c ≠ 0 → s.foRoute c = some (o, rt) → rt.turn = none → rt.head = .dests [w] → w.form = 2 → o.at_.col = c → 8 * e.tok < e.rows →
      answers (.femitToken c) s fun t => (∃ y ∈ t.flights, y.dest = .port (w.portRef c o.at_.ctx none) ∧ y.due = s.now + 1 ∧ y.tok.marker = false ∧
          y.tok.taint = f.accTaint.getLsbD e.pos ∧ y.tok.valid.toNat = (min (e.rows - 8 * e.tok) 8) - 1 ∧
          ∀ i < 8, laneOf y.tok.payload.toNat 32 i = if 8 * e.tok + i < e.rows then (lookupD 0 ((8 * e.tok + i) * 64 + e.pos) f.acc).toNat else 0) ∧
        (t.col c).fab.emit = (if 8 * e.tok + 8 < e.rows then some { e with tok := e.tok + 1, next := s.now + 1 }
          else if e.pos < e.last then some { e with tok := 0, pos := e.pos + 1, next := s.now + 1 } else none)) ∧
    (∀ k, f.clr = some k → k.next ≤ s.now → k.pos ≤ k.last → k.last < 64 →
      let gone (x : Nat) : Prop := k.pos ≤ x ∧ x < k.pos + 4 ∧ x ≤ k.last
      answers (.fgclrCycle c) s fun t => (∀ q, q ∈ (t.col c).fab.acc ↔ q ∈ f.acc ∧ ¬gone (q.1 % 64)) ∧
        (∀ x < 64, (t.col c).fab.accTaint.getLsbD x = true ↔ f.accTaint.getLsbD x = true ∧ ¬gone x) ∧
        (t.col c).fab.clr = if k.last < k.pos + 4 then none else some ⟨k.pos + 4, k.last, s.now + 1⟩) ∧
    (∀ l, f.load = some l →
      let len := imageLen (BitVec.ofNat 64 (leNat ((l.bytes 1).take 8)))
      let n := ceilDiv len 128
      let q := pageOf ((l.bytes n).take len) l.taint l.addr
      l.addr.toNat + len ≤ apertureEnd l.addr.toNat → (∀ g < n, (l.got.any fun x => x.1 == g) = true) → (∀ m, s.frostSleeps c l m = false) →
      (0 < (s.col c).pageWidth l.addr.toNat → l.due + s.colCycles c (ceilDiv len ((s.col c).pageWidth l.addr.toNat) + 24) ≤ s.now) →
      s.finished (.col c) = false → (s.cpu (.col c)).armed 16 = true → (s.cpu (.col c)).pendCount < 64 → (s.cpu (.col c)).selfq = [] →
      answers (.frostLoadDone c) s fun t => (t.col c).fab.load = none ∧
        (q.refusal = none → ((t.col c).fab.planes.get l.plane).st = .ready ∧ ((t.col c).fab.planes.get l.plane).nodes = q.nodes ∧
          ((t.col c).fab.planes.get l.plane).rowMap = q.rowMap) ∧
        (q.refusal ≠ none → ((t.col c).fab.planes.get l.plane).st = .empty ∧ (t.col c).fab.armed = none) ∧
        ∃ m, (t.cpu (.col c)).pend = (s.cpu (.col c)).pend ++ [m] ∧ m.cls = 16 ∧ (bitsNat m.g1 7 0 = 0 ↔ q.refusal = none) ∧
          ∀ k i, q.refusal = some (k, i) → bitsNat m.g1 15 8 = k % 256 ∧ bitsNat m.g2 31 0 = q.pageId.toNat)

/-- R241, R248, R307, R309: a barrier whose accesses have drained queues its class-13 message, a band's for every slot; a gather point forwards the token whose turn it is, and one marker for the equal markers of all its slots; a full corner-turn buffer sends token j with lane j of each of its inputs, the first now, and returns the credits with its last, while a marker at its head is forwarded. -/
def Obligations.BarrierGatherAndTurnEvents : Prop :=
  ∀ (s : State) (c : ColId) (i : Nat) (k : Fin 4),
    (∀ b, (s.col c).barr = some b → b.band = false → s.barrDrained c b = true → s.finished (.col c) = false → (s.cpu (.col c)).armed 13 = true →
      (s.cpu (.col c)).pendCount < 64 → (s.cpu (.col c)).selfq = [] →
      answers (.barrierComplete c) s fun t => (t.col c).barr = none ∧ ∃ m, (t.cpu (.col c)).pend = (s.cpu (.col c)).pend ++ [m] ∧ m.cls = 13 ∧
        m.g1 = BitVec.ofNat 64 (b.tag.toNat * 256) ∧ m.g2 = s.cyc (stackOf c)) ∧
    (∀ b tk, (s.col c).barr = some b → b.band = true → s.taskOf c = some tk →
      (∀ d ∈ tk.cols, ∃ y, (s.col d).barr = some y ∧ y.band = true ∧ y.tag = b.tag ∧ s.barrDrained d y = true) →
      answers (.barrierComplete c) s fun t => ∀ d ∈ tk.cols, (t.col d).barr = none) ∧
    (∀ g, (s.col c).gathers[i]? = some g → g.stuck = false → g.next ≤ s.now → (s.col c).pre = .none →
      (∀ q a, g.slots[g.turn]? = some (some (q, a)) → q.arr ≤ s.now → q.tok.marker = false → s.freeOf (.port (g.port q)) ≠ 0 →
        answers (.gatherMove c i) s fun t => (∃ y, t.flights = s.flights ++ [y] ∧ y.tok = { q.tok with tag := none } ∧ y.dest = .port (g.port q) ∧ y.due = s.now + 1) ∧
          ∃ h, (t.col c).gathers[i]? = some h ∧ h.turn = (g.turn + 1) % g.slots.length ∧ h.slots[g.turn]? = some none ∧ ∀ j, j ≠ g.turn → h.slots[j]? = g.slots[j]?) ∧
      (∀ q a, g.slots[g.turn]? = some (some (q, a)) → q.tok.marker = true → s.freeOf (.port (g.port q)) ≠ 0 → (∀ x ∈ g.slots, ∃ y z, x = some (y, z) ∧ y.arr ≤ s.now ∧ y.tok.marker = true ∧ y.tok.sameMarker q.tok = true) →
        answers (.gatherMove c i) s fun t => (∃ y, t.flights = s.flights ++ [y] ∧ y.tok = { q.tok with tag := none } ∧ y.dest = .port (g.port q) ∧ y.due = s.now + 1) ∧
          ∃ h, (t.col c).gathers[i]? = some h ∧ h.turn = 0 ∧ ∀ x ∈ h.slots, x = none)) ∧
    (let u := (s.col c).turns.get k
     ∀ p w, u.owner = some p → u.due ≤ s.now → (turnRoute ((s.ctx p.at_).routes.get p.port)).head = .dests [w] → w.form = 2 →
      (∀ tags, s.headFree c p.at_.elem p.at_.ctx p.port (.dests [w]) tags ≠ 0) → p.at_.col = c →
      let sent (t : State) (tag : Option CtxId) (x : Vec) : Prop := ∃ y ∈ t.flights, y.dest = .port (w.portRef c p.at_.ctx tag) ∧ y.tok.payload = x ∧ y.due = s.now + 1
      let row (j : Nat) : Vec := BitVec.ofNat 256 (packLanes u.w (u.inq.map fun q => turnLane u.w j q.tok))
      (∀ q r, u.out = [] → u.inq = q :: r → u.inq.length = 2 ^ u.k → (∀ x ∈ u.inq, x.tok.marker = false) → 0 < u.k →
        answers (.cturnEmit c k) s fun t => sent t q.tok.tag (row 0) ∧ ((t.col c).turns.get k).out.map (·.payload) = (List.range (2 ^ u.k - 1)).map (fun j => row (j + 1)) ∧
          ((t.col c).turns.get k).inq = [] ∧ ((t.col c).turns.get k).blk = 2 ^ u.k ∧ ((t.col c).turns.get k).due = s.now + 1 ∧ t.credits = s.credits) ∧
      (∀ x, u.out = [x] → answers (.cturnEmit c k) s fun t => sent t x.tag x.payload ∧ ((t.col c).turns.get k).out = [] ∧ ((t.col c).turns.get k).inq = u.inq ∧
        (t.credits.filter fun y => y.feeder == .turn c k).length = (s.credits.filter fun y => y.feeder == .turn c k).length + u.blk + if u.ends then u.cut else 0) ∧
      (∀ q r, u.out = [] → u.inq = q :: r → q.tok.marker = true → u.ready = false → answers (.cturnEmit c k) s fun t => sent t none q.tok.payload ∧
        ((t.col c).turns.get k).inq = r ∧ ((t.col c).turns.get k).ends = false))

/-- R64, R70, R72 to R77, R81, R83, R84, R241, R255, R256: a scroll opens where nothing holds it: the next stage is hosted, the registers are exchanged with the staging buffer, and the window is that of its position; a save ends after its time and the next stage's restore begins; a restore ends 24 cycles after its move, and its stage is ready; a forced scroll at rest goes on to its save, and then home to its lap-0 stage; a waiting marker takes an injection slot; `dsave` and `drest` begin when the stage is quiescent and end with their class-13 message. -/
def Obligations.DriftEvents : Prop :=
  ∀ (s : State) (c : ColId),
    let d := (s.col c).drift
    let note (x t : State) (g1 g3 : DWord) : Prop := ∃ m, (t.cpu (.col c)).pend = (x.cpu (.col c)).pend ++ [m] ∧ m.cls = 13 ∧ m.g1 = g1 ∧ m.g2 = s.cyc (stackOf c) ∧ m.g3 = g3
    let ready (x : State) : Prop := x.finished (.col c) = false ∧ (x.cpu (.col c)).armed 13 = true ∧ (x.cpu (.col c)).pendCount < 64 ∧ (x.cpu (.col c)).selfq = []
    let berthFree (r : StageRes) : Prop := (r.saved = true ∧ r.resident = true) ∨ d.sharer r.stage = none
    (∀ r n, d.forced = none → s.holdOf c = some (r, n, none) →
      answers (.scrollOpen c) s fun t => let e := (t.col c).drift
        e.hosted = n.stage ∧ e.odd = decide (d.position n.stage % 2 = 1) ∧ e.restored = false ∧ e.hold = none ∧ e.cnt.get 0 = satInc (d.cnt.get 0) 1 ∧
          (∃ l, e.phase = .window l r.stage n.stage ∧ s.now + 7 ≤ l) ∧
          (∀ k, (t.cpu (.col c)).g.get k = d.stgG.get k ∧ e.stgG.get k = (s.cpu (.col c)).g.get k) ∧
          (∀ k, (t.cpu (.col c)).hte.get k = d.stgHte.get k ∧ e.stgHte.get k = (s.cpu (.col c)).hte.get k) ∧
          ∀ h : Fin 16, n.shelves.getLsbD h.val = true → e.shelves.get h = .hosted) ∧
    (∀ k t0 r, d.phase = .saving k t0 → d.res k = some r → (s.col c).scrolling = false → d.moveTill ≤ s.now → berthFree r →
      (k ≠ d.hosted → d.forced = none →
        answers (.berthSaveDone c) s fun t => (∃ y, (t.col c).drift.res k = some y ∧ y.saved = true ∧ y.resident = true) ∧
          (∀ n, d.next = some n → ∃ t1, (t.col c).drift.phase = .restoring n.stage t1) ∧ (d.next = none → (t.col c).drift.phase = .idle)) ∧
      (∀ f h, k = d.hosted → d.forced = some f → f.noticed = true → d.seq.head? = some h →
        answers (.berthSaveDone c) s fun t => (∃ y, (t.col c).drift.res k = some y ∧ y.saved = true ∧ y.resident = true) ∧
          (h.stage = k → (t.col c).drift.forced = none) ∧
          (h.stage ≠ k → (t.col c).drift.forced = some f ∧ ∃ t1, (t.col c).drift.phase = .restoring h.stage t1))) ∧
    (∀ k t0 r, d.phase = .restoring k t0 → d.res k = some r → r.resident = true → d.forced = none → Nat.max t0 d.moveTill + 24 ≤ s.now → d.put ≤ ((s.col c).berthLens r).length →
      answers (.berthRestoreDone c) s fun t => (t.col c).drift.phase = .idle ∧ (t.col c).drift.hosted = d.hosted ∧
        (t.col c).drift.restored = (decide (0 < d.put) || (s.berthDir c r).1.isSome || d.restored)) ∧
    (∀ k t0 r f, d.phase = .restoring k t0 → d.res k = some r → r.resident = true → d.forced = some f → d.moveTill + 24 ≤ s.now → (s.readBerth c r).1.isSome = true →
      answers (.berthRestoreDone c) s fun t => (t.col c).drift.forced = none ∧ (t.col c).drift.hosted = r.stage ∧ (t.col c).drift.lap = 0) ∧
    (∀ f, d.forced = some f → f.noticed = false → s.linkBusy c = false → d.phase = .idle → d.cur.isSome = true → (∀ o, d.op = some o → o.begun = none) →
      answers (.flushNotice c) s fun t => (t.col c).drift.cnt.get 4 = satInc (d.cnt.get 4) f.waves ∧ (t.col c).drift.cnt.get 5 = satInc (d.cnt.get 5) f.tokens ∧
        (2 ≤ d.seq.length → (t.col c).drift.forced = some { f with noticed := true } ∧ (t.col c).drift.phase = .saving d.hosted s.now) ∧
        (d.seq.length < 2 → (t.col c).drift.forced = none)) ∧
    (∀ p m r, d.scrollq = (p, m) :: r → (s.col c).injFree ≠ 0 → p.at_.col = c →
      answers (.scrollMarkerPlace c) s fun t => (t.col c).drift.scrollq = r ∧ (t.col c).injFree = (s.col c).injFree - 1 ∧
        ∃ f, t.flights = s.flights ++ [f] ∧ f.dest = .port p ∧ f.due = s.now + 1 ∧ f.tok.marker = m.marker ∧ f.tok.sub = m.sub ∧ f.tok.payload = m.payload) ∧
    (∀ o r, d.op = some o → d.cur = some r → o.begun = none → d.forced = none → s.quiescent c r = true →
      answers (.stageQuiesce c) s fun t => (t.col c).drift.op = some { o with begun := some s.now } ∧ ∀ e k, (t.col c).ctx e k = (s.col c).ctx e k) ∧
    (∀ o r t0, d.op = some o → d.cur = some r → o.rollback = false → o.begun = some t0 → d.moveTill ≤ s.now → berthFree r → ready s →
      answers (.dsaveDone c) s fun t => (t.col c).drift.op = none ∧ (∃ y, (t.col c).drift.res r.stage = some y ∧ y.saved = true ∧ y.resident = true) ∧
        ∃ y bad, note s t (BitVec.ofNat 64 (2 + if bad = true then 2 ^ 24 else 0)) (BitVec.ofNat 64 y)) ∧
    (∀ o r t0, d.op = some o → d.cur = some r → o.rollback = true → o.begun = some t0 → (s.cpu (.col c)).busy = false → d.moveTill + 24 ≤ s.now →
      ((s.readBerth c r).1 = none → ready s → answers (.drestDone c) s fun t => (t.col c).drift.op = none ∧ note s t (BitVec.ofNat 64 (3 + 2 ^ 24)) 0) ∧
      (∀ raw n b, (s.readBerth c r).1 = some (raw, n, b) →
        let x := ((s.readBerth c r).2.taintStage c r.stage b).putImage c r (d.view r.stage) raw s.now
        ready x → answers (.drestDone c) s fun t => (t.col c).drift.op = none ∧ note x t 3 (BitVec.ofNat 64 n) ∧ ∀ k, (t.cpu (.col c)).g.get k = (x.cpu (.col c)).g.get k))

/-- R376, R377, R379, R381 to R383, R385; R149, R348, R381, R385: An invalidation leaves no cached translation of its range, and when it is over the streams that it paused run; a retry resumes what waits at the page; a descriptor that breaks a rule is refused whole; a page in hand goes into transit and is copied with its entry rewritten, a finished descriptor answers in its mailbox; a page-out makes a group's entry FLASH, and a page-in fills a frame and makes it present. A kick of the migration or of the flash paging engine whose descriptor keeps the rules, for a partition of weight above 0, is taken whole: the engine's queue ends with the move that the descriptor's fields name. -/
def Obligations.PagingEvents : Prop :=
  (∀ (s : State) (p : PartId) (a n v : BitVec 64) (pa i : Nat), s.hub.bstep = 9 → s.memWf →
    let w (k : Nat) : DWord := s.hub.peekW (pa + 8 * k)
    let calm : Prop := (∀ r ∈ s.liveCtxs, (s.ctx r).strm = none) ∧ ∀ k, ∀ x ∈ (s.stack k).replay, ∀ r, x.who = .stream r → (s.ctx r).strm = none
    let plain (l : Leaf) (m : Move) : Prop := m.leaf s.hub m.va = some l ∧ l.bits = 12 ∧ pteContig l.ent = false ∧ pteComp l.ent = false ∧ l.addr % 8 = 0 ∧
      s.hub.peekW l.addr = l.ent ∧ s.hub.dev.isBad (l.addr / 64) = false
    (s.hub.inval = none → n.getLsbD 63 = true →
      answers (.tlbInvalidate a n) s fun t => ∃ q, t.hub.inval = some q ∧ q.all = a.getLsbD 0 ∧ q.asid = field a 48 16 ∧
        (q.lo, q.hi) = (if bitsNat n 31 0 = 0 then (0, 2 ^ 48) else (bitsNat a 47 12 * 4096, bitsNat a 47 12 * 4096 + bitsNat n 31 0 * 4096)) ∧
        (∀ c, ∀ e ∈ (t.col c).tlb, e ∈ (s.col c).tlb ∧ q.hits e = false) ∧ (∀ k, ∀ e ∈ (t.stack k).tlb, e ∈ (s.stack k).tlb ∧ q.hits e = false) ∧ ∀ e ∈ t.hub.wcache, e ∈ s.hub.wcache ∧ q.hits e = false) ∧
    (s.hub.inval.isSome = true → n.getLsbD 63 = true → answers (.tlbInvalidate a n) s fun t => t.hub.tinvRej = true ∧ t.hub.inval = s.hub.inval) ∧
    (∀ q, s.hub.inval = some q → s.storesPending q = false → (∀ r ∈ s.liveCtxs, s.streamPending q r = false) →
      answers .tlbInvalidateDone s fun t => t.hub.inval = none ∧
        ∀ r ∈ s.liveCtxs, q.all = true ∨ q.asid = field (s.col r.col).ptb 48 16 → ∀ m, (s.ctx r).strm = some m → m.halt = .inval → (t.ctx r).strm.map (·.halt) = some .run) ∧
    (∀ k e m y, ((s.stack k).te.get e).cur = some m → m.paused = some y → y / 4096 = bitsNat v 47 12 → (s.taskSpace m.x.task).2 = p →
      field (s.taskSpace m.x.task).1 48 16 = (field v 48 16 : BitVec 16) →
      answers (.pfresRetry p v) s fun t => ((t.stack k).te.get e).cur = some { m with paused := none }) ∧
    (answers (.freeFrameTailWrite p v) s fun t => t.hub.reg (partReg p 0x158) = v &&& 0xFFFF#64 ∧ t.hub.ringEmpty.get p = false) ∧
    (bitsNat (w 1) 33 32 = 3 ∨ s.hub.spaceOf (field (w 0) 48 16) = none ∨ bitsNat (w 0) 11 0 ≠ 0 →
      answers (.migrationKick pa) s (fun t => ∃ m, t.hub.moves = s.hub.moves ++ [m] ∧ m.status = 2 ∧ m.left = 0 ∧ m.tag = field (w 3) 48 16) ∧
      answers (.flashPageoutKick pa) s fun t => ∃ m, t.hub.flash = s.hub.flash ++ [m] ∧ m.status = 2 ∧ m.left = 0 ∧ m.op = 4) ∧
    (∀ m r l, s.hub.moves = m :: r → m.left ≠ 0 → m.status = 0 → s.hub.pwr = .run → m.op = 0 → s.hub.inval = none → plain l m →
      (m.transit = false → l.st = .present →
        answers .migrationPageDone s fun t => (∃ y, t.hub.moves = y :: r ∧ y.transit = true ∧ y.va = m.va) ∧ (t.hub.peekW l.addr) = putBit l.ent 58 true ∧
          ∃ q, t.hub.inval = some q ∧ q.asid = m.asid ∧ q.lo = m.va / 4096 * 4096 ∧ q.hi = m.va / 4096 * 4096 + 4096) ∧
      (m.transit = true → s.hub.admits 24 m.part 4 = true → s.hub.inPmem m.part m.dst = true → s.hub.inPmem m.part (m.dst + 4095) = true → s.hub.mapped m.dst 4096 = true →
        s.hub.dev.badIn (l.pa s.hub (m.va / 4096 * 4096)) 4096 = false → l.addr + 8 ≤ m.dst ∨ m.dst + 4096 ≤ l.addr → calm →
        answers .migrationPageDone s fun t => (∃ y, t.hub.moves = y :: r ∧ y.transit = false ∧ y.left = m.left - 1 ∧ y.moved = m.moved + 1 ∧ y.va = m.va / 4096 * 4096 + 4096 ∧ y.dst = m.dst + 4096) ∧
          bitsNat (t.hub.peekW l.addr) 45 12 = m.dst / 4096 % 2 ^ 34 ∧ (t.hub.peekW l.addr).getLsbD 58 = false ∧
          ∀ k < 4096, t.hub.dev.byte (m.dst + k) = s.hub.dev.byte (l.pa s.hub (m.va / 4096 * 4096) + k))) ∧
    (∀ m r, s.hub.moves = m :: r → m.left = 0 → m.transit = false →
      answers .migrationComplete s fun t => t.hub.moves = r ∧ (∀ a, m.mbox = some a → (s.hub.channel? a).isSome = true → a % 16 = 0 →
        t.hub.dev.rawWord (a / 8) = BitVec.ofNat 64 (m.status % 256 + m.tag.toNat * 2 ^ 8 + m.moved * 2 ^ 32) ∧ t.hub.dev.rawWord (a / 8 + 1) = BitVec.ofNat 64 m.bytes)) ∧
    (∀ m l, s.hub.pageOut = some i → s.hub.flash[i]? = some m → m.left ≠ 0 → m.status = 0 → m.transit = true → s.hub.inval = none → m.leaf s.hub m.va = some l →
      (∀ k ∈ l.entries, k % 8 = 0) → calm →
      answers (.flashGroupWritten true) s fun t => (∃ y, t.hub.flash[i]? = some y ∧ y.transit = false ∧ y.moved = m.moved + 1 ∧ y.va = m.va + 0x10000 ∧ y.left = m.left - 16) ∧
        ∀ k ∈ l.entries, (t.hub.peekW k).getLsbD 56 = true ∧ (t.hub.peekW k).getLsbD 58 = false ∧ (t.hub.peekW k).getLsbD 63 = false ∧
          bitsNat (t.hub.peekW k) 45 0 = (m.dst + 16 * m.moved) % 2 ^ 46) ∧
    (∀ m, s.hub.pageOut = some i → s.hub.flash[i]? = some m → m.left = 0 → answers (.flashGroupWritten true) s fun t => t.hub.flash = dropNth i s.hub.flash) ∧
    (∀ m l f x data, s.hub.flash[i]? = some m → m.op = 5 → m.leaf s.hub m.va = some l → l.st = .flash → s.takeFrame m.part = (some f, x) → data.length = 0x10000 → calm →
      (∀ k ∈ l.entries, k % 8 = 0 ∧ (k + 8 ≤ f ∨ f + 0x10000 ≤ k)) →
      answers (.pageInDone i true data) s fun t => t.hub.flash = dropNth i s.hub.flash ∧ (∀ k < 0x10000, some (t.hub.dev.byte (f + k)) = data[k]?) ∧
        ∀ k ∈ l.entries, (t.hub.peekW k).getLsbD 63 = true ∧ (t.hub.peekW k).getLsbD 56 = false)) ∧
  (∀ (s : State) (pa : Nat) (root : DWord) (q : PartId), s.hub.bstep = 9 →
    let w (k : Nat) : DWord := s.hub.peekW (pa + 8 * k)
    let va := bitsNat (w 0) 47 12 * 4096
    let left := bitsNat (w 1) 31 0
    let pages (ok : Leaf → Bool) : Prop := wholePages s.hub (bitsNat root 45 12 * 4096) va ok left left = true
    let named (m : Move) : Prop := m.asid = (field (w 0) 48 16 : BitVec 16) ∧ m.root = root ∧ m.part = q ∧ m.va = va ∧ m.left = left ∧ m.tag = (field (w 3) 48 16 : BitVec 16) ∧
      m.mbox = some (bitsNat (w 3) 47 4 * 16) ∧ m.status = 0 ∧ m.moved = 0 ∧ m.bytes = 0 ∧ m.transit = false
    s.hub.spaceOf (field (w 0) 48 16) = some (root, q) → bitsNat (w 0) 11 0 = 0 → bitsNat (w 2) 63 46 = 0 → bitsNat (w 3) 3 0 = 0 →
    (∀ op, bitsNat (w 1) 63 34 = 0 → bitsNat (w 1) 33 32 = op → op ≤ 2 → s.hub.engWeight q 4 ≠ 0 →
      let dst := bitsNat (w 2) 45 12 * 4096
      pages (fun l => (op != 1 || (l.bits == 16 && l.disc != .sa)) && (op != 0 || dst % 2 ^ l.bits == 0)) →
      answers (.migrationKick pa) s fun t => ∃ m, t.hub.moves = s.hub.moves ++ [m] ∧ named m ∧ m.op = op ∧ m.dst = dst) ∧
    (bitsNat (w 1) 63 35 = 0 → bitsNat (w 1) 33 32 = 0 → s.hub.engWeight q 3 ≠ 0 → pages (fun l => l.bits == 16 && l.st == .present && l.disc != .sa) →
      answers (.flashPageoutKick pa) s fun t => ∃ m, t.hub.flash = s.hub.flash ++ [m] ∧ named m ∧ m.op = 4 ∧ m.dst = bitsNat (w 2) 45 0 ∧ m.force = (w 1).getLsbD 34))

/-- R393, R404, R406, R407, R408: a command while one is in progress answers 2, one that needs DBG without it 1; a stop halts the column, a resume starts it and its contexts; a step needs the debug state, and one firing a stopped context that may fire; a breakpoint unit takes its fields. -/
def Obligations.DebugCommandEvents : Prop :=
  ∀ (s : State) (c : ColId) (e : ElemId) (k : CtxId) (u : Fin 4) (v : BitVec 64), s.hub.bstep = 9 →
    let x := s.col c
    let y := s.ctx ⟨c, e, k⟩
    (∀ i ∈ [Instr.dbgStop c, .dbgSquall c, .dbgStepFiring c e k, .dbgStepInstruction c, .dbgResume c, .dbgRead c, .dbgWrite c], x.dbg.busy = true →
      answers i s fun t => (t.col c).dbg = { x.dbg with result := 2 } ∧ ∀ d, d ≠ c → t.col d = s.col d) ∧
    (∀ i ∈ [Instr.dbgStop c, .dbgSquall c, .dbgStepFiring c e k, .dbgStepInstruction c], x.dbg.busy = false → x.dbgOn = false →
      answers i s fun t => (t.col c).dbg = { x.dbg with result := 1 } ∧ ∀ d, d ≠ c → t.col d = s.col d) ∧
    (x.dbg.busy = false →
      (x.dbgOn = true →
        answers (.dbgStop c) s (fun t => (t.col c).dbg.dhalt = true ∧ (t.col c).dbg.result = 0 ∧ ∀ m r, t.reg m r = s.reg m r) ∧
        (x.dbg.dhalt = false → answers (.dbgStepInstruction c) s fun t => (t.col c).dbg = { x.dbg with result := 3 }) ∧
        (x.dbg.dhalt = true → x.cpu.busy = true →
          answers (.dbgStepInstruction c) s fun t => (t.col c).dbg = { x.dbg with stepping := true, busy := x.dbg.stepping, result := 0 }) ∧
        (y.stopped = false → answers (.dbgStepFiring c e k) s fun t => (t.col c).dbg = { x.dbg with result := 3 } ∧ t.ctx ⟨c, e, k⟩ = y) ∧
        (y.stopped = true → y.st = .live → x.drift.fires e k = true → s.fires c = true → (s.elem c e).busy ≤ s.now → s.permit ⟨c, e, k⟩ = .ok → y.mergeWord = none → hRole y.hdr ≠ .sy → hRole y.hdr ≠ .ag → x.droop = false →
          (∀ w ∈ y.words, isAgWord (opOf w) = false) →
          answers (.dbgStepFiring c e k) s fun t => (t.col c).dbg.result = 0 ∧ (t.elem c e).busy = s.now + hLen y.hdr ∧
            ∀ p, ((t.ctx ⟨c, e, k⟩).q.get p).toks = (y.q.get p).toks.drop (y.takes p))) ∧
      (x.dbg.squall = none → x.dbg.sqstop = false →
        answers (.dbgResume c) s fun t => (t.col c).dbg.dhalt = false ∧ (t.col c).dbg.result = 0 ∧ (∀ e k, (t.ctx ⟨c, e, k⟩).stopped = false) ∧ ∀ d, d ≠ c → t.col d = s.col d)) ∧
    (answers (.bptWrite c u v) s fun t => let b := (t.col c).dbg.bpts.get u
      (b.ctl &&& 0xEFFFFFFFFFFFFFFF#64) = (v &&& 0xE000001FFFFFFFFF#64) ∧ b.ctl.getLsbD 60 = ((x.dbg.bpts.get u).ctl.getLsbD 60 && !v.getLsbD 60) ∧
        b.count = if v.getLsbD 63 then 0 else (x.dbg.bpts.get u).count)

/-- R393, R409, R410, R412, R413: a squall begins at every column of the band with its id; it reaches a column, which enters the debug state; it ends when every live context of the band has stopped, or at its timeout, which stops the rest and says so, and the RAS MSI is sent; a debug read returns the word of a memory that is on, a debug write in the debug state writes it, and an access that woke a shelf performs once the shelf is on. -/
def Obligations.SquallAndDebugAccessEvents : Prop :=
  ∀ (s : State) (c : ColId) (id : BitVec 16) (cols : List ColId) (t0 : Nat), s.memWf →
    let x := s.col c
    let a := bitsNat x.dbg.dbaddr 27 0
    let msi : Signal := .msi (s.hub.reg 0x0E0AE0) (s.hub.reg 0x0E0AE8 &&& 0xFFFFFFFF#64)
    (∀ b, s.hub.bstep = 9 → x.dbg.busy = false → x.dbgOn = true → x.band = some b → (∀ q ∈ s.hub.squalls, q.1 ≠ b.task) →
      answers (.dbgSquall c) s fun t => t.hub.squalls = s.hub.squalls ++ [(b.task, s.now)] ∧
        ∀ (d : ColId) y, (s.col d).band = some y → y.task = b.task → (t.col d).dbg.squall = some (s.cyc (stackOf c)) ∧ (t.col d).dbg.arrived = false) ∧
    (∀ n, x.dbg.squall = some n → x.dbg.sqstop = false → x.dbg.arrived = false →
      answers (.squallArrive c) s fun t => (t.col c).dbg.dhalt = true ∧ (t.col c).dbg.arrived = true ∧
        ∃ r, (t.col c).drift.scrollq = x.drift.scrollq ++ r ∧ r.map (·.1) = x.injOrd.map (·.1) ∧ ∀ q ∈ r, q.2.marker = true ∧ q.2.sub = 5 ∧ q.2.payload = BitVec.setWidth 256 n) ∧
    (s.squallOf id = some (cols, t0) →
      ((∀ d ∈ cols, (s.col d).dbg.arrived = true ∧ ∀ r, r.col = d → (s.col d).unstopped r = false) →
        answers (.squallComplete id) s fun t => t.hub.signals = s.hub.signals ++ [msi] ∧ (∀ q ∈ t.hub.squalls, q.1 ≠ id) ∧ ∀ d ∈ cols, (t.col d).dbg.sqstop = true ∧ (t.col d).dbg.dhalt = true) ∧
      (t0 + 65536 ≤ s.now →
        answers (.squallTimeout id) s fun t => t.hub.signals = s.hub.signals ++ [msi] ∧ (∀ q ∈ t.hub.squalls, q.1 ≠ id) ∧ ∀ d ∈ cols, (t.col d).dbg.sqstop = true ∧
          (∀ r : CtxRef, r.col = d → (t.col d).unstopped r = false) ∧ (∀ r : CtxRef, r.col = d → (s.col d).unstopped r = true → (t.col d).dbg.inexact = true))) ∧
    (s.hub.bstep = 9 → x.dbg.busy = false → x.dbg.dbaddr.getLsbD 63 = false → a % 8 = 0 → x.nearCause a = none →
      (x.cpu.near.isBad (x.nearPhys a / 8) = false →
        answers (.dbgRead c) s fun t => (t.col c).dbg.result = 0 ∧ (t.col c).dbg.dbdata = x.cpu.near.rawWord (x.nearPhys a / 8) ∧ (t.col c).dbg.taint = false ∧ t.cpu (.col c) = s.cpu (.col c)) ∧
      (x.dbg.dhalt = true → answers (.dbgWrite c) s fun t => (t.col c).dbg.result = 0 ∧ (t.cpu (.col c)).near.rawWord (x.nearPhys a / 8) = x.dbg.dbdata ∧
        (t.cpu (.col c)).near.isBad (x.nearPhys a / 8) = false ∧ ∀ w, w ≠ x.nearPhys a / 8 → (t.cpu (.col c)).near.rawWord w = (s.cpu (.col c)).near.rawWord w) ∧
      (x.dbg.dhalt = false → answers (.dbgWrite c) s fun t => (t.col c).dbg.result = 3 ∧ t.cpu (.col c) = s.cpu (.col c))) ∧
    (∀ l n, x.dbg.pending = some (false, n) → x.debugLoc c = some l → l.space = .vert → x.shelfOn (vShelf l.addr) = true → x.vret.getLsbD (vLayer l.addr) = false → x.vert.isBad (l.addr / 8) = false →
      answers (.debugAccessDone c) s fun t => (t.col c).dbg.pending = none ∧ (t.col c).dbg.busy = false ∧ (t.col c).dbg.result = 0 ∧ (t.col c).dbg.dbdata = x.vert.rawWord (l.addr / 8))

/-- R18, R43, R57, R151, R169, R190, R349, R360, R428: what power-on leaves, as the spec gives it: the handler table, the scale registers, the four dispatcher registers and `satmo`, no bus retired, nothing retired from service, and bring-up at its first step; every memory is in canonical form. The registers that the spec gives no value are zero (assumption log 1): of them this says only that g0 is. -/
def Obligations.ResetHoldsTheStatedValues : Prop :=
  let s := State.reset
  (∀ (n : Node) (k : Fin 20), ((s.cpu n).hte.get k).toNat = (if k.val < 12 then 0 else [10, 9, 8, 8, 9, 11, 14, 15].getD (k.val - 12) 0) * 2 ^ 24) ∧
  (∀ n, s.reg n 0 = 0 ∧ (s.cpu n).pend = [] ∧ (s.cpu n).outq = [] ∧ (s.cpu n).storeQ = []) ∧
  (∀ c e k, ((s.elem c e).sc.get k) = 127#8) ∧ (∀ c, (s.col c).vret = 0 ∧ (s.col c).band = none ∧ (s.col c).fab.pos = 0) ∧ (∀ r, (s.ctx r).st = .empty) ∧
  bitsNat (s.hub.reg 0x0E0D40) 47 0 = 2 ^ 32 ∧ bitsNat (s.hub.reg 0x0E0100) 15 0 = 200 ∧
  bitsNat (s.hub.reg 0x0E0108) 7 0 = 105 ∧ bitsNat (s.hub.reg 0x0E0108) 15 8 = 95 ∧ (s.hub.reg 0x0E0108).getLsbD 16 = true ∧
  (∀ q < 16, bitsNat (s.hub.reg (0x0E0180 + 8 * q)) 15 0 = 500) ∧
  s.hub.bstep = 1 ∧ s.hub.tasks = [] ∧ (∀ z, (s.stack z).cyc = 0) ∧ s.memWf

/-- R109, R114, R136: the canonical form of the memories is an invariant: a step of a running sequencer that is free to issue keeps it, whatever core form it executes (loads and stores of device registers apart), and whatever fault it takes. -/
def Obligations.AStepKeepsTheMemoriesCanonical : Prop :=
  ∀ s t : State, s.memWf → s.agenda = [] → s.seqStopped s.focus = false → (s.cpu s.focus).ready ≤ s.now → (s.cpu s.focus).busy = true →
    (∀ w f i, s.fetch s.focus = .ok (w, f) → decode w = .ok i → coreForm f i = true) → step s = .next t → t.memWf

/-- R139, R146, R153: the verdicts of the litmus tests, on executions written out from the tables. -/
def Obligations.TheLitmusTestsHaveTheirVerdicts : Prop :=
  let P := litmusP 0
  let Q (i : Nat) : Party := litmusP (i % 2) i
  let E : Party := .engine 0 0
  let K : Party := .outside 0
  let mp (e : List Edge) : Execution := ⟨[litmusSt (P 0) 0 1, litmusSt (P 0) 1 1, litmusLd (P 1) 1 1, litmusLd (P 1) 0 0], e, [], []⟩
  let sb (e : List Edge) : Execution := ⟨[litmusSt (P 0) 0 1, litmusLd (P 0) 1 0, litmusSt (P 1) 1 1, litmusLd (P 1) 0 0], e, [], []⟩
  let lb (e : List Edge) : Execution := ⟨[litmusLd (P 0) 0 1, litmusSt (P 0) 1 1, litmusLd (P 1) 1 1, litmusSt (P 1) 0 1], e, [], []⟩
  let co (e : List Edge) : Execution := ⟨[litmusSt (P 0) 0 1, litmusLd (P 1) 0 1, litmusLd (P 1) 0 0], e, [], []⟩
  let iriw (p : Nat → Party) (e : List Edge) : Execution :=
    ⟨[litmusSt (p 0) 0 1, litmusSt (p 1) 1 1, litmusLd (p 2) 0 1, litmusLd (p 2) 1 0, litmusLd (p 3) 1 1, litmusLd (p 3) 0 0], e, [], []⟩
  let ww (e : List Edge) : Execution := ⟨[litmusSt (P 0) 0 1, litmusSt (P 0) 1 2, litmusSt (P 1) 1 1, litmusSt (P 1) 0 2], e, [(0, some 1), (1, some 1)], []⟩
  let mbox (g : DWord) (e : List Edge) : Execution :=
    ⟨[litmusSt (P 0) 0 5, litmusSt (P 0) 1 1, litmusLd E 0 g, litmusSt E 2 g, litmusSt E 3 1, litmusLd K 3 1, litmusLd K 2 0], e, [], []⟩
  let kick : List Edge := [⟨0, 1, .sys⟩, ⟨1, 2, .sys⟩, ⟨1, 3, .sys⟩, ⟨1, 4, .sys⟩]
  let release : List Edge := [⟨2, 4, .sys⟩, ⟨3, 4, .sys⟩]
  let keano : List Edge := [⟨5, 6, .sys⟩]
  ((mp []).Allowed ∧ (mp [⟨0, 1, .stack⟩]).Allowed ∧ (mp [⟨2, 3, .stack⟩]).Allowed ∧ ¬(mp [⟨0, 1, .stack⟩, ⟨2, 3, .stack⟩]).Allowed ∧
    (mp [⟨0, 1, .col⟩, ⟨2, 3, .stack⟩]).Allowed ∧ ¬(mp [⟨0, 1, .sys⟩, ⟨2, 3, .sys⟩]).Allowed) ∧
  ((sb []).Allowed ∧ (sb [⟨0, 1, .stack⟩]).Allowed ∧ (sb [⟨2, 3, .stack⟩]).Allowed ∧ ¬(sb [⟨0, 1, .stack⟩, ⟨2, 3, .stack⟩]).Allowed) ∧
  ((lb []).Allowed ∧ (lb [⟨0, 1, .stack⟩]).Allowed ∧ (lb [⟨2, 3, .stack⟩]).Allowed ∧ ¬(lb [⟨0, 1, .stack⟩, ⟨2, 3, .stack⟩]).Allowed) ∧
  ((co []).Allowed ∧ ¬(co [⟨1, 2, .sys⟩]).Allowed) ∧
  ((iriw P []).Allowed ∧ (iriw P [⟨2, 3, .stack⟩]).Allowed ∧ ¬(iriw P [⟨2, 3, .stack⟩, ⟨4, 5, .stack⟩]).Allowed ∧
    (iriw Q [⟨2, 3, .stack⟩, ⟨4, 5, .stack⟩]).Allowed ∧ ¬(iriw Q [⟨2, 3, .pkg⟩, ⟨4, 5, .pkg⟩]).Allowed) ∧
  ((ww []).Allowed ∧ (ww [⟨0, 1, .stack⟩]).Allowed ∧ (ww [⟨2, 3, .stack⟩]).Allowed ∧ ¬(ww [⟨0, 1, .stack⟩, ⟨2, 3, .stack⟩]).Allowed) ∧
  ((mbox 0 []).Allowed ∧ (mbox 5 (kick ++ release)).Allowed ∧ (mbox 0 (release ++ keano)).Allowed ∧ ∀ g, ¬(mbox g (kick ++ release ++ keano)).Allowed)

end
end

