-- ==== Sys2Proof/Laws/Memory.lean ====
section
/-! SUPPORT. Byte stores: what a read after a write gives, and that every memory operation keeps the canonical form. -/

namespace Sys2Proof.Machine

open Sys2Proof

/-- Every address of the list is above `a`. -/
def cellsAbove (a : Nat) (l : List Host.Cell) : Prop := ∀ p ∈ l, a < p.1

/-- The canonical form, one entry at a time. -/
theorem cellsWf_cons (a : Nat) (b : Byte) (r : List Host.Cell) :
    cellsWf ((a, b) :: r) = true ↔ b ≠ 0 ∧ cellsAbove a r ∧ cellsWf r = true := by
  induction r generalizing a b with
  | nil => simp [cellsWf, cellsAbove]
  | cons x r ih =>
    obtain ⟨a', b'⟩ := x
    have h := ih a' b'
    simp only [cellsWf, Bool.and_eq_true, decide_eq_true_eq, bne_iff_ne, ne_eq]
    constructor
    · rintro ⟨⟨h1, h2⟩, h3⟩
      refine ⟨h1, ?_, h3⟩
      intro p hp
      rcases List.mem_cons.1 hp with rfl | hp
      · exact h2
      · exact Nat.lt_trans h2 ((h.1 h3).2.1 p hp)
    · rintro ⟨h1, h2, h3⟩
      exact ⟨⟨h1, h2 (a', b') (by simp)⟩, h3⟩

theorem cellsAbove_put (a x : Nat) (v : Byte) (l : List Host.Cell) (hx : a < x) (h : cellsAbove a l) :
    cellsAbove a (cellPut l x v) := by
  induction l with
  | nil =>
    simp only [cellPut]
    split <;> simp [cellsAbove, hx]
  | cons p r ih =>
    obtain ⟨k, b⟩ := p
    have hr : cellsAbove a r := fun q hq => h q (List.mem_cons_of_mem _ hq)
    have hk : a < k := h (k, b) (by simp)
    have := ih hr
    simp only [cellPut]
    split
    · split
      · exact h
      · intro q hq
        rcases List.mem_cons.1 hq with rfl | hq
        · exact hx
        · exact h q hq
    · split
      · split
        · exact hr
        · intro q hq
          rcases List.mem_cons.1 hq with rfl | hq
          · exact hx
          · exact hr q hq
      · intro q hq
        rcases List.mem_cons.1 hq with rfl | hq
        · exact hk
        · exact this q hq

/-- Writing a byte keeps the canonical form. -/
theorem cellsWf_put (l : List Host.Cell) (x : Nat) (v : Byte) (h : cellsWf l = true) : cellsWf (cellPut l x v) = true := by
  induction l with
  | nil =>
    simp only [cellPut]
    split
    · rfl
    · rename_i hv; simpa [cellsWf] using hv
  | cons p r ih =>
    obtain ⟨k, b⟩ := p
    obtain ⟨hb, ha, hr⟩ := (cellsWf_cons k b r).1 h
    simp only [cellPut]
    split
    · rename_i hlt
      split
      · exact h
      · refine (cellsWf_cons _ _ _).2 ⟨‹_›, ?_, h⟩
        intro q hq
        rcases List.mem_cons.1 hq with rfl | hq
        · exact hlt
        · exact Nat.lt_trans hlt (ha q hq)
    · split
      · rename_i _ heq
        subst heq
        split
        · exact hr
        · exact (cellsWf_cons _ _ _).2 ⟨‹_›, ha, hr⟩
      · exact (cellsWf_cons _ _ _).2 ⟨hb, cellsAbove_put k x v r (by omega) ha, ih hr⟩

/-- Leaving entries out keeps the canonical form. -/
theorem cellsWf_filter (l : List Host.Cell) (p : Host.Cell → Bool) (h : cellsWf l = true) : cellsWf (l.filter p) = true := by
  induction l with
  | nil => rfl
  | cons q r ih =>
    obtain ⟨k, b⟩ := q
    obtain ⟨hb, ha, hr⟩ := (cellsWf_cons k b r).1 h
    rw [List.filter_cons]
    split
    · exact (cellsWf_cons _ _ _).2 ⟨hb, fun q hq => ha q (List.mem_filter.1 hq).1, ih hr⟩
    · exact ih hr

theorem cellGet_below (l : List Host.Cell) (x : Nat) (h : cellsAbove x l) : cellGet l x = 0 := by
  cases l with
  | nil => rfl
  | cons p r =>
    obtain ⟨k, b⟩ := p
    have : x < k := h (k, b) (by simp)
    simp [cellGet, this, Nat.ne_of_lt this]

/-- A read after a write of one byte. -/
theorem cellGet_put (l : List Host.Cell) (x y : Nat) (v : Byte) (h : cellsWf l = true) :
    cellGet (cellPut l x v) y = if y = x then v else cellGet l y := by
  induction l with
  | nil =>
    simp only [cellPut]
    split
    · subst_vars; simp [cellGet]
    · simp only [cellGet]; split <;> simp_all
  | cons p r ih =>
    obtain ⟨k, b⟩ := p
    obtain ⟨hb, ha, hr⟩ := (cellsWf_cons k b r).1 h
    have ih := ih hr
    simp only [cellPut]
    split
    · rename_i hlt
      split
      · subst_vars
        by_cases hy : y = x
        · subst hy; simp [cellGet, hlt, Nat.ne_of_lt hlt]
        · simp [hy]
      · by_cases hy : y = x
        · subst hy; simp [cellGet]
        · by_cases hlt' : y < x
          · have : y < k := by omega
            simp [cellGet, hy, hlt', this, Nat.ne_of_lt this]
          · simp [cellGet, hy, hlt']
    · split
      · rename_i _ heq
        subst heq
        split
        · subst_vars
          by_cases hy : y = x
          · subst hy; simp [cellGet_below r y ha]
          · by_cases hlt' : y < x
            · have hab : cellsAbove y r := fun q hq => Nat.lt_trans hlt' (ha q hq)
              simp [cellGet, hy, hlt', cellGet_below r y hab]
            · simp [cellGet, hy, hlt']
        · by_cases hy : y = x
          · subst hy; simp [cellGet]
          · simp [cellGet, hy]
      · rename_i h1 h2
        by_cases hy : y = k
        · subst hy
          have : y ≠ x := fun e => h2 e.symm
          simp [cellGet, this]
        · by_cases hlt' : y < k
          · have : y ≠ x := by omega
            simp [cellGet, hy, hlt', this]
          · simp [cellGet, hy, hlt', ih]

/-! Stores. -/

theorem Store.wf_empty : Memory.wf Store.empty = true := rfl

theorem Store.wf_putByte (m : Store) (a : Nat) (v : Byte) (h : Memory.wf m = true) : Memory.wf (m.putByte a v) = true :=
  cellsWf_put _ _ _ h

theorem Store.wf_putBytes (m : Store) (a : Nat) (bs : List Byte) (h : Memory.wf m = true) : Memory.wf (m.putBytes a bs) = true := by
  induction bs generalizing m a with
  | nil => exact h
  | cons b bs ih => exact ih _ _ (Store.wf_putByte m a b h)

theorem Store.wf_writeWord (m : Store) (w : Nat) (k : BitVec 8) (v : DWord) (h : Memory.wf m = true) :
    Memory.wf (m.writeWord w k v) = true := Store.wf_putBytes _ _ _ h

theorem Store.wf_zeroRange (m : Store) (a n : Nat) (h : Memory.wf m = true) : Memory.wf (m.zeroRange a n) = true :=
  cellsWf_filter _ _ h

@[simp] theorem Store.wf_setPresence (m : Store) (w : Nat) (p : Option Presence) : Memory.wf (m.setPresence w p) = Memory.wf m := by
  cases p <;> rfl

/-- A read after a write of one byte of a store. -/
theorem Store.byte_putByte (m : Store) (a x : Nat) (v : Byte) (h : Memory.wf m = true) :
    (m.putByte a v).byte x = if x = a then v else m.byte x := cellGet_put _ _ _ _ h

/-- A read outside the bytes written. -/
theorem Store.byte_putBytes_out (m : Store) (a x : Nat) (bs : List Byte) (h : Memory.wf m = true)
    (hx : x < a ∨ a + bs.length ≤ x) : (m.putBytes a bs).byte x = m.byte x := by
  induction bs generalizing m a with
  | nil => rfl
  | cons b bs ih =>
    have e : x ≠ a := by simp only [List.length_cons] at hx; omega
    have := ih (m.putByte a b) (a + 1) (Store.wf_putByte m a b h) (by simp only [List.length_cons] at hx; omega)
    simpa [Store.putBytes, Store.byte_putByte m a x b h, e] using this

/-- A read of a byte written. -/
theorem Store.byte_putBytes_in (m : Store) (a i : Nat) (bs : List Byte) (h : Memory.wf m = true) (hi : i < bs.length) :
    (m.putBytes a bs).byte (a + i) = bs[i] := by
  induction bs generalizing m a i with
  | nil => simp at hi
  | cons b bs ih =>
    cases i with
    | zero =>
      have := Store.byte_putBytes_out (m.putByte a b) (a + 1) a bs (Store.wf_putByte m a b h) (by omega)
      simpa [Store.putBytes, Store.byte_putByte m a a b h] using this
    | succ i =>
      have := ih (m.putByte a b) (a + 1) i (Store.wf_putByte m a b h) (by simpa using hi)
      simpa [Store.putBytes, Nat.add_assoc, Nat.add_comm 1 i] using this

/-! The memories of the part. -/

theorem Column.wf_writeNear (x : Column) (w : Nat) (k : BitVec 8) (v : DWord) (h : Memory.wf x.cpu.near = true) :
    Memory.wf (x.writeNear w k v).cpu.near = true := by
  unfold Column.writeNear
  split <;> exact Store.wf_writeWord _ _ _ _ h

theorem Hub.wf_writeChannel (hb : Hub) (w : Nat) (k : BitVec 8) (v : DWord) (h : Memory.wf hb.dev = true) :
    Memory.wf (hb.writeChannel w k v).dev = true := by
  have key : ∀ m : Store, Memory.wf m = true → ∀ bs, Memory.wf { m with bytes := (m.putBytes (8 * w) bs).bytes } = true :=
    fun m hm bs => Store.wf_putBytes m (8 * w) bs hm
  unfold Hub.writeChannel
  by_cases hb' : hb.dev.isBad (w / 8) = true
  · simp only [hb', if_true]
    refine key { hb.dev with bytes := _, bad := _ } ?_ _
    exact cellsWf_filter _ _ h
  · simp only [hb', Bool.false_eq_true, if_false]
    exact key _ h _

theorem Store.wf_mendBursts (m : Store) (a n : Nat) (h : Memory.wf m = true) : Memory.wf (m.mendBursts a n) = true := by
  unfold Store.mendBursts
  simp only
  split
  · exact cellsWf_filter _ _ h
  · exact h

theorem Hub.wf_poke (hb : Hub) (a : Nat) (bs : List Byte) (h : Memory.wf hb.dev = true) : Memory.wf (hb.poke a bs).dev = true :=
  Store.wf_putBytes _ _ _ (Store.wf_mendBursts _ _ _ h)

theorem Hub.wf_pokeAll (hb : Hub) (a : Nat) (bs : List Byte) (h : Memory.wf hb.dev = true) : Memory.wf (hb.pokeAll a bs).dev = true :=
  Store.wf_putBytes _ a bs (Store.wf_zeroRange _ a bs.length h)

theorem Store.wf_scrub (m : Store) (w : Nat) : Memory.wf (m.scrub w) = Memory.wf m := rfl

theorem Store.wf_dropGddr (m : Store) (h : Memory.wf m = true) : Memory.wf m.dropGddr = true := cellsWf_filter _ _ h

theorem Store.wf_copyRange (m : Store) (a b n : Nat) (h : Memory.wf m = true) : Memory.wf (m.copyRange a b n) = true := by
  have put : ∀ (l : List Host.Cell) (f : Host.Cell → Nat) (z : Store), Memory.wf z = true →
      Memory.wf (l.foldl (fun (z : Store) c => z.putByte (f c) c.2) z) = true := by
    intro l f
    induction l with
    | nil => exact fun _ hz => hz
    | cons c l ih => exact fun z hz => ih _ (Store.wf_putByte z _ _ hz)
  have pres : ∀ (l : List (Nat × Presence)) (f : Nat × Presence → Nat) (z : Store), Memory.wf z = true →
      Memory.wf (l.foldl (fun (z : Store) q => z.setPresence (f q) (some q.2)) z) = true := by
    intro l f
    induction l with
    | nil => exact fun _ hz => hz
    | cons c l ih => exact fun z hz => ih _ (by rwa [Store.wf_setPresence])
  unfold Store.copyRange
  dsimp only
  exact pres _ _ _ (put _ _ _ (Store.wf_zeroRange m b n h))

theorem Column.wf_shelfUp (x : Column) (k : Nat) (h : Memory.wf x.vert = true) : Memory.wf (x.shelfUp k).vert = true := by
  unfold Column.shelfUp
  dsimp only
  split
  · exact Store.wf_zeroRange _ _ _ h
  · exact h

end Sys2Proof.Machine
end

