-- ==== Sys2Proof/Laws/State.lean ====
section
/-! SUPPORT. One lemma per field of State per named update, so that no proof unfolds a record update. -/

namespace Sys2Proof.Machine

@[simp] theorem State.modCol_now (s : State) (c : ColId) (f : Column → Column) : (s.modCol c f).now = s.now := rfl
@[simp] theorem State.modCol_focus (s : State) (c : ColId) (f : Column → Column) : (s.modCol c f).focus = s.focus := rfl
@[simp] theorem State.modCol_agenda (s : State) (c : ColId) (f : Column → Column) : (s.modCol c f).agenda = s.agenda := rfl
@[simp] theorem State.modCol_harts (s : State) (c : ColId) (f : Column → Column) : (s.modCol c f).harts = s.harts := rfl
@[simp] theorem State.modCol_stk (s : State) (c : ColId) (f : Column → Column) : (s.modCol c f).stk = s.stk := rfl
@[simp] theorem State.modCol_hub (s : State) (c : ColId) (f : Column → Column) : (s.modCol c f).hub = s.hub := rfl
@[simp] theorem State.modCol_flights (s : State) (c : ColId) (f : Column → Column) : (s.modCol c f).flights = s.flights := rfl
@[simp] theorem State.modCol_ctl (s : State) (c : ColId) (f : Column → Column) : (s.modCol c f).ctl = s.ctl := rfl
@[simp] theorem State.modCol_credits (s : State) (c : ColId) (f : Column → Column) : (s.modCol c f).credits = s.credits := rfl
@[simp] theorem State.modCol_decs (s : State) (c : ColId) (f : Column → Column) : (s.modCol c f).decs = s.decs := rfl
@[simp] theorem State.modCol_msgs (s : State) (c : ColId) (f : Column → Column) : (s.modCol c f).msgs = s.msgs := rfl
@[simp] theorem State.modCol_resets (s : State) (c : ColId) (f : Column → Column) : (s.modCol c f).resets = s.resets := rfl
@[simp] theorem State.modCol_fresh (s : State) (c : ColId) (f : Column → Column) : (s.modCol c f).fresh = s.fresh := rfl

@[simp] theorem State.modHart_now (s : State) (h : HartId) (f : Hart → Hart) : (s.modHart h f).now = s.now := rfl
@[simp] theorem State.modHart_focus (s : State) (h : HartId) (f : Hart → Hart) : (s.modHart h f).focus = s.focus := rfl
@[simp] theorem State.modHart_agenda (s : State) (h : HartId) (f : Hart → Hart) : (s.modHart h f).agenda = s.agenda := rfl
@[simp] theorem State.modHart_cols (s : State) (h : HartId) (f : Hart → Hart) : (s.modHart h f).cols = s.cols := rfl
@[simp] theorem State.modHart_stk (s : State) (h : HartId) (f : Hart → Hart) : (s.modHart h f).stk = s.stk := rfl
@[simp] theorem State.modHart_hub (s : State) (h : HartId) (f : Hart → Hart) : (s.modHart h f).hub = s.hub := rfl
@[simp] theorem State.modHart_flights (s : State) (h : HartId) (f : Hart → Hart) : (s.modHart h f).flights = s.flights := rfl
@[simp] theorem State.modHart_ctl (s : State) (h : HartId) (f : Hart → Hart) : (s.modHart h f).ctl = s.ctl := rfl
@[simp] theorem State.modHart_credits (s : State) (h : HartId) (f : Hart → Hart) : (s.modHart h f).credits = s.credits := rfl
@[simp] theorem State.modHart_decs (s : State) (h : HartId) (f : Hart → Hart) : (s.modHart h f).decs = s.decs := rfl
@[simp] theorem State.modHart_msgs (s : State) (h : HartId) (f : Hart → Hart) : (s.modHart h f).msgs = s.msgs := rfl
@[simp] theorem State.modHart_resets (s : State) (h : HartId) (f : Hart → Hart) : (s.modHart h f).resets = s.resets := rfl
@[simp] theorem State.modHart_fresh (s : State) (h : HartId) (f : Hart → Hart) : (s.modHart h f).fresh = s.fresh := rfl

@[simp] theorem State.modStack_now (s : State) (k : StackId) (f : Stack → Stack) : (s.modStack k f).now = s.now := rfl
@[simp] theorem State.modStack_focus (s : State) (k : StackId) (f : Stack → Stack) : (s.modStack k f).focus = s.focus := rfl
@[simp] theorem State.modStack_agenda (s : State) (k : StackId) (f : Stack → Stack) : (s.modStack k f).agenda = s.agenda := rfl
@[simp] theorem State.modStack_cols (s : State) (k : StackId) (f : Stack → Stack) : (s.modStack k f).cols = s.cols := rfl
@[simp] theorem State.modStack_harts (s : State) (k : StackId) (f : Stack → Stack) : (s.modStack k f).harts = s.harts := rfl
@[simp] theorem State.modStack_hub (s : State) (k : StackId) (f : Stack → Stack) : (s.modStack k f).hub = s.hub := rfl
@[simp] theorem State.modStack_flights (s : State) (k : StackId) (f : Stack → Stack) : (s.modStack k f).flights = s.flights := rfl
@[simp] theorem State.modStack_ctl (s : State) (k : StackId) (f : Stack → Stack) : (s.modStack k f).ctl = s.ctl := rfl
@[simp] theorem State.modStack_credits (s : State) (k : StackId) (f : Stack → Stack) : (s.modStack k f).credits = s.credits := rfl
@[simp] theorem State.modStack_decs (s : State) (k : StackId) (f : Stack → Stack) : (s.modStack k f).decs = s.decs := rfl
@[simp] theorem State.modStack_msgs (s : State) (k : StackId) (f : Stack → Stack) : (s.modStack k f).msgs = s.msgs := rfl
@[simp] theorem State.modStack_resets (s : State) (k : StackId) (f : Stack → Stack) : (s.modStack k f).resets = s.resets := rfl
@[simp] theorem State.modStack_fresh (s : State) (k : StackId) (f : Stack → Stack) : (s.modStack k f).fresh = s.fresh := rfl

@[simp] theorem State.modHub_now (s : State) (f : Hub → Hub) : (s.modHub f).now = s.now := rfl
@[simp] theorem State.modHub_focus (s : State) (f : Hub → Hub) : (s.modHub f).focus = s.focus := rfl
@[simp] theorem State.modHub_agenda (s : State) (f : Hub → Hub) : (s.modHub f).agenda = s.agenda := rfl
@[simp] theorem State.modHub_cols (s : State) (f : Hub → Hub) : (s.modHub f).cols = s.cols := rfl
@[simp] theorem State.modHub_harts (s : State) (f : Hub → Hub) : (s.modHub f).harts = s.harts := rfl
@[simp] theorem State.modHub_stk (s : State) (f : Hub → Hub) : (s.modHub f).stk = s.stk := rfl
@[simp] theorem State.modHub_flights (s : State) (f : Hub → Hub) : (s.modHub f).flights = s.flights := rfl
@[simp] theorem State.modHub_ctl (s : State) (f : Hub → Hub) : (s.modHub f).ctl = s.ctl := rfl
@[simp] theorem State.modHub_credits (s : State) (f : Hub → Hub) : (s.modHub f).credits = s.credits := rfl
@[simp] theorem State.modHub_decs (s : State) (f : Hub → Hub) : (s.modHub f).decs = s.decs := rfl
@[simp] theorem State.modHub_msgs (s : State) (f : Hub → Hub) : (s.modHub f).msgs = s.msgs := rfl
@[simp] theorem State.modHub_resets (s : State) (f : Hub → Hub) : (s.modHub f).resets = s.resets := rfl
@[simp] theorem State.modHub_fresh (s : State) (f : Hub → Hub) : (s.modHub f).fresh = s.fresh := rfl

@[simp] theorem State.tick_now (s : State) : (s.tick).now = s.now := rfl
@[simp] theorem State.tick_focus (s : State) : (s.tick).focus = s.focus := rfl
@[simp] theorem State.tick_agenda (s : State) : (s.tick).agenda = s.agenda := rfl
@[simp] theorem State.tick_cols (s : State) : (s.tick).cols = s.cols := rfl
@[simp] theorem State.tick_harts (s : State) : (s.tick).harts = s.harts := rfl
@[simp] theorem State.tick_stk (s : State) : (s.tick).stk = s.stk := rfl
@[simp] theorem State.tick_hub (s : State) : (s.tick).hub = s.hub := rfl
@[simp] theorem State.tick_flights (s : State) : (s.tick).flights = s.flights := rfl
@[simp] theorem State.tick_ctl (s : State) : (s.tick).ctl = s.ctl := rfl
@[simp] theorem State.tick_credits (s : State) : (s.tick).credits = s.credits := rfl
@[simp] theorem State.tick_decs (s : State) : (s.tick).decs = s.decs := rfl
@[simp] theorem State.tick_msgs (s : State) : (s.tick).msgs = s.msgs := rfl
@[simp] theorem State.tick_resets (s : State) : (s.tick).resets = s.resets := rfl

@[simp] theorem State.modElem_now (s : State) (c : ColId) (e : ElemId) (f : Elem → Elem) : (s.modElem c e f).now = s.now := rfl
@[simp] theorem State.modElem_focus (s : State) (c : ColId) (e : ElemId) (f : Elem → Elem) : (s.modElem c e f).focus = s.focus := rfl
@[simp] theorem State.modElem_agenda (s : State) (c : ColId) (e : ElemId) (f : Elem → Elem) : (s.modElem c e f).agenda = s.agenda := rfl
@[simp] theorem State.modElem_harts (s : State) (c : ColId) (e : ElemId) (f : Elem → Elem) : (s.modElem c e f).harts = s.harts := rfl
@[simp] theorem State.modElem_stk (s : State) (c : ColId) (e : ElemId) (f : Elem → Elem) : (s.modElem c e f).stk = s.stk := rfl
@[simp] theorem State.modElem_hub (s : State) (c : ColId) (e : ElemId) (f : Elem → Elem) : (s.modElem c e f).hub = s.hub := rfl
@[simp] theorem State.modElem_flights (s : State) (c : ColId) (e : ElemId) (f : Elem → Elem) : (s.modElem c e f).flights = s.flights := rfl
@[simp] theorem State.modElem_ctl (s : State) (c : ColId) (e : ElemId) (f : Elem → Elem) : (s.modElem c e f).ctl = s.ctl := rfl
@[simp] theorem State.modElem_credits (s : State) (c : ColId) (e : ElemId) (f : Elem → Elem) : (s.modElem c e f).credits = s.credits := rfl
@[simp] theorem State.modElem_decs (s : State) (c : ColId) (e : ElemId) (f : Elem → Elem) : (s.modElem c e f).decs = s.decs := rfl
@[simp] theorem State.modElem_msgs (s : State) (c : ColId) (e : ElemId) (f : Elem → Elem) : (s.modElem c e f).msgs = s.msgs := rfl
@[simp] theorem State.modElem_resets (s : State) (c : ColId) (e : ElemId) (f : Elem → Elem) : (s.modElem c e f).resets = s.resets := rfl
@[simp] theorem State.modElem_fresh (s : State) (c : ColId) (e : ElemId) (f : Elem → Elem) : (s.modElem c e f).fresh = s.fresh := rfl

@[simp] theorem State.modCtx_now (s : State) (r : CtxRef) (f : Ctx → Ctx) : (s.modCtx r f).now = s.now := rfl
@[simp] theorem State.modCtx_focus (s : State) (r : CtxRef) (f : Ctx → Ctx) : (s.modCtx r f).focus = s.focus := rfl
@[simp] theorem State.modCtx_agenda (s : State) (r : CtxRef) (f : Ctx → Ctx) : (s.modCtx r f).agenda = s.agenda := rfl
@[simp] theorem State.modCtx_harts (s : State) (r : CtxRef) (f : Ctx → Ctx) : (s.modCtx r f).harts = s.harts := rfl
@[simp] theorem State.modCtx_stk (s : State) (r : CtxRef) (f : Ctx → Ctx) : (s.modCtx r f).stk = s.stk := rfl
@[simp] theorem State.modCtx_hub (s : State) (r : CtxRef) (f : Ctx → Ctx) : (s.modCtx r f).hub = s.hub := rfl
@[simp] theorem State.modCtx_flights (s : State) (r : CtxRef) (f : Ctx → Ctx) : (s.modCtx r f).flights = s.flights := rfl
@[simp] theorem State.modCtx_ctl (s : State) (r : CtxRef) (f : Ctx → Ctx) : (s.modCtx r f).ctl = s.ctl := rfl
@[simp] theorem State.modCtx_credits (s : State) (r : CtxRef) (f : Ctx → Ctx) : (s.modCtx r f).credits = s.credits := rfl
@[simp] theorem State.modCtx_decs (s : State) (r : CtxRef) (f : Ctx → Ctx) : (s.modCtx r f).decs = s.decs := rfl
@[simp] theorem State.modCtx_msgs (s : State) (r : CtxRef) (f : Ctx → Ctx) : (s.modCtx r f).msgs = s.msgs := rfl
@[simp] theorem State.modCtx_resets (s : State) (r : CtxRef) (f : Ctx → Ctx) : (s.modCtx r f).resets = s.resets := rfl
@[simp] theorem State.modCtx_fresh (s : State) (r : CtxRef) (f : Ctx → Ctx) : (s.modCtx r f).fresh = s.fresh := rfl

@[simp] theorem State.modHub_hub (s : State) (f : Hub → Hub) : (s.modHub f).hub = f s.hub := rfl
@[simp] theorem State.tick_fresh (s : State) : s.tick.fresh = s.fresh + 1 := rfl

@[simp] theorem State.modCpu_now (s : State) (n : Node) (f : Cpu → Cpu) : (s.modCpu n f).now = s.now := by cases n <;> rfl
@[simp] theorem State.modCpu_focus (s : State) (n : Node) (f : Cpu → Cpu) : (s.modCpu n f).focus = s.focus := by cases n <;> rfl
@[simp] theorem State.modCpu_agenda (s : State) (n : Node) (f : Cpu → Cpu) : (s.modCpu n f).agenda = s.agenda := by cases n <;> rfl
@[simp] theorem State.modCpu_stk (s : State) (n : Node) (f : Cpu → Cpu) : (s.modCpu n f).stk = s.stk := by cases n <;> rfl
@[simp] theorem State.modCpu_hub (s : State) (n : Node) (f : Cpu → Cpu) : (s.modCpu n f).hub = s.hub := by cases n <;> rfl
@[simp] theorem State.modCpu_flights (s : State) (n : Node) (f : Cpu → Cpu) : (s.modCpu n f).flights = s.flights := by cases n <;> rfl
@[simp] theorem State.modCpu_ctl (s : State) (n : Node) (f : Cpu → Cpu) : (s.modCpu n f).ctl = s.ctl := by cases n <;> rfl
@[simp] theorem State.modCpu_credits (s : State) (n : Node) (f : Cpu → Cpu) : (s.modCpu n f).credits = s.credits := by cases n <;> rfl
@[simp] theorem State.modCpu_decs (s : State) (n : Node) (f : Cpu → Cpu) : (s.modCpu n f).decs = s.decs := by cases n <;> rfl
@[simp] theorem State.modCpu_msgs (s : State) (n : Node) (f : Cpu → Cpu) : (s.modCpu n f).msgs = s.msgs := by cases n <;> rfl
@[simp] theorem State.modCpu_resets (s : State) (n : Node) (f : Cpu → Cpu) : (s.modCpu n f).resets = s.resets := by cases n <;> rfl
@[simp] theorem State.modCpu_fresh (s : State) (n : Node) (f : Cpu → Cpu) : (s.modCpu n f).fresh = s.fresh := by cases n <;> rfl

@[simp] theorem State.setReg_now (s : State) (n : Node) (r : BitVec 5) (v : DWord) : (s.setReg n r v).now = s.now := by cases n <;> rfl
@[simp] theorem State.setReg_focus (s : State) (n : Node) (r : BitVec 5) (v : DWord) : (s.setReg n r v).focus = s.focus := by cases n <;> rfl
@[simp] theorem State.setReg_agenda (s : State) (n : Node) (r : BitVec 5) (v : DWord) : (s.setReg n r v).agenda = s.agenda := by cases n <;> rfl
@[simp] theorem State.setReg_stk (s : State) (n : Node) (r : BitVec 5) (v : DWord) : (s.setReg n r v).stk = s.stk := by cases n <;> rfl
@[simp] theorem State.setReg_hub (s : State) (n : Node) (r : BitVec 5) (v : DWord) : (s.setReg n r v).hub = s.hub := by cases n <;> rfl
@[simp] theorem State.setReg_flights (s : State) (n : Node) (r : BitVec 5) (v : DWord) : (s.setReg n r v).flights = s.flights := by cases n <;> rfl
@[simp] theorem State.setReg_ctl (s : State) (n : Node) (r : BitVec 5) (v : DWord) : (s.setReg n r v).ctl = s.ctl := by cases n <;> rfl
@[simp] theorem State.setReg_credits (s : State) (n : Node) (r : BitVec 5) (v : DWord) : (s.setReg n r v).credits = s.credits := by cases n <;> rfl
@[simp] theorem State.setReg_decs (s : State) (n : Node) (r : BitVec 5) (v : DWord) : (s.setReg n r v).decs = s.decs := by cases n <;> rfl
@[simp] theorem State.setReg_msgs (s : State) (n : Node) (r : BitVec 5) (v : DWord) : (s.setReg n r v).msgs = s.msgs := by cases n <;> rfl
@[simp] theorem State.setReg_resets (s : State) (n : Node) (r : BitVec 5) (v : DWord) : (s.setReg n r v).resets = s.resets := by cases n <;> rfl
@[simp] theorem State.setReg_fresh (s : State) (n : Node) (r : BitVec 5) (v : DWord) : (s.setReg n r v).fresh = s.fresh := by cases n <;> rfl

@[simp] theorem State.setPc_now (s : State) (n : Node) (v : DWord) : (s.setPc n v).now = s.now := by cases n <;> rfl
@[simp] theorem State.setPc_focus (s : State) (n : Node) (v : DWord) : (s.setPc n v).focus = s.focus := by cases n <;> rfl
@[simp] theorem State.setPc_agenda (s : State) (n : Node) (v : DWord) : (s.setPc n v).agenda = s.agenda := by cases n <;> rfl
@[simp] theorem State.setPc_stk (s : State) (n : Node) (v : DWord) : (s.setPc n v).stk = s.stk := by cases n <;> rfl
@[simp] theorem State.setPc_hub (s : State) (n : Node) (v : DWord) : (s.setPc n v).hub = s.hub := by cases n <;> rfl
@[simp] theorem State.setPc_flights (s : State) (n : Node) (v : DWord) : (s.setPc n v).flights = s.flights := by cases n <;> rfl
@[simp] theorem State.setPc_ctl (s : State) (n : Node) (v : DWord) : (s.setPc n v).ctl = s.ctl := by cases n <;> rfl
@[simp] theorem State.setPc_credits (s : State) (n : Node) (v : DWord) : (s.setPc n v).credits = s.credits := by cases n <;> rfl
@[simp] theorem State.setPc_decs (s : State) (n : Node) (v : DWord) : (s.setPc n v).decs = s.decs := by cases n <;> rfl
@[simp] theorem State.setPc_msgs (s : State) (n : Node) (v : DWord) : (s.setPc n v).msgs = s.msgs := by cases n <;> rfl
@[simp] theorem State.setPc_resets (s : State) (n : Node) (v : DWord) : (s.setPc n v).resets = s.resets := by cases n <;> rfl
@[simp] theorem State.setPc_fresh (s : State) (n : Node) (v : DWord) : (s.setPc n v).fresh = s.fresh := by cases n <;> rfl

@[simp] theorem State.step4_now (s : State) (n : Node) : (s.step4 n).now = s.now := by cases n <;> rfl
@[simp] theorem State.step4_focus (s : State) (n : Node) : (s.step4 n).focus = s.focus := by cases n <;> rfl
@[simp] theorem State.step4_agenda (s : State) (n : Node) : (s.step4 n).agenda = s.agenda := by cases n <;> rfl
@[simp] theorem State.step4_stk (s : State) (n : Node) : (s.step4 n).stk = s.stk := by cases n <;> rfl
@[simp] theorem State.step4_hub (s : State) (n : Node) : (s.step4 n).hub = s.hub := by cases n <;> rfl
@[simp] theorem State.step4_flights (s : State) (n : Node) : (s.step4 n).flights = s.flights := by cases n <;> rfl
@[simp] theorem State.step4_ctl (s : State) (n : Node) : (s.step4 n).ctl = s.ctl := by cases n <;> rfl
@[simp] theorem State.step4_credits (s : State) (n : Node) : (s.step4 n).credits = s.credits := by cases n <;> rfl
@[simp] theorem State.step4_decs (s : State) (n : Node) : (s.step4 n).decs = s.decs := by cases n <;> rfl
@[simp] theorem State.step4_msgs (s : State) (n : Node) : (s.step4 n).msgs = s.msgs := by cases n <;> rfl
@[simp] theorem State.step4_resets (s : State) (n : Node) : (s.step4 n).resets = s.resets := by cases n <;> rfl
@[simp] theorem State.step4_fresh (s : State) (n : Node) : (s.step4 n).fresh = s.fresh := by cases n <;> rfl

@[simp] theorem State.done_now (s : State) (n : Node) (r : BitVec 5) (v : DWord) : (s.done n r v).now = s.now := by cases n <;> rfl
@[simp] theorem State.done_focus (s : State) (n : Node) (r : BitVec 5) (v : DWord) : (s.done n r v).focus = s.focus := by cases n <;> rfl
@[simp] theorem State.done_agenda (s : State) (n : Node) (r : BitVec 5) (v : DWord) : (s.done n r v).agenda = s.agenda := by cases n <;> rfl
@[simp] theorem State.done_stk (s : State) (n : Node) (r : BitVec 5) (v : DWord) : (s.done n r v).stk = s.stk := by cases n <;> rfl
@[simp] theorem State.done_hub (s : State) (n : Node) (r : BitVec 5) (v : DWord) : (s.done n r v).hub = s.hub := by cases n <;> rfl
@[simp] theorem State.done_flights (s : State) (n : Node) (r : BitVec 5) (v : DWord) : (s.done n r v).flights = s.flights := by cases n <;> rfl
@[simp] theorem State.done_ctl (s : State) (n : Node) (r : BitVec 5) (v : DWord) : (s.done n r v).ctl = s.ctl := by cases n <;> rfl
@[simp] theorem State.done_credits (s : State) (n : Node) (r : BitVec 5) (v : DWord) : (s.done n r v).credits = s.credits := by cases n <;> rfl
@[simp] theorem State.done_decs (s : State) (n : Node) (r : BitVec 5) (v : DWord) : (s.done n r v).decs = s.decs := by cases n <;> rfl
@[simp] theorem State.done_msgs (s : State) (n : Node) (r : BitVec 5) (v : DWord) : (s.done n r v).msgs = s.msgs := by cases n <;> rfl
@[simp] theorem State.done_resets (s : State) (n : Node) (r : BitVec 5) (v : DWord) : (s.done n r v).resets = s.resets := by cases n <;> rfl
@[simp] theorem State.done_fresh (s : State) (n : Node) (r : BitVec 5) (v : DWord) : (s.done n r v).fresh = s.fresh := by cases n <;> rfl

@[simp] theorem State.ret_now (s : State) (d : BitVec 5) (v : DWord) : (s.ret d v).now = s.now := State.done_now ..
@[simp] theorem State.ret_focus (s : State) (d : BitVec 5) (v : DWord) : (s.ret d v).focus = s.focus := State.done_focus ..
@[simp] theorem State.ret_agenda (s : State) (d : BitVec 5) (v : DWord) : (s.ret d v).agenda = s.agenda := State.done_agenda ..
@[simp] theorem State.ret_stk (s : State) (d : BitVec 5) (v : DWord) : (s.ret d v).stk = s.stk := State.done_stk ..
@[simp] theorem State.ret_hub (s : State) (d : BitVec 5) (v : DWord) : (s.ret d v).hub = s.hub := State.done_hub ..
@[simp] theorem State.ret_flights (s : State) (d : BitVec 5) (v : DWord) : (s.ret d v).flights = s.flights := State.done_flights ..
@[simp] theorem State.ret_ctl (s : State) (d : BitVec 5) (v : DWord) : (s.ret d v).ctl = s.ctl := State.done_ctl ..
@[simp] theorem State.ret_credits (s : State) (d : BitVec 5) (v : DWord) : (s.ret d v).credits = s.credits := State.done_credits ..
@[simp] theorem State.ret_decs (s : State) (d : BitVec 5) (v : DWord) : (s.ret d v).decs = s.decs := State.done_decs ..
@[simp] theorem State.ret_msgs (s : State) (d : BitVec 5) (v : DWord) : (s.ret d v).msgs = s.msgs := State.done_msgs ..
@[simp] theorem State.ret_resets (s : State) (d : BitVec 5) (v : DWord) : (s.ret d v).resets = s.resets := State.done_resets ..
@[simp] theorem State.ret_fresh (s : State) (d : BitVec 5) (v : DWord) : (s.ret d v).fresh = s.fresh := State.done_fresh ..

@[simp] theorem State.skip_now (s : State) : (s.skip).now = s.now := State.step4_now ..
@[simp] theorem State.skip_focus (s : State) : (s.skip).focus = s.focus := State.step4_focus ..
@[simp] theorem State.skip_agenda (s : State) : (s.skip).agenda = s.agenda := State.step4_agenda ..
@[simp] theorem State.skip_stk (s : State) : (s.skip).stk = s.stk := State.step4_stk ..
@[simp] theorem State.skip_hub (s : State) : (s.skip).hub = s.hub := State.step4_hub ..
@[simp] theorem State.skip_flights (s : State) : (s.skip).flights = s.flights := State.step4_flights ..
@[simp] theorem State.skip_ctl (s : State) : (s.skip).ctl = s.ctl := State.step4_ctl ..
@[simp] theorem State.skip_credits (s : State) : (s.skip).credits = s.credits := State.step4_credits ..
@[simp] theorem State.skip_decs (s : State) : (s.skip).decs = s.decs := State.step4_decs ..
@[simp] theorem State.skip_msgs (s : State) : (s.skip).msgs = s.msgs := State.step4_msgs ..
@[simp] theorem State.skip_resets (s : State) : (s.skip).resets = s.resets := State.step4_resets ..
@[simp] theorem State.skip_fresh (s : State) : (s.skip).fresh = s.fresh := State.step4_fresh ..

/-! Vectors. -/

@[simp] theorem vset_get {α : Type} {n : Nat} (v : Vector α n) (i : Fin n) (x : α) : (vset v i x).get i = x := by
  show (v.set i.val x i.isLt)[i.val] = x
  simp
theorem vset_get_ne {α : Type} {n : Nat} (v : Vector α n) (i j : Fin n) (x : α) (h : j ≠ i) : (vset v i x).get j = v.get j := by
  have h' : i.val ≠ j.val := fun e => h (Fin.ext e.symm)
  show (v.set i.val x i.isLt)[j.val] = v[j.val]
  simp [h']
@[simp] theorem vmod_get {α : Type} {n : Nat} (v : Vector α n) (i : Fin n) (f : α → α) : (vmod v i f).get i = f (v.get i) := vset_get ..
theorem vmod_get_ne {α : Type} {n : Nat} (v : Vector α n) (i j : Fin n) (f : α → α) (h : j ≠ i) : (vmod v i f).get j = v.get j :=
  vset_get_ne v i j _ h
@[simp] theorem vset_get_self {α : Type} {n : Nat} (v : Vector α n) (i : Fin n) : vset v i (v.get i) = v := by
  show v.set i.val v[i.val] i.isLt = v
  simp
@[simp] theorem vset_vset {α : Type} {n : Nat} (v : Vector α n) (i : Fin n) (x y : α) : vset (vset v i x) i y = vset v i y := by
  simp [vset, Vector.set]

/-! Columns, harts, stacks and sequencers. -/

@[simp] theorem State.modCol_col (s : State) (c : ColId) (f : Column → Column) : (s.modCol c f).col c = f (s.col c) := vmod_get ..
theorem State.modCol_col_ne (s : State) (c d : ColId) (f : Column → Column) (h : d ≠ c) : (s.modCol c f).col d = s.col d :=
  vmod_get_ne _ _ _ _ h
@[simp] theorem State.modHart_hart (s : State) (h : HartId) (f : Hart → Hart) : (s.modHart h f).hart h = f (s.hart h) := vmod_get ..
theorem State.modHart_hart_ne (s : State) (h k : HartId) (f : Hart → Hart) (e : k ≠ h) : (s.modHart h f).hart k = s.hart k :=
  vmod_get_ne _ _ _ _ e
@[simp] theorem State.modStack_stack (s : State) (k : StackId) (f : Stack → Stack) : (s.modStack k f).stack k = f (s.stack k) := vmod_get ..
theorem State.modStack_stack_ne (s : State) (k j : StackId) (f : Stack → Stack) (e : j ≠ k) : (s.modStack k f).stack j = s.stack j :=
  vmod_get_ne _ _ _ _ e
@[simp] theorem State.modHart_col (s : State) (h : HartId) (f : Hart → Hart) (c : ColId) : (s.modHart h f).col c = s.col c := rfl
@[simp] theorem State.modStack_col (s : State) (k : StackId) (f : Stack → Stack) (c : ColId) : (s.modStack k f).col c = s.col c := rfl
@[simp] theorem State.modHub_col (s : State) (f : Hub → Hub) (c : ColId) : (s.modHub f).col c = s.col c := rfl
@[simp] theorem State.modCol_hart (s : State) (c : ColId) (f : Column → Column) (h : HartId) : (s.modCol c f).hart h = s.hart h := rfl
@[simp] theorem State.modStack_hart (s : State) (k : StackId) (f : Stack → Stack) (h : HartId) : (s.modStack k f).hart h = s.hart h := rfl
@[simp] theorem State.modHub_hart (s : State) (f : Hub → Hub) (h : HartId) : (s.modHub f).hart h = s.hart h := rfl
@[simp] theorem State.modCol_stack (s : State) (c : ColId) (f : Column → Column) (k : StackId) : (s.modCol c f).stack k = s.stack k := rfl
@[simp] theorem State.modHart_stack (s : State) (h : HartId) (f : Hart → Hart) (k : StackId) : (s.modHart h f).stack k = s.stack k := rfl
@[simp] theorem State.modHub_stack (s : State) (f : Hub → Hub) (k : StackId) : (s.modHub f).stack k = s.stack k := rfl
@[simp] theorem State.modCpu_cpu (s : State) (n : Node) (f : Cpu → Cpu) : (s.modCpu n f).cpu n = f (s.cpu n) := by
  cases n <;> simp [State.modCpu, State.cpu]
theorem State.modCpu_cpu_ne (s : State) (n m : Node) (f : Cpu → Cpu) (h : m ≠ n) : (s.modCpu n f).cpu m = s.cpu m := by
  cases n with
  | col c => cases m with
    | col d => simp [State.modCpu, State.cpu, State.modCol_col_ne s c d _ (fun e => h (e ▸ rfl))]
    | hart k => simp [State.modCpu, State.cpu]
  | hart k => cases m with
    | col d => simp [State.modCpu, State.cpu]
    | hart j => simp [State.modCpu, State.cpu, State.modHart_hart_ne s k j _ (fun e => h (e ▸ rfl))]
@[simp] theorem State.modCpu_modCpu (s : State) (n : Node) (f g : Cpu → Cpu) : (s.modCpu n f).modCpu n g = s.modCpu n fun u => g (f u) := by
  cases n <;> simp [State.modCpu, State.modCol, State.modHart, vmod]

end Sys2Proof.Machine
end

