-- ==== Sys2Proof/Laws/Ops.lean ====
section
/-! SUPPORT. One lemma per shared operation, which says once all that it can do: registers, ends of instructions, faults, operand forms, accesses and structures. -/

namespace Sys2Proof.Machine

open Sys2Proof

/-! Registers (R177). -/

@[simp] theorem Cpu.reg_zero (u : Cpu) : u.reg 0#5 = 0 := rfl
@[simp] theorem Cpu.setReg_zero (u : Cpu) (v : DWord) : u.setReg 0#5 v = u := rfl

/-- A register read after a write: the written one holds the value, unless it is g0; every other is as it was. -/
theorem Cpu.reg_setReg (u : Cpu) (r q : BitVec 5) (v : DWord) :
    (u.setReg r v).reg q = if q = r ∧ r ≠ 0#5 then v else u.reg q := by
  by_cases hr : r = 0#5
  · subst hr; simp
  · by_cases hq : q = 0#5
    · subst hq; simp [eq_comm, hr]
    · by_cases h : q = r
      · subst h; simp [Cpu.setReg, Cpu.reg, hr]
      · have hne : fin 31 q.toNat ≠ fin 31 r.toNat := by
          intro e
          apply h
          apply BitVec.eq_of_toNat_eq
          have := congrArg Fin.val e
          have h1 := q.isLt; have h2 := r.isLt
          simp only [fin, Fin.val_ofNat] at this
          omega
        simp [Cpu.setReg, Cpu.reg, hr, hq, h, vset_get_ne _ _ _ _ hne]

/-- A write of a register leaves all of the sequencer but the registers and the mark of granule 0. -/
theorem Cpu.setReg_frame (u : Cpu) (r : BitVec 5) (v : DWord) :
    ∃ g d, u.setReg r v = { u with g := g, dirty := d } := by
  by_cases hr : r = 0#5
  · exact ⟨u.g, u.dirty, by subst hr; simp⟩
  · exact ⟨vset u.g (fin 31 r.toNat) v, true, by simp only [Cpu.setReg, if_neg hr]⟩

/-- The end of an instruction with a result: the destination, and the pc four on. -/
theorem State.ret_cpu (s : State) (d : BitVec 5) (v : DWord) :
    (s.ret d v).cpu s.focus = { (s.cpu s.focus).setReg d v with pc := ((s.cpu s.focus).setReg d v).pc + 4 } := by
  simp [State.ret, State.done, State.step4, State.setReg]

/-- The end of an instruction leaves every other sequencer. -/
theorem State.ret_cpu_ne (s : State) (d : BitVec 5) (v : DWord) (n : Node) (h : n ≠ s.focus) : (s.ret d v).cpu n = s.cpu n := by
  simp [State.ret, State.done, State.step4, State.setReg, State.modCpu_cpu_ne _ _ _ _ h]

/-- The end of an instruction without a result. -/
theorem State.skip_cpu (s : State) : s.skip.cpu s.focus = { s.cpu s.focus with pc := s.pc s.focus + 4 } := by
  simp [State.skip, State.step4, State.pc]

/-! Ends of a meaning. -/

/-- What a meaning answers is a next state in every case: its own, the state after its fault, or the same place after a wait. -/
theorem seqResult_cases (s : State) (r : Res State) :
    (∃ t, r = .ok t ∧ seqResult s r = .next t) ∨
    (∃ k, r = .error (.trap k) ∧ seqResult s r = .next (s.seqFault s.focus k)) ∨
    (r = .error .wait ∧ seqResult s r = .next (s.waitHere s.focus)) := by
  match r with
  | .ok t => exact .inl ⟨t, rfl, rfl⟩
  | .error (.trap k) => exact .inr (.inl ⟨k, rfl, rfl⟩)
  | .error .wait => exact .inr (.inr ⟨rfl, rfl⟩)

/-- A form that an engine hart does not execute: a fault there, else what the column answers (R181). -/
theorem onColumn_cases (s : State) (f : ColId → Res State) :
    (∃ h, s.focus = .hart h ∧ onColumn s f = .next (s.seqFault s.focus (.plain .illegal))) ∨
    (∃ c, s.focus = .col c ∧ onColumn s f = seqResult s (f c)) := by
  unfold onColumn
  split
  · next h e => exact .inl ⟨h, e, rfl⟩
  · next c e => exact .inr ⟨c, e, rfl⟩

/-- A wait moves nothing but the cycle of the next try. -/
theorem State.waitHere_cpu (s : State) (n : Node) : (s.waitHere n).cpu n = { s.cpu n with ready := s.now + 1 } := by
  simp [State.waitHere]

/-- The hub holds no sequencer. -/
@[simp] theorem State.modHub_cpu (s : State) (f : Hub → Hub) (n : Node) : (s.modHub f).cpu n = s.cpu n := by cases n <;> rfl

/-! Supervisor mode (R207, R342, R343). -/

/-- Entering supervisor mode from user mode. -/
theorem State.enterSup_user (s : State) (n : Node) (c : Cause) (h : (s.cpu n).sup = false) :
    (s.enterSup n c).cpu n = { s.cpu n with psup := false, sup := true, pc := (s.cpu n).evec, supIdle := !(s.cpu n).busy, busy := true } := by
  simp [State.enterSup, h]

/-- A fault taken in supervisor mode halts the sequencer. -/
theorem State.enterSup_halts (s : State) (n : Node) (c : Cause) (h : (s.cpu n).sup = true) :
    (s.enterSup n c).cpu n = { s.cpu n with halt := true } := by
  simp only [State.enterSup, h, if_true, State.holdEscalation, State.modHub_cpu, State.modCpu_cpu]

/-- Leaving supervisor mode. -/
theorem State.leaveSup_cpu (s : State) (n : Node) :
    (s.leaveSup n).cpu n =
      { s.cpu n with pc := (s.cpu n).epc, sup := (s.cpu n).psup, psup := false, supIdle := false, busy := (s.cpu n).busy && ((s.cpu n).psup || !(s.cpu n).supIdle) } := by
  simp [State.leaveSup]

/-! Operand forms. -/

/-- A form of R208 writes its destination and nothing else. -/
theorem aluR_next (d a b : BitVec 5) (w : BitVec 1) (f : (n : Nat) → BitVec n → BitVec n → BitVec n) (s t : State)
    (h : aluR d a b w f s = .next t) : t = s.ret d (atWidth w f (s.g a) (s.g b)) := by
  simp only [aluR, Host.Outcome.next.injEq] at h; exact h.symm

/-- A branch: to its target, or past itself (R214). -/
theorem branchTo_cases (a b : BitVec 5) (o : BitVec 16) (c : DWord → DWord → Bool) (s : State) :
    (c (s.g a) (s.g b) = true ∧ branchTo a b o c s = .next (s.setPc s.focus (relTarget (s.pc s.focus) o))) ∨
    (c (s.g a) (s.g b) = false ∧ branchTo a b o c s = .next s.skip) := by
  cases h : c (s.g a) (s.g b) <;> simp [branchTo, h]

/-- A load form: the loaded value extended to its destination, with the taint noted, or the end that its stop calls for (R216, R217). -/
theorem loadForm_cases (d a : BitVec 5) (o : BitVec 13) (n : Nat) (g : Bool) (s : State) :
    (∃ v k t, s.load s.focus (memAddr a o s) n = (.ok (v, k), t) ∧
      loadForm d a o n g s = .next ((t.setTaint t.focus k).ret d (if g then signExt (8 * n) v else v))) ∨
    (∃ e t, s.load s.focus (memAddr a o s) n = (.error e, t) ∧ loadForm d a o n g s = seqResult t (.error e)) := by
  unfold loadForm
  split
  · next e t h => exact .inr ⟨e, t, h, rfl⟩
  · next v k t h => exact .inl ⟨v, k, t, h, rfl⟩

/-- A store form: the stored state past the instruction, or the end that its stop calls for. -/
theorem storeForm_cases (d a : BitVec 5) (o : BitVec 13) (n : Nat) (s : State) :
    (∃ t u, s.store s.focus (memAddr a o s) n (s.g d) = (.ok t, u) ∧ storeForm d a o n s = .next t.skip) ∨
    (∃ e t, s.store s.focus (memAddr a o s) n (s.g d) = (.error e, t) ∧ storeForm d a o n s = seqResult t (.error e)) := by
  unfold storeForm
  split
  · next e t h => exact .inr ⟨e, t, h, rfl⟩
  · next t u h => exact .inl ⟨t, u, h, rfl⟩

/-- A form on a single-assignment word: its address is checked before its word is looked at (R219). -/
theorem saForm_aligned (a : DWord) (w : Bool) (s : State) (f : State → Option Loc → Res State)
    (h : a.toNat % 8 = 0) (g : saRegion a = true) :
    (∃ k t, s.saPlace s.focus a w = (.error k, t) ∧ saForm a w s f = faultOut t k) ∨
    (∃ l t, s.saPlace s.focus a w = (.ok l, t) ∧ saForm a w s f = seqResult t (f t l)) := by
  unfold saForm
  rw [if_neg (by simp [h]), if_neg (by simp [g])]
  split
  · next k t e => exact .inl ⟨k, t, e, rfl⟩
  · next l t e => exact .inr ⟨l, t, e, rfl⟩

/-! Structures (R232). -/

/-- A structure's address passes its checks exactly if it is aligned and both of its ends lie in the near store the program may use. -/
theorem State.structCause_ok (s : State) (n : Node) (a : DWord) (b k : Nat) :
    s.structCause n a b k = .ok () ↔
      a.toNat % k = 0 ∧ s.nearCause n a.toNat = none ∧ s.nearCause n (a.toNat + b - 1) = none := by
  unfold State.structCause
  split
  · next h => simp [h, faultAt]
  · next h =>
    have h0 : a.toNat % k = 0 := by omega
    split
    · next c e => simp [faultAt, e]
    · next e =>
      simp only [h0, e, true_and]
      split
      · next c e2 => simp [faultAt, e2]
      · next e2 => simp [e2]

/-- What reading a structure can do: a fault of its address, a wait for a closed bank, or its words. -/
theorem State.readStruct_cases (s : State) (n : Node) (a : DWord) (k al : Nat) :
    (∃ e, s.structCause n a (8 * k) al = .error e ∧ s.readStruct n a k al = .error e) ∨
    (s.structCause n a (8 * k) al = .ok () ∧ s.structShut n a.toNat k = true ∧ s.readStruct n a k al = .error .wait) ∨
    (s.structCause n a (8 * k) al = .ok () ∧ s.structShut n a.toNat k = false ∧
      s.readStruct n a k al = .ok (s.nearWords n a.toNat k)) := by
  unfold State.readStruct
  split
  · next e h => exact .inl ⟨e, h, rfl⟩
  · next h =>
    cases hs : s.structShut n a.toNat k
    · exact .inr (.inr ⟨h, rfl, by simp⟩)
    · exact .inr (.inl ⟨h, rfl, by simp⟩)

/-! One step. -/

/-- A step of the sequencer in focus, with nothing on the agenda. -/
theorem stepOnce_turn (s : State) (h : s.agenda = []) (hot : s.hub.thermtrip = false) : stepOnce s = runTurn s := by
  simp [stepOnce, h, hot]

/-- A scheduled event is executed, and leaves the agenda. -/
theorem stepOnce_event (s : State) (i : Instr) (r : List Sched) (h : s.agenda = .occurs i :: r) (hot : s.hub.thermtrip = false)
    (ev : isEvent i = true) : stepOnce s = exec i { s with agenda := r } := by
  unfold stepOnce
  rw [h]
  split
  · next o r' e => simp only [List.cons.injEq, Sched.occurs.injEq] at e; rw [← e.1, e.2]
  · simp [hot, ev]

end Sys2Proof.Machine
end

