-- ==== Sys2Proof/Laws/PerInstr.lean ====
section
/-! SUPPORT. Per instruction: the number that spells it fits in a 32-bit word. -/

namespace Sys2Proof.Laws

open Sys2Proof Sys2Proof.Machine

/-- The number that spells an instruction, if it has one, fits in a word. -/
def Encoding.Statement (i : Instr) : Prop := ∀ x, encodeNat i = some x → x < 2 ^ 32

theorem Encoding.ill (d : BitVec 5) (a : BitVec 5) (i : BitVec 11) : Encoding.Statement (.ill d a i) := by
  rintro x ⟨⟩
  have := d.isLt
  have := a.isLt
  have := i.isLt
  simp only [fld]; omega

theorem Encoding.nop : Encoding.Statement (.nop) := by
  rintro x ⟨⟩
  decide

theorem Encoding.brk (i : BitVec 11) : Encoding.Statement (.brk i) := by
  rintro x ⟨⟩
  have := i.isLt
  simp only [fld]; omega

theorem Encoding.trap (i : BitVec 11) : Encoding.Statement (.trap i) := by
  rintro x ⟨⟩
  have := i.isLt
  simp only [fld]; omega

theorem Encoding.eret : Encoding.Statement (.eret) := by
  rintro x ⟨⟩
  decide

theorem Encoding.halt : Encoding.Statement (.halt) := by
  rintro x ⟨⟩
  decide

theorem Encoding.trace (d : BitVec 5) (a : BitVec 5) (i : BitVec 11) : Encoding.Statement (.trace d a i) := by
  rintro x ⟨⟩
  have := d.isLt
  have := a.isLt
  have := i.isLt
  simp only [fld]; omega

theorem Encoding.sonde (d : BitVec 5) (a : BitVec 5) (k : BitVec 5) : Encoding.Statement (.sonde d a k) := by
  rintro x ⟨⟩
  have := d.isLt
  have := a.isLt
  have := k.isLt
  simp only [fld]; omega

theorem Encoding.add (d : BitVec 5) (a : BitVec 5) (b : BitVec 5) (w : BitVec 1) : Encoding.Statement (.add d a b w) := by
  rintro x ⟨⟩
  have := d.isLt
  have := a.isLt
  have := b.isLt
  have := w.isLt
  simp only [fld]; omega

theorem Encoding.sub (d : BitVec 5) (a : BitVec 5) (b : BitVec 5) (w : BitVec 1) : Encoding.Statement (.sub d a b w) := by
  rintro x ⟨⟩
  have := d.isLt
  have := a.isLt
  have := b.isLt
  have := w.isLt
  simp only [fld]; omega

theorem Encoding.and_ (d : BitVec 5) (a : BitVec 5) (b : BitVec 5) (w : BitVec 1) : Encoding.Statement (.and_ d a b w) := by
  rintro x ⟨⟩
  have := d.isLt
  have := a.isLt
  have := b.isLt
  have := w.isLt
  simp only [fld]; omega

theorem Encoding.or_ (d : BitVec 5) (a : BitVec 5) (b : BitVec 5) (w : BitVec 1) : Encoding.Statement (.or_ d a b w) := by
  rintro x ⟨⟩
  have := d.isLt
  have := a.isLt
  have := b.isLt
  have := w.isLt
  simp only [fld]; omega

theorem Encoding.xor (d : BitVec 5) (a : BitVec 5) (b : BitVec 5) (w : BitVec 1) : Encoding.Statement (.xor d a b w) := by
  rintro x ⟨⟩
  have := d.isLt
  have := a.isLt
  have := b.isLt
  have := w.isLt
  simp only [fld]; omega

theorem Encoding.andn (d : BitVec 5) (a : BitVec 5) (b : BitVec 5) (w : BitVec 1) : Encoding.Statement (.andn d a b w) := by
  rintro x ⟨⟩
  have := d.isLt
  have := a.isLt
  have := b.isLt
  have := w.isLt
  simp only [fld]; omega

theorem Encoding.shl (d : BitVec 5) (a : BitVec 5) (b : BitVec 5) (w : BitVec 1) : Encoding.Statement (.shl d a b w) := by
  rintro x ⟨⟩
  have := d.isLt
  have := a.isLt
  have := b.isLt
  have := w.isLt
  simp only [fld]; omega

theorem Encoding.shr (d : BitVec 5) (a : BitVec 5) (b : BitVec 5) (w : BitVec 1) : Encoding.Statement (.shr d a b w) := by
  rintro x ⟨⟩
  have := d.isLt
  have := a.isLt
  have := b.isLt
  have := w.isLt
  simp only [fld]; omega

theorem Encoding.sra (d : BitVec 5) (a : BitVec 5) (b : BitVec 5) (w : BitVec 1) : Encoding.Statement (.sra d a b w) := by
  rintro x ⟨⟩
  have := d.isLt
  have := a.isLt
  have := b.isLt
  have := w.isLt
  simp only [fld]; omega

theorem Encoding.rol (d : BitVec 5) (a : BitVec 5) (b : BitVec 5) (w : BitVec 1) : Encoding.Statement (.rol d a b w) := by
  rintro x ⟨⟩
  have := d.isLt
  have := a.isLt
  have := b.isLt
  have := w.isLt
  simp only [fld]; omega

theorem Encoding.slt (d : BitVec 5) (a : BitVec 5) (b : BitVec 5) (w : BitVec 1) : Encoding.Statement (.slt d a b w) := by
  rintro x ⟨⟩
  have := d.isLt
  have := a.isLt
  have := b.isLt
  have := w.isLt
  simp only [fld]; omega

theorem Encoding.sltu (d : BitVec 5) (a : BitVec 5) (b : BitVec 5) (w : BitVec 1) : Encoding.Statement (.sltu d a b w) := by
  rintro x ⟨⟩
  have := d.isLt
  have := a.isLt
  have := b.isLt
  have := w.isLt
  simp only [fld]; omega

theorem Encoding.min (d : BitVec 5) (a : BitVec 5) (b : BitVec 5) (w : BitVec 1) : Encoding.Statement (.min d a b w) := by
  rintro x ⟨⟩
  have := d.isLt
  have := a.isLt
  have := b.isLt
  have := w.isLt
  simp only [fld]; omega

theorem Encoding.max (d : BitVec 5) (a : BitVec 5) (b : BitVec 5) (w : BitVec 1) : Encoding.Statement (.max d a b w) := by
  rintro x ⟨⟩
  have := d.isLt
  have := a.isLt
  have := b.isLt
  have := w.isLt
  simp only [fld]; omega

theorem Encoding.minu (d : BitVec 5) (a : BitVec 5) (b : BitVec 5) (w : BitVec 1) : Encoding.Statement (.minu d a b w) := by
  rintro x ⟨⟩
  have := d.isLt
  have := a.isLt
  have := b.isLt
  have := w.isLt
  simp only [fld]; omega

theorem Encoding.maxu (d : BitVec 5) (a : BitVec 5) (b : BitVec 5) (w : BitVec 1) : Encoding.Statement (.maxu d a b w) := by
  rintro x ⟨⟩
  have := d.isLt
  have := a.isLt
  have := b.isLt
  have := w.isLt
  simp only [fld]; omega

theorem Encoding.mul (d : BitVec 5) (a : BitVec 5) (b : BitVec 5) (w : BitVec 1) : Encoding.Statement (.mul d a b w) := by
  rintro x ⟨⟩
  have := d.isLt
  have := a.isLt
  have := b.isLt
  have := w.isLt
  simp only [fld]; omega

theorem Encoding.mulh (d : BitVec 5) (a : BitVec 5) (b : BitVec 5) (w : BitVec 1) : Encoding.Statement (.mulh d a b w) := by
  rintro x ⟨⟩
  have := d.isLt
  have := a.isLt
  have := b.isLt
  have := w.isLt
  simp only [fld]; omega

theorem Encoding.mulhu (d : BitVec 5) (a : BitVec 5) (b : BitVec 5) (w : BitVec 1) : Encoding.Statement (.mulhu d a b w) := by
  rintro x ⟨⟩
  have := d.isLt
  have := a.isLt
  have := b.isLt
  have := w.isLt
  simp only [fld]; omega

theorem Encoding.div (d : BitVec 5) (a : BitVec 5) (b : BitVec 5) (w : BitVec 1) : Encoding.Statement (.div d a b w) := by
  rintro x ⟨⟩
  have := d.isLt
  have := a.isLt
  have := b.isLt
  have := w.isLt
  simp only [fld]; omega

theorem Encoding.divu (d : BitVec 5) (a : BitVec 5) (b : BitVec 5) (w : BitVec 1) : Encoding.Statement (.divu d a b w) := by
  rintro x ⟨⟩
  have := d.isLt
  have := a.isLt
  have := b.isLt
  have := w.isLt
  simp only [fld]; omega

theorem Encoding.rem (d : BitVec 5) (a : BitVec 5) (b : BitVec 5) (w : BitVec 1) : Encoding.Statement (.rem d a b w) := by
  rintro x ⟨⟩
  have := d.isLt
  have := a.isLt
  have := b.isLt
  have := w.isLt
  simp only [fld]; omega

theorem Encoding.remu (d : BitVec 5) (a : BitVec 5) (b : BitVec 5) (w : BitVec 1) : Encoding.Statement (.remu d a b w) := by
  rintro x ⟨⟩
  have := d.isLt
  have := a.isLt
  have := b.isLt
  have := w.isLt
  simp only [fld]; omega

theorem Encoding.clz (d : BitVec 5) (a : BitVec 5) (w : BitVec 1) : Encoding.Statement (.clz d a w) := by
  rintro x ⟨⟩
  have := d.isLt
  have := a.isLt
  have := w.isLt
  simp only [fld]; omega

theorem Encoding.ctz (d : BitVec 5) (a : BitVec 5) (w : BitVec 1) : Encoding.Statement (.ctz d a w) := by
  rintro x ⟨⟩
  have := d.isLt
  have := a.isLt
  have := w.isLt
  simp only [fld]; omega

theorem Encoding.popc (d : BitVec 5) (a : BitVec 5) (w : BitVec 1) : Encoding.Statement (.popc d a w) := by
  rintro x ⟨⟩
  have := d.isLt
  have := a.isLt
  have := w.isLt
  simp only [fld]; omega

theorem Encoding.sel (d : BitVec 5) (a : BitVec 5) (b : BitVec 5) (w : BitVec 1) : Encoding.Statement (.sel d a b w) := by
  rintro x ⟨⟩
  have := d.isLt
  have := a.isLt
  have := b.isLt
  have := w.isLt
  simp only [fld]; omega

theorem Encoding.extr (d : BitVec 5) (a : BitVec 5) (p : BitVec 6) (l : BitVec 6) : Encoding.Statement (.extr d a p l) := by
  rintro x ⟨⟩
  have := d.isLt
  have := a.isLt
  have := p.isLt
  have := l.isLt
  simp only [fld]; omega

theorem Encoding.extru (d : BitVec 5) (a : BitVec 5) (p : BitVec 6) (l : BitVec 6) : Encoding.Statement (.extru d a p l) := by
  rintro x ⟨⟩
  have := d.isLt
  have := a.isLt
  have := p.isLt
  have := l.isLt
  simp only [fld]; omega

theorem Encoding.ins (d : BitVec 5) (a : BitVec 5) (p : BitVec 6) (l : BitVec 6) : Encoding.Statement (.ins d a p l) := by
  rintro x ⟨⟩
  have := d.isLt
  have := a.isLt
  have := p.isLt
  have := l.isLt
  simp only [fld]; omega

theorem Encoding.fadd (d : BitVec 5) (a : BitVec 5) (b : BitVec 5) : Encoding.Statement (.fadd d a b) := by
  rintro x ⟨⟩
  have := d.isLt
  have := a.isLt
  have := b.isLt
  simp only [fld]; omega

theorem Encoding.fsub (d : BitVec 5) (a : BitVec 5) (b : BitVec 5) : Encoding.Statement (.fsub d a b) := by
  rintro x ⟨⟩
  have := d.isLt
  have := a.isLt
  have := b.isLt
  simp only [fld]; omega

theorem Encoding.fmul (d : BitVec 5) (a : BitVec 5) (b : BitVec 5) : Encoding.Statement (.fmul d a b) := by
  rintro x ⟨⟩
  have := d.isLt
  have := a.isLt
  have := b.isLt
  simp only [fld]; omega

theorem Encoding.ffma (d : BitVec 5) (a : BitVec 5) (b : BitVec 5) : Encoding.Statement (.ffma d a b) := by
  rintro x ⟨⟩
  have := d.isLt
  have := a.isLt
  have := b.isLt
  simp only [fld]; omega

theorem Encoding.fdiv (d : BitVec 5) (a : BitVec 5) (b : BitVec 5) : Encoding.Statement (.fdiv d a b) := by
  rintro x ⟨⟩
  have := d.isLt
  have := a.isLt
  have := b.isLt
  simp only [fld]; omega

theorem Encoding.fmin (d : BitVec 5) (a : BitVec 5) (b : BitVec 5) : Encoding.Statement (.fmin d a b) := by
  rintro x ⟨⟩
  have := d.isLt
  have := a.isLt
  have := b.isLt
  simp only [fld]; omega

theorem Encoding.fmax (d : BitVec 5) (a : BitVec 5) (b : BitVec 5) : Encoding.Statement (.fmax d a b) := by
  rintro x ⟨⟩
  have := d.isLt
  have := a.isLt
  have := b.isLt
  simp only [fld]; omega

theorem Encoding.fabs (d : BitVec 5) (a : BitVec 5) : Encoding.Statement (.fabs d a) := by
  rintro x ⟨⟩
  have := d.isLt
  have := a.isLt
  simp only [fld]; omega

theorem Encoding.fneg (d : BitVec 5) (a : BitVec 5) : Encoding.Statement (.fneg d a) := by
  rintro x ⟨⟩
  have := d.isLt
  have := a.isLt
  simp only [fld]; omega

theorem Encoding.feq (d : BitVec 5) (a : BitVec 5) (b : BitVec 5) : Encoding.Statement (.feq d a b) := by
  rintro x ⟨⟩
  have := d.isLt
  have := a.isLt
  have := b.isLt
  simp only [fld]; omega

theorem Encoding.flt (d : BitVec 5) (a : BitVec 5) (b : BitVec 5) : Encoding.Statement (.flt d a b) := by
  rintro x ⟨⟩
  have := d.isLt
  have := a.isLt
  have := b.isLt
  simp only [fld]; omega

theorem Encoding.fle (d : BitVec 5) (a : BitVec 5) (b : BitVec 5) : Encoding.Statement (.fle d a b) := by
  rintro x ⟨⟩
  have := d.isLt
  have := a.isLt
  have := b.isLt
  simp only [fld]; omega

theorem Encoding.ftoi (d : BitVec 5) (a : BitVec 5) : Encoding.Statement (.ftoi d a) := by
  rintro x ⟨⟩
  have := d.isLt
  have := a.isLt
  simp only [fld]; omega

theorem Encoding.itof (d : BitVec 5) (a : BitVec 5) : Encoding.Statement (.itof d a) := by
  rintro x ⟨⟩
  have := d.isLt
  have := a.isLt
  simp only [fld]; omega

theorem Encoding.addi (d : BitVec 5) (a : BitVec 5) (i : BitVec 16) : Encoding.Statement (.addi d a i) := by
  rintro x ⟨⟩
  have := d.isLt
  have := a.isLt
  have := i.isLt
  simp only [fld]; omega

theorem Encoding.andi (d : BitVec 5) (a : BitVec 5) (i : BitVec 16) : Encoding.Statement (.andi d a i) := by
  rintro x ⟨⟩
  have := d.isLt
  have := a.isLt
  have := i.isLt
  simp only [fld]; omega

theorem Encoding.ori (d : BitVec 5) (a : BitVec 5) (i : BitVec 16) : Encoding.Statement (.ori d a i) := by
  rintro x ⟨⟩
  have := d.isLt
  have := a.isLt
  have := i.isLt
  simp only [fld]; omega

theorem Encoding.xori (d : BitVec 5) (a : BitVec 5) (i : BitVec 16) : Encoding.Statement (.xori d a i) := by
  rintro x ⟨⟩
  have := d.isLt
  have := a.isLt
  have := i.isLt
  simp only [fld]; omega

theorem Encoding.slti (d : BitVec 5) (a : BitVec 5) (i : BitVec 16) : Encoding.Statement (.slti d a i) := by
  rintro x ⟨⟩
  have := d.isLt
  have := a.isLt
  have := i.isLt
  simp only [fld]; omega

theorem Encoding.sltui (d : BitVec 5) (a : BitVec 5) (i : BitVec 16) : Encoding.Statement (.sltui d a i) := by
  rintro x ⟨⟩
  have := d.isLt
  have := a.isLt
  have := i.isLt
  simp only [fld]; omega

theorem Encoding.shli (d : BitVec 5) (a : BitVec 5) (n : BitVec 6) : Encoding.Statement (.shli d a n) := by
  rintro x ⟨⟩
  have := d.isLt
  have := a.isLt
  have := n.isLt
  simp only [fld]; omega

theorem Encoding.shri (d : BitVec 5) (a : BitVec 5) (n : BitVec 6) : Encoding.Statement (.shri d a n) := by
  rintro x ⟨⟩
  have := d.isLt
  have := a.isLt
  have := n.isLt
  simp only [fld]; omega

theorem Encoding.srai (d : BitVec 5) (a : BitVec 5) (n : BitVec 6) : Encoding.Statement (.srai d a n) := by
  rintro x ⟨⟩
  have := d.isLt
  have := a.isLt
  have := n.isLt
  simp only [fld]; omega

theorem Encoding.lui (d : BitVec 5) (i : BitVec 16) : Encoding.Statement (.lui d i) := by
  rintro x ⟨⟩
  have := d.isLt
  have := i.isLt
  simp only [fld]; omega

theorem Encoding.addpc (d : BitVec 5) (i : BitVec 16) : Encoding.Statement (.addpc d i) := by
  rintro x ⟨⟩
  have := d.isLt
  have := i.isLt
  simp only [fld]; omega

theorem Encoding.beq (a : BitVec 5) (b : BitVec 5) (o : BitVec 16) : Encoding.Statement (.beq a b o) := by
  rintro x ⟨⟩
  have := a.isLt
  have := b.isLt
  have := o.isLt
  simp only [fld]; omega

theorem Encoding.bne (a : BitVec 5) (b : BitVec 5) (o : BitVec 16) : Encoding.Statement (.bne a b o) := by
  rintro x ⟨⟩
  have := a.isLt
  have := b.isLt
  have := o.isLt
  simp only [fld]; omega

theorem Encoding.blt (a : BitVec 5) (b : BitVec 5) (o : BitVec 16) : Encoding.Statement (.blt a b o) := by
  rintro x ⟨⟩
  have := a.isLt
  have := b.isLt
  have := o.isLt
  simp only [fld]; omega

theorem Encoding.bge (a : BitVec 5) (b : BitVec 5) (o : BitVec 16) : Encoding.Statement (.bge a b o) := by
  rintro x ⟨⟩
  have := a.isLt
  have := b.isLt
  have := o.isLt
  simp only [fld]; omega

theorem Encoding.bltu (a : BitVec 5) (b : BitVec 5) (o : BitVec 16) : Encoding.Statement (.bltu a b o) := by
  rintro x ⟨⟩
  have := a.isLt
  have := b.isLt
  have := o.isLt
  simp only [fld]; omega

theorem Encoding.bgeu (a : BitVec 5) (b : BitVec 5) (o : BitVec 16) : Encoding.Statement (.bgeu a b o) := by
  rintro x ⟨⟩
  have := a.isLt
  have := b.isLt
  have := o.isLt
  simp only [fld]; omega

theorem Encoding.jmp (o : BitVec 26) : Encoding.Statement (.jmp o) := by
  rintro x ⟨⟩
  have := o.isLt
  simp only [fld]; omega

theorem Encoding.call (o : BitVec 26) : Encoding.Statement (.call o) := by
  rintro x ⟨⟩
  have := o.isLt
  simp only [fld]; omega

theorem Encoding.jmpr (a : BitVec 5) : Encoding.Statement (.jmpr a) := by
  rintro x ⟨⟩
  have := a.isLt
  simp only [fld]; omega

theorem Encoding.callr (a : BitVec 5) : Encoding.Statement (.callr a) := by
  rintro x ⟨⟩
  have := a.isLt
  simp only [fld]; omega

theorem Encoding.ldbu (d : BitVec 5) (a : BitVec 5) (o : BitVec 13) : Encoding.Statement (.ldbu d a o) := by
  rintro x ⟨⟩
  have := d.isLt
  have := a.isLt
  have := o.isLt
  simp only [fld]; omega

theorem Encoding.ldb (d : BitVec 5) (a : BitVec 5) (o : BitVec 13) : Encoding.Statement (.ldb d a o) := by
  rintro x ⟨⟩
  have := d.isLt
  have := a.isLt
  have := o.isLt
  simp only [fld]; omega

theorem Encoding.ldhu (d : BitVec 5) (a : BitVec 5) (o : BitVec 13) : Encoding.Statement (.ldhu d a o) := by
  rintro x ⟨⟩
  have := d.isLt
  have := a.isLt
  have := o.isLt
  simp only [fld]; omega

theorem Encoding.ldh (d : BitVec 5) (a : BitVec 5) (o : BitVec 13) : Encoding.Statement (.ldh d a o) := by
  rintro x ⟨⟩
  have := d.isLt
  have := a.isLt
  have := o.isLt
  simp only [fld]; omega

theorem Encoding.ldwu (d : BitVec 5) (a : BitVec 5) (o : BitVec 13) : Encoding.Statement (.ldwu d a o) := by
  rintro x ⟨⟩
  have := d.isLt
  have := a.isLt
  have := o.isLt
  simp only [fld]; omega

theorem Encoding.ldw (d : BitVec 5) (a : BitVec 5) (o : BitVec 13) : Encoding.Statement (.ldw d a o) := by
  rintro x ⟨⟩
  have := d.isLt
  have := a.isLt
  have := o.isLt
  simp only [fld]; omega

theorem Encoding.ldd (d : BitVec 5) (a : BitVec 5) (o : BitVec 13) : Encoding.Statement (.ldd d a o) := by
  rintro x ⟨⟩
  have := d.isLt
  have := a.isLt
  have := o.isLt
  simp only [fld]; omega

theorem Encoding.stb (d : BitVec 5) (a : BitVec 5) (o : BitVec 13) : Encoding.Statement (.stb d a o) := by
  rintro x ⟨⟩
  have := d.isLt
  have := a.isLt
  have := o.isLt
  simp only [fld]; omega

theorem Encoding.sth (d : BitVec 5) (a : BitVec 5) (o : BitVec 13) : Encoding.Statement (.sth d a o) := by
  rintro x ⟨⟩
  have := d.isLt
  have := a.isLt
  have := o.isLt
  simp only [fld]; omega

theorem Encoding.stw (d : BitVec 5) (a : BitVec 5) (o : BitVec 13) : Encoding.Statement (.stw d a o) := by
  rintro x ⟨⟩
  have := d.isLt
  have := a.isLt
  have := o.isLt
  simp only [fld]; omega

theorem Encoding.std (d : BitVec 5) (a : BitVec 5) (o : BitVec 13) : Encoding.Statement (.std d a o) := by
  rintro x ⟨⟩
  have := d.isLt
  have := a.isLt
  have := o.isLt
  simp only [fld]; omega

theorem Encoding.ldacqWu (d : BitVec 5) (a : BitVec 5) (o : BitVec 13) : Encoding.Statement (.ldacqWu d a o) := by
  rintro x ⟨⟩
  have := d.isLt
  have := a.isLt
  have := o.isLt
  simp only [fld]; omega

theorem Encoding.ldacqW (d : BitVec 5) (a : BitVec 5) (o : BitVec 13) : Encoding.Statement (.ldacqW d a o) := by
  rintro x ⟨⟩
  have := d.isLt
  have := a.isLt
  have := o.isLt
  simp only [fld]; omega

theorem Encoding.ldacqD (d : BitVec 5) (a : BitVec 5) (o : BitVec 13) : Encoding.Statement (.ldacqD d a o) := by
  rintro x ⟨⟩
  have := d.isLt
  have := a.isLt
  have := o.isLt
  simp only [fld]; omega

theorem Encoding.strelW (d : BitVec 5) (a : BitVec 5) (o : BitVec 13) : Encoding.Statement (.strelW d a o) := by
  rintro x ⟨⟩
  have := d.isLt
  have := a.isLt
  have := o.isLt
  simp only [fld]; omega

theorem Encoding.strelD (d : BitVec 5) (a : BitVec 5) (o : BitVec 13) : Encoding.Statement (.strelD d a o) := by
  rintro x ⟨⟩
  have := d.isLt
  have := a.isLt
  have := o.isLt
  simp only [fld]; omega

theorem Encoding.tstsa (d : BitVec 5) (a : BitVec 5) : Encoding.Statement (.tstsa d a) := by
  rintro x ⟨⟩
  have := d.isLt
  have := a.isLt
  simp only [fld]; omega

theorem Encoding.stsa (d : BitVec 5) (a : BitVec 5) : Encoding.Statement (.stsa d a) := by
  rintro x ⟨⟩
  have := d.isLt
  have := a.isLt
  simp only [fld]; omega

theorem Encoding.clrsa (a : BitVec 5) (n : BitVec 11) : Encoding.Statement (.clrsa a n) := by
  rintro x ⟨⟩
  have := a.isLt
  have := n.isLt
  simp only [fld]; omega

theorem Encoding.watch (d : BitVec 5) (a : BitVec 5) (t : BitVec 11) : Encoding.Statement (.watch d a t) := by
  rintro x ⟨⟩
  have := d.isLt
  have := a.isLt
  have := t.isLt
  simp only [fld]; omega

theorem Encoding.aadd (d : BitVec 5) (a : BitVec 5) (b : BitVec 5) (w : BitVec 1) (s : BitVec 2) : Encoding.Statement (.aadd d a b w s) := by
  rintro x ⟨⟩
  have := d.isLt
  have := a.isLt
  have := b.isLt
  have := w.isLt
  have := s.isLt
  simp only [fld]; omega

theorem Encoding.aswp (d : BitVec 5) (a : BitVec 5) (b : BitVec 5) (w : BitVec 1) (s : BitVec 2) : Encoding.Statement (.aswp d a b w s) := by
  rintro x ⟨⟩
  have := d.isLt
  have := a.isLt
  have := b.isLt
  have := w.isLt
  have := s.isLt
  simp only [fld]; omega

theorem Encoding.acas (d : BitVec 5) (a : BitVec 5) (b : BitVec 5) (w : BitVec 1) (s : BitVec 2) : Encoding.Statement (.acas d a b w s) := by
  rintro x ⟨⟩
  have := d.isLt
  have := a.isLt
  have := b.isLt
  have := w.isLt
  have := s.isLt
  simp only [fld]; omega

theorem Encoding.aand (d : BitVec 5) (a : BitVec 5) (b : BitVec 5) (w : BitVec 1) (s : BitVec 2) : Encoding.Statement (.aand d a b w s) := by
  rintro x ⟨⟩
  have := d.isLt
  have := a.isLt
  have := b.isLt
  have := w.isLt
  have := s.isLt
  simp only [fld]; omega

theorem Encoding.aor (d : BitVec 5) (a : BitVec 5) (b : BitVec 5) (w : BitVec 1) (s : BitVec 2) : Encoding.Statement (.aor d a b w s) := by
  rintro x ⟨⟩
  have := d.isLt
  have := a.isLt
  have := b.isLt
  have := w.isLt
  have := s.isLt
  simp only [fld]; omega

theorem Encoding.axor (d : BitVec 5) (a : BitVec 5) (b : BitVec 5) (w : BitVec 1) (s : BitVec 2) : Encoding.Statement (.axor d a b w s) := by
  rintro x ⟨⟩
  have := d.isLt
  have := a.isLt
  have := b.isLt
  have := w.isLt
  have := s.isLt
  simp only [fld]; omega

theorem Encoding.amax (d : BitVec 5) (a : BitVec 5) (b : BitVec 5) (w : BitVec 1) (s : BitVec 2) : Encoding.Statement (.amax d a b w s) := by
  rintro x ⟨⟩
  have := d.isLt
  have := a.isLt
  have := b.isLt
  have := w.isLt
  have := s.isLt
  simp only [fld]; omega

theorem Encoding.amin (d : BitVec 5) (a : BitVec 5) (b : BitVec 5) (w : BitVec 1) (s : BitVec 2) : Encoding.Statement (.amin d a b w s) := by
  rintro x ⟨⟩
  have := d.isLt
  have := a.isLt
  have := b.isLt
  have := w.isLt
  have := s.isLt
  simp only [fld]; omega

theorem Encoding.amaxu (d : BitVec 5) (a : BitVec 5) (b : BitVec 5) (w : BitVec 1) (s : BitVec 2) : Encoding.Statement (.amaxu d a b w s) := by
  rintro x ⟨⟩
  have := d.isLt
  have := a.isLt
  have := b.isLt
  have := w.isLt
  have := s.isLt
  simp only [fld]; omega

theorem Encoding.aminu (d : BitVec 5) (a : BitVec 5) (b : BitVec 5) (w : BitVec 1) (s : BitVec 2) : Encoding.Statement (.aminu d a b w s) := by
  rintro x ⟨⟩
  have := d.isLt
  have := a.isLt
  have := b.isLt
  have := w.isLt
  have := s.isLt
  simp only [fld]; omega

theorem Encoding.vldd (d : BitVec 5) (a : BitVec 5) : Encoding.Statement (.vldd d a) := by
  rintro x ⟨⟩
  have := d.isLt
  have := a.isLt
  simp only [fld]; omega

theorem Encoding.vstd (d : BitVec 5) (a : BitVec 5) : Encoding.Statement (.vstd d a) := by
  rintro x ⟨⟩
  have := d.isLt
  have := a.isLt
  simp only [fld]; omega

theorem Encoding.vcpy (d : BitVec 5) (a : BitVec 5) (r : BitVec 1) : Encoding.Statement (.vcpy d a r) := by
  rintro x ⟨⟩
  have := d.isLt
  have := a.isLt
  have := r.isLt
  simp only [fld]; omega

theorem Encoding.fence (s : BitVec 5) : Encoding.Statement (.fence s) := by
  rintro x ⟨⟩
  have := s.isLt
  simp only [fld]; omega

theorem Encoding.crd (d : BitVec 5) (n : BitVec 11) : Encoding.Statement (.crd d n) := by
  rintro x ⟨⟩
  have := d.isLt
  have := n.isLt
  simp only [fld]; omega

theorem Encoding.cwr (d : BitVec 5) (a : BitVec 5) (n : BitVec 11) : Encoding.Statement (.cwr d a n) := by
  rintro x ⟨⟩
  have := d.isLt
  have := a.isLt
  have := n.isLt
  simp only [fld]; omega

theorem Encoding.cset (d : BitVec 5) (a : BitVec 5) (n : BitVec 11) : Encoding.Statement (.cset d a n) := by
  rintro x ⟨⟩
  have := d.isLt
  have := a.isLt
  have := n.isLt
  simp only [fld]; omega

theorem Encoding.cclr (d : BitVec 5) (a : BitVec 5) (n : BitVec 11) : Encoding.Statement (.cclr d a n) := by
  rintro x ⟨⟩
  have := d.isLt
  have := a.isLt
  have := n.isLt
  simp only [fld]; omega

theorem Encoding.send (d : BitVec 5) (a : BitVec 5) (u : BitVec 3) (l : BitVec 3) (c : BitVec 5) : Encoding.Statement (.send d a u l c) := by
  rintro x ⟨⟩
  have := d.isLt
  have := a.isLt
  have := u.isLt
  have := l.isLt
  have := c.isLt
  simp only [fld]; omega

theorem Encoding.sendi (d : BitVec 5) (a : BitVec 5) (c : BitVec 5) : Encoding.Statement (.sendi d a c) := by
  rintro x ⟨⟩
  have := d.isLt
  have := a.isLt
  have := c.isLt
  simp only [fld]; omega

theorem Encoding.reply (d : BitVec 5) (a : BitVec 5) (u : BitVec 3) (l : BitVec 3) (c : BitVec 5) : Encoding.Statement (.reply d a u l c) := by
  rintro x ⟨⟩
  have := d.isLt
  have := a.isLt
  have := u.isLt
  have := l.isLt
  have := c.isLt
  simp only [fld]; omega

theorem Encoding.post (d : BitVec 5) (a : BitVec 5) (k : BitVec 8) : Encoding.Statement (.post d a k) := by
  rintro x ⟨⟩
  have := d.isLt
  have := a.isLt
  have := k.isLt
  simp only [fld]; omega

theorem Encoding.bcast (d : BitVec 5) (a : BitVec 5) (u : BitVec 3) (l : BitVec 3) (c : BitVec 5) : Encoding.Statement (.bcast d a u l c) := by
  rintro x ⟨⟩
  have := d.isLt
  have := a.isLt
  have := u.isLt
  have := l.isLt
  have := c.isLt
  simp only [fld]; omega

theorem Encoding.end_ (f : BitVec 1) : Encoding.Statement (.end_ f) := by
  rintro x ⟨⟩
  have := f.isLt
  simp only [fld]; omega

theorem Encoding.armh (d : BitVec 5) (a : BitVec 5) (x : BitVec 1) (k : BitVec 1) (p : BitVec 4) (c : BitVec 5) : Encoding.Statement (.armh d a x k p c) := by
  rintro x ⟨⟩
  have := d.isLt
  have := a.isLt
  have := x.isLt
  have := k.isLt
  have := p.isLt
  have := c.isLt
  simp only [fld]; omega

theorem Encoding.maskh (d : BitVec 5) (a : BitVec 5) : Encoding.Statement (.maskh d a) := by
  rintro x ⟨⟩
  have := d.isLt
  have := a.isLt
  simp only [fld]; omega

theorem Encoding.unmaskh (d : BitVec 5) (a : BitVec 5) : Encoding.Statement (.unmaskh d a) := by
  rintro x ⟨⟩
  have := d.isLt
  have := a.isLt
  simp only [fld]; omega

theorem Encoding.raise (d : BitVec 5) (a : BitVec 5) (c : BitVec 5) : Encoding.Statement (.raise d a c) := by
  rintro x ⟨⟩
  have := d.isLt
  have := a.isLt
  have := c.isLt
  simp only [fld]; omega

theorem Encoding.cfgl (d : BitVec 5) (a : BitVec 5) (c : BitVec 5) : Encoding.Statement (.cfgl d a c) := by
  rintro x ⟨⟩
  have := d.isLt
  have := a.isLt
  have := c.isLt
  simp only [fld]; omega

theorem Encoding.cfge (d : BitVec 5) (a : BitVec 5) (i : BitVec 3) : Encoding.Statement (.cfge d a i) := by
  rintro x ⟨⟩
  have := d.isLt
  have := a.isLt
  have := i.isLt
  simp only [fld]; omega

theorem Encoding.cfgw (d : BitVec 5) (a : BitVec 5) (p : BitVec 2) (s : BitVec 3) : Encoding.Statement (.cfgw d a p s) := by
  rintro x ⟨⟩
  have := d.isLt
  have := a.isLt
  have := p.isLt
  have := s.isLt
  simp only [fld]; omega

theorem Encoding.ctxi (d : BitVec 5) (s : BitVec 6) : Encoding.Statement (.ctxi d s) := by
  rintro x ⟨⟩
  have := d.isLt
  have := s.isLt
  simp only [fld]; omega

theorem Encoding.mode (d : BitVec 5) (a : BitVec 5) (f : BitVec 4) : Encoding.Statement (.mode d a f) := by
  rintro x ⟨⟩
  have := d.isLt
  have := a.isLt
  have := f.isLt
  simp only [fld]; omega

theorem Encoding.wpre (d : BitVec 5) (a : BitVec 5) (n : BitVec 11) : Encoding.Statement (.wpre d a n) := by
  rintro x ⟨⟩
  have := d.isLt
  have := a.isLt
  have := n.isLt
  simp only [fld]; omega

theorem Encoding.strm (d : BitVec 5) (a : BitVec 5) (c : BitVec 2) (e : BitVec 5) : Encoding.Statement (.strm d a c e) := by
  rintro x ⟨⟩
  have := d.isLt
  have := a.isLt
  have := c.isLt
  have := e.isLt
  simp only [fld]; omega

theorem Encoding.stop (d : BitVec 5) (c : BitVec 2) (e : BitVec 5) : Encoding.Statement (.stop d c e) := by
  rintro x ⟨⟩
  have := d.isLt
  have := c.isLt
  have := e.isLt
  simp only [fld]; omega

theorem Encoding.inj (d : BitVec 5) (a : BitVec 5) (n : BitVec 4) : Encoding.Statement (.inj d a n) := by
  rintro x ⟨⟩
  have := d.isLt
  have := a.isLt
  have := n.isLt
  simp only [fld]; omega

theorem Encoding.injm (d : BitVec 5) (a : BitVec 5) (n : BitVec 4) : Encoding.Statement (.injm d a n) := by
  rintro x ⟨⟩
  have := d.isLt
  have := a.isLt
  have := n.isLt
  simp only [fld]; omega

theorem Encoding.prime (d : BitVec 5) (a : BitVec 5) (n : BitVec 3) : Encoding.Statement (.prime d a n) := by
  rintro x ⟨⟩
  have := d.isLt
  have := a.isLt
  have := n.isLt
  simp only [fld]; omega

theorem Encoding.barr (d : BitVec 5) (t : BitVec 8) (k : BitVec 1) : Encoding.Statement (.barr d t k) := by
  rintro x ⟨⟩
  have := d.isLt
  have := t.isLt
  have := k.isLt
  simp only [fld]; omega

theorem Encoding.armc (d : BitVec 5) (a : BitVec 5) (c : BitVec 2) (e : BitVec 5) : Encoding.Statement (.armc d a c e) := by
  rintro x ⟨⟩
  have := d.isLt
  have := a.isLt
  have := c.isLt
  have := e.isLt
  simp only [fld]; omega

theorem Encoding.fgld (d : BitVec 5) (a : BitVec 5) : Encoding.Statement (.fgld d a) := by
  rintro x ⟨⟩
  have := d.isLt
  have := a.isLt
  simp only [fld]; omega

theorem Encoding.fgsw (d : BitVec 5) (x : BitVec 1) (s : BitVec 4) (r : BitVec 1) : Encoding.Statement (.fgsw d x s r) := by
  rintro x ⟨⟩
  have := d.isLt
  have := x.isLt
  have := s.isLt
  have := r.isLt
  simp only [fld]; omega

theorem Encoding.fgqy (d : BitVec 5) (x : BitVec 1) (s : BitVec 4) : Encoding.Statement (.fgqy d x s) := by
  rintro x ⟨⟩
  have := d.isLt
  have := x.isLt
  have := s.isLt
  simp only [fld]; omega

theorem Encoding.fgclr (d : BitVec 5) (a : BitVec 5) : Encoding.Statement (.fgclr d a) := by
  rintro x ⟨⟩
  have := d.isLt
  have := a.isLt
  simp only [fld]; omega

theorem Encoding.femit (d : BitVec 5) (a : BitVec 5) : Encoding.Statement (.femit d a) := by
  rintro x ⟨⟩
  have := d.isLt
  have := a.isLt
  simp only [fld]; omega

theorem Encoding.dband (d : BitVec 5) (a : BitVec 5) : Encoding.Statement (.dband d a) := by
  rintro x ⟨⟩
  have := d.isLt
  have := a.isLt
  simp only [fld]; omega

theorem Encoding.dstage (d : BitVec 5) (a : BitVec 5) : Encoding.Statement (.dstage d a) := by
  rintro x ⟨⟩
  have := d.isLt
  have := a.isLt
  simp only [fld]; omega

theorem Encoding.dsave (d : BitVec 5) : Encoding.Statement (.dsave d) := by
  rintro x ⟨⟩
  have := d.isLt
  simp only [fld]; omega

theorem Encoding.drest (d : BitVec 5) : Encoding.Statement (.drest d) := by
  rintro x ⟨⟩
  have := d.isLt
  simp only [fld]; omega

theorem Encoding.dscrl (d : BitVec 5) (b : BitVec 1) : Encoding.Statement (.dscrl d b) := by
  rintro x ⟨⟩
  have := d.isLt
  have := b.isLt
  simp only [fld]; omega

theorem Encoding.dqry (d : BitVec 5) (x : BitVec 1) (s : BitVec 3) : Encoding.Statement (.dqry d x s) := by
  rintro x ⟨⟩
  have := d.isLt
  have := x.isLt
  have := s.isLt
  simp only [fld]; omega

theorem Encoding.xfer (d : BitVec 5) (a : BitVec 5) (n : BitVec 1) (e : BitVec 3) : Encoding.Statement (.xfer d a n e) := by
  rintro x ⟨⟩
  have := d.isLt
  have := a.isLt
  have := n.isLt
  have := e.isLt
  simp only [fld]; omega

theorem Encoding.xqry (d : BitVec 5) (a : BitVec 5) (e : BitVec 3) : Encoding.Statement (.xqry d a e) := by
  rintro x ⟨⟩
  have := d.isLt
  have := a.isLt
  have := e.isLt
  simp only [fld]; omega

theorem Encoding.swap (d : BitVec 5) (a : BitVec 5) : Encoding.Statement (.swap d a) := by
  rintro x ⟨⟩
  have := d.isLt
  have := a.isLt
  simp only [fld]; omega

theorem Encoding.bmov (d : BitVec 5) (a : BitVec 5) : Encoding.Statement (.bmov d a) := by
  rintro x ⟨⟩
  have := d.isLt
  have := a.isLt
  simp only [fld]; omega

theorem Encoding.cgrun (d : BitVec 5) (a : BitVec 5) (c : BitVec 5) : Encoding.Statement (.cgrun d a c) := by
  rintro x ⟨⟩
  have := d.isLt
  have := a.isLt
  have := c.isLt
  simp only [fld]; omega

theorem Encoding.cgdec (d : BitVec 5) (a : BitVec 5) : Encoding.Statement (.cgdec d a) := by
  rintro x ⟨⟩
  have := d.isLt
  have := a.isLt
  simp only [fld]; omega

theorem Encoding.launchPortWrite (p : PartId) (q : Fin 16) (addr : BitVec 64) : Encoding.Statement (.launchPortWrite p q addr) := nofun

theorem Encoding.taskPlace (p : PartId) (reply : MapperReply) : Encoding.Statement (.taskPlace p reply) := nofun

theorem Encoding.entryMessage (task : BitVec 16) : Encoding.Statement (.entryMessage task) := nofun

theorem Encoding.taskRetire (task : BitVec 16) : Encoding.Statement (.taskRetire task) := nofun

theorem Encoding.messageDepart (n : Node) (i : Nat) : Encoding.Statement (.messageDepart n i) := nofun

theorem Encoding.messageLand (i : Nat) : Encoding.Statement (.messageLand i) := nofun

theorem Encoding.spillRecordWrite (task : BitVec 16) (i : Nat) : Encoding.Statement (.spillRecordWrite task i) := nofun

theorem Encoding.messageDispatch (n : Node) : Encoding.Statement (.messageDispatch n) := nofun

theorem Encoding.configTokenArrive (i : Nat) : Encoding.Statement (.configTokenArrive i) := nofun

theorem Encoding.tokenLand (i : Nat) : Encoding.Statement (.tokenLand i) := nofun

theorem Encoding.elementFiring (c : ColId) (e : ElemId) : Encoding.Statement (.elementFiring c e) := nofun

theorem Encoding.arbiterEpoch (s : StackId) : Encoding.Statement (.arbiterEpoch s) := nofun

theorem Encoding.creditReturn (i : Nat) : Encoding.Statement (.creditReturn i) := nofun

theorem Encoding.markerAlign (c : ColId) (e : ElemId) (x : CtxId) : Encoding.Statement (.markerAlign c e x) := nofun

theorem Encoding.mergeDecrement (i : Nat) : Encoding.Statement (.mergeDecrement i) := nofun

theorem Encoding.watchdog (task : BitVec 16) : Encoding.Statement (.watchdog task) := nofun

theorem Encoding.scrollOpen (c : ColId) : Encoding.Statement (.scrollOpen c) := nofun

theorem Encoding.berthSaveDone (c : ColId) : Encoding.Statement (.berthSaveDone c) := nofun

theorem Encoding.berthRestoreDone (c : ColId) : Encoding.Statement (.berthRestoreDone c) := nofun

theorem Encoding.flushNotice (c : ColId) : Encoding.Statement (.flushNotice c) := nofun

theorem Encoding.scrollMarkerPlace (c : ColId) : Encoding.Statement (.scrollMarkerPlace c) := nofun

theorem Encoding.stageQuiesce (c : ColId) : Encoding.Statement (.stageQuiesce c) := nofun

theorem Encoding.dsaveDone (c : ColId) : Encoding.Statement (.dsaveDone c) := nofun

theorem Encoding.drestDone (c : ColId) : Encoding.Statement (.drestDone c) := nofun

theorem Encoding.eccWriteback (n : Node) (vertical : Bool) (word : Nat) : Encoding.Statement (.eccWriteback n vertical word) := nofun

theorem Encoding.saDeferTimeout (i : Nat) : Encoding.Statement (.saDeferTimeout i) := nofun

theorem Encoding.watchFire (c : ColId) (i : Nat) : Encoding.Statement (.watchFire c i) := nofun

theorem Encoding.agReplyEmit (c : ColId) (e : ElemId) (x : CtxId) : Encoding.Statement (.agReplyEmit c e x) := nofun

theorem Encoding.streamCompletionToken (c : ColId) (e : ElemId) (x : CtxId) : Encoding.Statement (.streamCompletionToken c e x) := nofun

theorem Encoding.completionTokenEmit (c : ColId) (e : ElemId) (x : CtxId) : Encoding.Statement (.completionTokenEmit c e x) := nofun

theorem Encoding.transferStart (s : StackId) (t : TeId) : Encoding.Statement (.transferStart s t) := nofun

theorem Encoding.transferComplete (s : StackId) (t : TeId) : Encoding.Statement (.transferComplete s t) := nofun

theorem Encoding.requestPacket (s : StackId) (t : TeId) : Encoding.Statement (.requestPacket s t) := nofun

theorem Encoding.cgNodeFinish (c : ColId) (node : Nat) : Encoding.Statement (.cgNodeFinish c node) := nofun

theorem Encoding.dictResetRequest (i : Nat) : Encoding.Statement (.dictResetRequest i) := nofun

theorem Encoding.frostLoadDone (c : ColId) : Encoding.Statement (.frostLoadDone c) := nofun

theorem Encoding.frostMarkerAdmit (c : ColId) : Encoding.Statement (.frostMarkerAdmit c) := nofun

theorem Encoding.frostVectorAdmit (c : ColId) : Encoding.Statement (.frostVectorAdmit c) := nofun

theorem Encoding.femitToken (c : ColId) : Encoding.Statement (.femitToken c) := nofun

theorem Encoding.fgclrCycle (c : ColId) : Encoding.Statement (.fgclrCycle c) := nofun

theorem Encoding.cfglEntrySend (c : ColId) : Encoding.Statement (.cfglEntrySend c) := nofun

theorem Encoding.cfglComplete (c : ColId) : Encoding.Statement (.cfglComplete c) := nofun

theorem Encoding.barrierComplete (c : ColId) : Encoding.Statement (.barrierComplete c) := nofun

theorem Encoding.swapRefillStart (s : StackId) : Encoding.Statement (.swapRefillStart s) := nofun

theorem Encoding.swapRefillDone (s : StackId) : Encoding.Statement (.swapRefillDone s) := nofun

theorem Encoding.bmovComplete (h : HartId) (i : Nat) : Encoding.Statement (.bmovComplete h i) := nofun

theorem Encoding.engineKick (i : Nat) : Encoding.Statement (.engineKick i) := nofun

theorem Encoding.gatherMove (c : ColId) (i : Nat) : Encoding.Statement (.gatherMove c i) := nofun

theorem Encoding.cturnEmit (c : ColId) (k : Fin 4) : Encoding.Statement (.cturnEmit c k) := nofun

theorem Encoding.eventRecordWrite (p : PartId) : Encoding.Statement (.eventRecordWrite p) := nofun

theorem Encoding.pcolWrite (p : PartId) (k : Fin 4) (v : BitVec 64) : Encoding.Statement (.pcolWrite p k v) := nofun

theorem Encoding.inboundMailboxWrite (n : Fin 16) (v : BitVec 64) : Encoding.Statement (.inboundMailboxWrite n v) := nofun

theorem Encoding.outboundMailboxWrite (n : Fin 16) (v : BitVec 64) : Encoding.Statement (.outboundMailboxWrite n v) := nofun

theorem Encoding.reassignBank (v : BitVec 64) : Encoding.Statement (.reassignBank v) := nofun

theorem Encoding.reassignShelf (v : BitVec 64) : Encoding.Statement (.reassignShelf v) := nofun

theorem Encoding.reassignDone : Encoding.Statement (.reassignDone) := nofun

theorem Encoding.budgetPeriod (s : StackId) : Encoding.Statement (.budgetPeriod s) := nofun

theorem Encoding.tcmdSuspend (p : PartId) (addr : BitVec 48) : Encoding.Statement (.tcmdSuspend p addr) := nofun

theorem Encoding.tcmdKill (p : PartId) (addr : BitVec 48) : Encoding.Statement (.tcmdKill p addr) := nofun

theorem Encoding.tcmdRelease (p : PartId) (addr : BitVec 48) : Encoding.Statement (.tcmdRelease p addr) := nofun

theorem Encoding.dispatchTick (temps : List (BitVec 8)) : Encoding.Statement (.dispatchTick temps) := nofun

theorem Encoding.quantumExpiry (task : BitVec 16) : Encoding.Statement (.quantumExpiry task) := nofun

theorem Encoding.starvationPromotion (task : BitVec 16) : Encoding.Statement (.starvationPromotion task) := nofun

theorem Encoding.dthermWrite (v : BitVec 64) : Encoding.Statement (.dthermWrite v) := nofun

theorem Encoding.preempt (task : BitVec 16) : Encoding.Statement (.preempt task) := nofun

theorem Encoding.preemptSequencerHalt (c : ColId) : Encoding.Statement (.preemptSequencerHalt c) := nofun

theorem Encoding.preemptDrained (c : ColId) : Encoding.Statement (.preemptDrained c) := nofun

theorem Encoding.checkpointSaved (c : ColId) : Encoding.Statement (.checkpointSaved c) := nofun

theorem Encoding.taskRestore (task : BitVec 16) (reply : MapperReply) : Encoding.Statement (.taskRestore task reply) := nofun

theorem Encoding.tlbInvalidate (a : BitVec 64) (n : BitVec 64) : Encoding.Statement (.tlbInvalidate a n) := nofun

theorem Encoding.tlbInvalidateDone : Encoding.Statement (.tlbInvalidateDone) := nofun

theorem Encoding.pfresRetry (p : PartId) (v : BitVec 64) : Encoding.Statement (.pfresRetry p v) := nofun

theorem Encoding.freeFrameTailWrite (p : PartId) (v : BitVec 64) : Encoding.Statement (.freeFrameTailWrite p v) := nofun

theorem Encoding.migrationKick (pa : Nat) : Encoding.Statement (.migrationKick pa) := nofun

theorem Encoding.migrationPageDone : Encoding.Statement (.migrationPageDone) := nofun

theorem Encoding.migrationComplete : Encoding.Statement (.migrationComplete) := nofun

theorem Encoding.flashPageoutKick (pa : Nat) : Encoding.Statement (.flashPageoutKick pa) := nofun

theorem Encoding.flashGroupWritten (ok : Bool) : Encoding.Statement (.flashGroupWritten ok) := nofun

theorem Encoding.pageInDone (i : Nat) (ok : Bool) (data : List Byte) : Encoding.Statement (.pageInDone i ok data) := nofun

theorem Encoding.faultQuiescent (task : BitVec 16) : Encoding.Statement (.faultQuiescent task) := nofun

theorem Encoding.flitHeaderDrop (f : FlitRef) : Encoding.Statement (.flitHeaderDrop f) := nofun

theorem Encoding.vbusRetire (c : ColId) (layer : Fin 4) : Encoding.Statement (.vbusRetire c layer) := nofun

theorem Encoding.vbusErrorWindow (s : StackId) : Encoding.Statement (.vbusErrorWindow s) := nofun

theorem Encoding.vretWrite (c : ColId) (v : BitVec 64) : Encoding.Statement (.vretWrite c v) := nofun

theorem Encoding.linkOutOfService (k : LinkRef) (tasks : List (BitVec 16)) : Encoding.Statement (.linkOutOfService k tasks) := nofun

theorem Encoding.pcieEndpointLinkDown : Encoding.Statement (.pcieEndpointLinkDown) := nofun

theorem Encoding.keanoMemoryError (core : Fin 16) (pa : Nat) (cache : Bool) : Encoding.Statement (.keanoMemoryError core pa cache) := nofun

theorem Encoding.dbgStop (c : ColId) : Encoding.Statement (.dbgStop c) := nofun

theorem Encoding.dbgResume (c : ColId) : Encoding.Statement (.dbgResume c) := nofun

theorem Encoding.dbgStepInstruction (c : ColId) : Encoding.Statement (.dbgStepInstruction c) := nofun

theorem Encoding.dbgStepFiring (c : ColId) (e : ElemId) (x : CtxId) : Encoding.Statement (.dbgStepFiring c e x) := nofun

theorem Encoding.dbgSquall (c : ColId) : Encoding.Statement (.dbgSquall c) := nofun

theorem Encoding.dbgRead (c : ColId) : Encoding.Statement (.dbgRead c) := nofun

theorem Encoding.dbgWrite (c : ColId) : Encoding.Statement (.dbgWrite c) := nofun

theorem Encoding.debugAccessDone (c : ColId) : Encoding.Statement (.debugAccessDone c) := nofun

theorem Encoding.bptWrite (c : ColId) (u : Fin 4) (v : BitVec 64) : Encoding.Statement (.bptWrite c u v) := nofun

theorem Encoding.squallArrive (c : ColId) : Encoding.Statement (.squallArrive c) := nofun

theorem Encoding.squallComplete (task : BitVec 16) : Encoding.Statement (.squallComplete task) := nofun

theorem Encoding.squallTimeout (task : BitVec 16) : Encoding.Statement (.squallTimeout task) := nofun

theorem Encoding.traceRecordWrite (s : StackId) : Encoding.Statement (.traceRecordWrite s) := nofun

theorem Encoding.statRingAppend (i : Nat) : Encoding.Statement (.statRingAppend i) := nofun

theorem Encoding.kclkWrite (n : Fin 16) (v : BitVec 64) : Encoding.Statement (.kclkWrite n v) := nofun

theorem Encoding.ktraceWrite (n : Fin 16) (v : BitVec 64) : Encoding.Statement (.ktraceWrite n v) := nofun

theorem Encoding.columnClockGate (c : ColId) : Encoding.Statement (.columnClockGate c) := nofun

theorem Encoding.gddr7SelfRefresh (ch : Fin 16) : Encoding.Statement (.gddr7SelfRefresh ch) := nofun

theorem Encoding.shpwrWrite (c : ColId) (v : BitVec 64) : Encoding.Statement (.shpwrWrite c v) := nofun

theorem Encoding.droopStretch (c : ColId) : Encoding.Statement (.droopStretch c) := nofun

theorem Encoding.thermtrip : Encoding.Statement (.thermtrip) := nofun

theorem Encoding.pwrCalm : Encoding.Statement (.pwrCalm) := nofun

theorem Encoding.pwrDoldrums : Encoding.Statement (.pwrDoldrums) := nofun

theorem Encoding.pwrEntryDone : Encoding.Statement (.pwrEntryDone) := nofun

theorem Encoding.wakePin : Encoding.Statement (.wakePin) := nofun

theorem Encoding.wakeTimer : Encoding.Statement (.wakeTimer) := nofun

theorem Encoding.wakeEndpoint : Encoding.Statement (.wakeEndpoint) := nofun

theorem Encoding.wakeRootPort : Encoding.Statement (.wakeRootPort) := nofun

theorem Encoding.powerOn (o : PowerOn) : Encoding.Statement (.powerOn o) := nofun

theorem Encoding.attestRequest (v : BitVec 64) : Encoding.Statement (.attestRequest v) := nofun

theorem Encoding.attestDone : Encoding.Statement (.attestDone) := nofun

theorem Encoding.registerWrite (addr : Nat) (v : BitVec 64) : Encoding.Statement (.registerWrite addr v) := nofun

theorem Encoding.accessPerforms (a : AccessRef) : Encoding.Statement (.accessPerforms a) := nofun

theorem Encoding.keanoDeviceAccess (a : KeanoAccess) : Encoding.Statement (.keanoDeviceAccess a) := nofun

theorem Encoding.pcieInboundAccess (a : PcieAccess) : Encoding.Statement (.pcieInboundAccess a) := nofun

theorem Encoding.linkRetrain (k : LinkRef) (recovered : Bool) : Encoding.Statement (.linkRetrain k recovered) := nofun

theorem Encoding.shelfWakeDone (c : ColId) (h : Fin 16) : Encoding.Statement (.shelfWakeDone c h) := nofun

theorem Encoding.droopEnd (c : ColId) : Encoding.Statement (.droopEnd c) := nofun

end Sys2Proof.Laws
end

