-- ==== Sys2Proof/Laws/Progress.lean ====
section
/-! SUPPORT. What the passing of time can do, said once: a property that each part of a cycle keeps is kept by any number of cycles. -/

namespace Sys2Proof.Machine

/-- What `f` keeps, its repetition keeps. -/
theorem iter_keeps {α : Type} (P : α → Prop) (f : α → α) (hf : ∀ x, P x → P (f x)) : ∀ (n : Nat) (x : α), P x → P (iter f n x)
  | 0, _, h => h
  | n + 1, x, h => iter_keeps P f hf n (f x) (hf x h)

/-- A step that answers a next state is taken. -/
theorem State.did_next (s t : State) (f : State → Out) (h : f s = .next t) : s.did f = t := by simp [State.did, h]

/-- What every next state of a step keeps is kept where the step is tried. -/
theorem State.did_keeps (P : State → Prop) (f : State → Out) (hf : ∀ s t, f s = .next t → P s → P t) (s : State) (h : P s) :
    P (s.did f) := by
  unfold State.did
  split
  · next t e => exact hf s t e h
  · exact h

/-- The same of a step tried at every index of a list. -/
theorem State.sweep_keeps (P : State → Prop) (f : Nat → State → Out) (len : State → Nat)
    (hf : ∀ j s t, f j s = .next t → P s → P t) : ∀ (k j : Nat) (s : State), P s → P (s.sweep f len k j)
  | 0, _, _, h => h
  | k + 1, _, s, h => State.sweep_keeps P f len hf k _ _ (State.did_keeps P (f _) (hf _) s h)

/-- What a cycle keeps, and the mere passing of cycles, any number of cycles keeps. -/
theorem State.pass_keeps (P : State → Prop) (hc : ∀ s, P s → P s.cycle) (hs : ∀ s n, P s → P (s.elapse n).periods.skipTicks)
    (s : State) (n : Nat) (h : P s) : P (s.pass n) := by
  unfold State.pass
  split
  · exact hs s n h
  · exact iter_keeps P State.cycle hc n s h

end Sys2Proof.Machine
end

