-- ==== Sys2Proof/Tests/Slice0.lean ====
section
/-! SUPPORT. Tests: ill-formed instructions are refused; words written out from the encoding tables decode to their instructions; single steps on small states. -/

namespace Sys2Proof.Tests

open Sys2Proof Sys2Proof.Machine

set_option Elab.async false

/-! Ill-formed instructions (R179, R180, R207, R232, R236, R239, R242 to R249, R253, R257, R260). -/

theorem test_sonde_k : [0#5, 1, 3, 4, 20, 21, 31].map (fun k => Instr.wellFormed (.sonde 1 2 k)) = [true, false, false, true, true, false, false] := by decide
theorem test_bitfield_past_63 : [Instr.extr 1 2 33 32, .extru 1 2 1 0, .ins 1 2 63 2].map Instr.wellFormed = [false, false, false] := by decide
theorem test_fence_scope : [4#5, 5, 31].map (fun k => Instr.wellFormed (.fence k)) = [true, false, false] := by decide
theorem test_message_class_and_sub : [Instr.send 1 2 0 0 20, .send 1 2 7 0 0, .reply 1 2 0 0 31, .reply 1 2 7 0 0, .bcast 1 2 0 0 20, .bcast 1 2 7 0 0,
  .sendi 1 2 20, .sendi 1 30 0, .raise 1 30 0, .raise 1 2 20, .armh 1 2 0 0 0 20].all (fun i => !i.wellFormed) = true := by decide
theorem test_completion_class : [12#5, 13, 30, 31].map (fun k => (Instr.wellFormed (.cfgl 1 2 k), Instr.wellFormed (.cgrun 1 2 k))) =
  [(true, true), (false, false), (false, false), (true, true)] := by decide
theorem test_cfgw_step : [Instr.cfgw 1 2 0 6, .cfgw 1 2 0 7].map Instr.wellFormed = [true, false] := by decide
theorem test_mode_format : (countFrom 0 16).map (fun k => Instr.wellFormed (.mode 1 2 (BitVec.ofNat 4 k))) =
  [true, true, true, false, false, false, true, true, true, true, true, true, false, false, false, false] := by decide
theorem test_injection_of_none : [Instr.inj 1 2 0, .injm 1 2 0, .prime 1 2 0].map Instr.wellFormed = [false, false, false] := by decide
theorem test_fgsw_sub : [Instr.fgsw 1 0 7 1, .fgsw 1 0 8 0, .fgsw 1 1 0 1].map Instr.wellFormed = [true, false, false] := by decide
theorem test_fgqy_sel : [Instr.fgqy 1 0 9, .fgqy 1 0 10, .fgqy 1 1 0, .fgqy 1 1 6, .fgqy 1 1 7].map Instr.wellFormed = [true, false, false, true, false] := by decide
theorem test_dqry_clear : [Instr.dqry 1 0 7, .dqry 1 1 7, .dqry 1 1 6].map Instr.wellFormed = [true, false, true] := by decide
theorem test_xfer_any : [Instr.xfer 1 2 0 7, .xfer 1 2 1 0, .xfer 1 2 1 1].map Instr.wellFormed = [true, true, false] := by decide

/-- Words that R180 makes illegal, with the reason: an unassigned selector, a `res0` field, a limit. -/
theorem test_illegal_words :
    [0x34000000#32, 0x04000027#32, 0x0400001B#32, 0x00080800#32, 0x2C010000#32, 0x60000002#32, 0x8400E000#32, 0x9C002800#32, 0x08000013#32].map decode =
    [.error .unassigned, .error .reserved, .error .unassigned, .error .reserved, .error .reserved, .error .reserved, .error .unassigned, .error .limit,
     .error .unassigned] := by decide

/-! Decoding. -/

/-- Each word of the list decodes to the instruction beside it. -/
def spells (l : List (Nat × Instr)) : Bool := l.all fun p => decodeTableWord 32 p.1 == some p.2

theorem test_decode_system : spells
  [(0x02AB025A, .ill 21 11 602), (0x00000800, .nop), (0x0000125A, .brk 602), (0x00001A5A, .trap 602), (0x00002000, .eret), (0x00002800, .halt),
   (0x02AB325A, .trace 21 11 602), (0x02AB3805, .sonde 21 11 5)] = true := by decide
theorem test_decode_integer : spells
  [(0x06AB3400, .add 21 11 6 1), (0x06AB3401, .sub 21 11 6 1), (0x06AB3402, .and_ 21 11 6 1), (0x06AB3403, .or_ 21 11 6 1), (0x06AB3404, .xor 21 11 6 1),
   (0x06AB3405, .andn 21 11 6 1), (0x06AB3406, .shl 21 11 6 1), (0x06AB3407, .shr 21 11 6 1), (0x06AB3408, .sra 21 11 6 1), (0x06AB3409, .rol 21 11 6 1),
   (0x06AB340A, .slt 21 11 6 1), (0x06AB340B, .sltu 21 11 6 1), (0x06AB340C, .min 21 11 6 1), (0x06AB340D, .max 21 11 6 1), (0x06AB340E, .minu 21 11 6 1),
   (0x06AB340F, .maxu 21 11 6 1), (0x06AB3410, .mul 21 11 6 1), (0x06AB3411, .mulh 21 11 6 1), (0x06AB3412, .mulhu 21 11 6 1), (0x06AB3413, .div 21 11 6 1),
   (0x06AB3414, .divu 21 11 6 1), (0x06AB3415, .rem 21 11 6 1), (0x06AB3416, .remu 21 11 6 1), (0x06AB0417, .clz 21 11 1), (0x06AB0418, .ctz 21 11 1),
   (0x06AB0419, .popc 21 11 1), (0x06AB341A, .sel 21 11 6 1)] = true := by decide
theorem test_decode_bit_field : spells
  [(0x0AAB94B0, .extr 21 11 37 11), (0x0AAB94B1, .extru 21 11 37 11), (0x0AAB94B2, .ins 21 11 37 11)] = true := by decide
theorem test_decode_float : spells
  [(0x0EAB3000, .fadd 21 11 6), (0x0EAB3001, .fsub 21 11 6), (0x0EAB3002, .fmul 21 11 6), (0x0EAB3003, .ffma 21 11 6), (0x0EAB3004, .fdiv 21 11 6),
   (0x0EAB3005, .fmin 21 11 6), (0x0EAB3006, .fmax 21 11 6), (0x0EAB0007, .fabs 21 11), (0x0EAB0008, .fneg 21 11), (0x0EAB3009, .feq 21 11 6),
   (0x0EAB300A, .flt 21 11 6), (0x0EAB300B, .fle 21 11 6), (0x0EAB000C, .ftoi 21 11), (0x0EAB000D, .itof 21 11)] = true := by decide
theorem test_decode_immediate : spells
  [(0x12AB5A5A, .addi 21 11 23130), (0x16AB5A5A, .andi 21 11 23130), (0x1AAB5A5A, .ori 21 11 23130), (0x1EAB5A5A, .xori 21 11 23130),
   (0x22AB5A5A, .slti 21 11 23130), (0x26AB5A5A, .sltui 21 11 23130)] = true := by decide
theorem test_decode_shift_immediate : spells
  [(0x2AAB002D, .shli 21 11 45), (0x2AAB402D, .shri 21 11 45), (0x2AAB802D, .srai 21 11 45)] = true := by decide
theorem test_decode_lui : spells
  [(0x2EA05A5A, .lui 21 23130)] = true := by decide
theorem test_decode_addpc : spells
  [(0x32A05A5A, .addpc 21 23130)] = true := by decide
theorem test_decode_branch : spells
  [(0x416602A5, .beq 11 6 677), (0x456602A5, .bne 11 6 677), (0x496602A5, .blt 11 6 677), (0x4D6602A5, .bge 11 6 677), (0x516602A5, .bltu 11 6 677),
   (0x556602A5, .bgeu 11 6 677), (0x580002A5, .jmp 677), (0x5C0002A5, .call 677)] = true := by decide
theorem test_decode_jump : spells
  [(0x600B0000, .jmpr 11), (0x600B0001, .callr 11)] = true := by decide
theorem test_decode_load : spells
  [(0x82AB02A5, .ldbu 21 11 677), (0x82AB22A5, .ldb 21 11 677), (0x82AB42A5, .ldhu 21 11 677), (0x82AB62A5, .ldh 21 11 677), (0x82AB82A5, .ldwu 21 11 677),
   (0x82ABA2A5, .ldw 21 11 677), (0x82ABC2A5, .ldd 21 11 677)] = true := by decide
theorem test_decode_store : spells
  [(0x86AB02A5, .stb 21 11 677), (0x86AB42A5, .sth 21 11 677), (0x86AB82A5, .stw 21 11 677), (0x86ABC2A5, .std 21 11 677)] = true := by decide
theorem test_decode_acquire : spells
  [(0x96AB82A5, .ldacqWu 21 11 677), (0x96ABA2A5, .ldacqW 21 11 677), (0x96ABC2A5, .ldacqD 21 11 677)] = true := by decide
theorem test_decode_release : spells
  [(0x9AAB82A5, .strelW 21 11 677), (0x9AABC2A5, .strelD 21 11 677)] = true := by decide
theorem test_decode_single_assignment : spells
  [(0x8AAB0000, .tstsa 21 11), (0x8AAB0800, .stsa 21 11), (0x880B102D, .clrsa 11 45), (0x8AAB1801, .watch 21 11 1)] = true := by decide
theorem test_decode_atomic : spells
  [(0x8EAB3070, .aadd 21 11 6 1 3), (0x8EAB3071, .aswp 21 11 6 1 3), (0x8EAB3072, .acas 21 11 6 1 3), (0x8EAB3073, .aand 21 11 6 1 3),
   (0x8EAB3074, .aor 21 11 6 1 3), (0x8EAB3075, .axor 21 11 6 1 3), (0x8EAB3076, .amax 21 11 6 1 3), (0x8EAB3077, .amin 21 11 6 1 3),
   (0x8EAB3078, .amaxu 21 11 6 1 3), (0x8EAB3079, .aminu 21 11 6 1 3)] = true := by decide
theorem test_decode_vertical : spells
  [(0x92AB0000, .vldd 21 11), (0x92AB0800, .vstd 21 11), (0x92AB1001, .vcpy 21 11 1)] = true := by decide
theorem test_decode_fence : spells
  [(0x9C001800, .fence 3)] = true := by decide
theorem test_decode_control_register : spells
  [(0xE2A0002D, .crd 21 45), (0xE2AB082D, .cwr 21 11 45), (0xE2AB102D, .cset 21 11 45), (0xE2AB182D, .cclr 21 11 45)] = true := by decide
theorem test_decode_message : spells
  [(0xA2AB0165, .send 21 11 1 3 5), (0xA2AB0805, .sendi 21 11 5), (0xA2AB1165, .reply 21 11 1 3 5), (0xA2AB1814, .post 21 11 20),
   (0xA2AB2165, .bcast 21 11 1 3 5)] = true := by decide
theorem test_decode_handler : spells
  [(0xA4000001, .end_ 1), (0xA6AB0CA5, .armh 21 11 1 0 5 5), (0xA6AB1000, .maskh 21 11), (0xA6AB1800, .unmaskh 21 11), (0xA6AB2005, .raise 21 11 5)] = true := by decide
theorem test_decode_configuration : spells
  [(0xC2AB001F, .cfgl 21 11 31), (0xC2AB0802, .cfge 21 11 2), (0xC2AB100B, .cfgw 21 11 1 3), (0xC2A01803, .ctxi 21 3), (0xC2AB2001, .mode 21 11 1),
   (0xC2AB282D, .wpre 21 11 45)] = true := by decide
theorem test_decode_stream_and_injection : spells
  [(0xC6AB0025, .strm 21 11 1 5), (0xC6A00825, .stop 21 1 5), (0xC6AB100D, .inj 21 11 13), (0xC6AB180D, .injm 21 11 13), (0xC6AB2005, .prime 21 11 5),
   (0xC6A02802, .barr 21 1 0), (0xC6AB3025, .armc 21 11 1 5)] = true := by decide
theorem test_decode_frost : spells
  [(0xCAAB0000, .fgld 21 11), (0xCAA00807, .fgsw 21 0 3 1), (0xCAA01013, .fgqy 21 1 3), (0xCAAB1800, .fgclr 21 11), (0xCAAB2000, .femit 21 11)] = true := by decide
theorem test_decode_drift : spells
  [(0xCEAB0000, .dband 21 11), (0xCEAB0800, .dstage 21 11), (0xCEA01000, .dsave 21), (0xCEA01800, .drest 21), (0xCEA02000, .dscrl 21 0),
   (0xCEA0280B, .dqry 21 1 3)] = true := by decide
theorem test_decode_engine : spells
  [(0xD2AB0008, .xfer 21 11 1 0), (0xD2AB0805, .xqry 21 11 5), (0xD2AB1000, .swap 21 11), (0xD2AB1800, .bmov 21 11)] = true := by decide
theorem test_decode_graph : spells
  [(0xD6AB001F, .cgrun 21 11 31), (0xD6AB0800, .cgdec 21 11)] = true := by decide

/-! Small states. -/

/-- Reset with bring-up ended, so that the hub's registers are open. -/
def up : State := State.reset.modHub fun h => { h with bstep := 9 }
/-- `up` with values in general registers of column 0, whose turn it is. -/
def regs (l : List (BitVec 5 × DWord)) (s : State := up) : State := l.foldl (fun s p => s.setReg s.focus p.1 p.2) s
/-- With a change at the sequencer of column 0. -/
def cpu0 (f : Cpu → Cpu) (s : State := up) : State := s.modCpu (.col 0) f
/-- With a change at column 0. -/
def col0 (f : Column → Column) (s : State := up) : State := s.modCol 0 f
/-- With a change in the hub. -/
def hub0 (f : Hub → Hub) (s : State := up) : State := s.modHub f
/-- The instruction goes on, to a state that passes the check. -/
def runs (i : Instr) (s : State) (p : State → Bool) : Bool := match exec i s with | .next t => p t | _ => false
/-- The instruction goes on to the next word with this in register 1. -/
def gives (i : Instr) (s : State) (v : DWord) : Bool := runs i s fun t => t.reg (.col 0) 1 == v && t.pc (.col 0) == s.pc (.col 0) + 4
/-- Of two registers' values, what a form with d = 1, a = 2, b = 3 gives. -/
def binary (i : Instr) (x y v : DWord) : Bool := gives i (regs [(2, x), (3, y)]) v

/-! Single steps, with results computed by hand from R208 to R214. -/

theorem test_add_wraps : binary (.add 1 2 3 0) (-1) 2 1 ∧ binary (.add 1 2 3 1) 0x7FFFFFFF 1 0xFFFFFFFF80000000 := by decide
theorem test_sub_borrows : binary (.sub 1 2 3 0) 0 1 (-1) ∧ binary (.sub 1 2 3 1) 0x80000000 1 0x7FFFFFFF := by decide
theorem test_logic : binary (.and_ 1 2 3 0) 0xC 0xA 8 ∧ binary (.or_ 1 2 3 0) 0xC 0xA 0xE ∧ binary (.xor 1 2 3 0) 0xC 0xA 6 ∧ binary (.andn 1 2 3 0) 0xC 0xA 4 := by decide
theorem test_shifts_take_the_amount_modulo_the_width : binary (.shl 1 2 3 0) 1 65 2 ∧ binary (.shl 1 2 3 1) 1 63 0xFFFFFFFF80000000 ∧ binary (.shr 1 2 3 0) (-1) 60 0xF ∧
    binary (.shr 1 2 3 1) (-1) 4 0xFFFFFFF ∧ binary (.sra 1 2 3 0) 0x8000000000000000 63 (-1) ∧ binary (.sra 1 2 3 1) 0x80000000 31 (-1) ∧
    binary (.rol 1 2 3 0) 0x8000000000000001 1 3 ∧ binary (.rol 1 2 3 1) 0x80000001 1 3 ∧ binary (.rol 1 2 3 0) 5 64 5 := by decide
theorem test_compare : binary (.slt 1 2 3 0) (-1) 0 1 ∧ binary (.sltu 1 2 3 0) (-1) 0 0 ∧ binary (.slt 1 2 3 1) 0x80000000 0 1 ∧ binary (.sltu 1 2 3 1) 0x1_00000000 1 1 := by decide
theorem test_min_max : binary (.min 1 2 3 0) (-1) 1 (-1) ∧ binary (.max 1 2 3 0) (-1) 1 1 ∧ binary (.minu 1 2 3 0) (-1) 1 1 ∧ binary (.maxu 1 2 3 0) (-1) 1 (-1) := by decide
theorem test_products : binary (.mul 1 2 3 0) (-3) 5 (-15) ∧ binary (.mulh 1 2 3 0) (-1) (-1) 0 ∧ binary (.mulhu 1 2 3 0) (-1) (-1) (-2) ∧
    binary (.mul 1 2 3 1) 0x10000 0x10000 0 ∧ binary (.mulh 1 2 3 1) 0x80000000 2 (-1) ∧ binary (.mulhu 1 2 3 1) 0x80000000 2 1 := by decide
theorem test_division : binary (.div 1 2 3 0) (-7) 2 (-3) ∧ binary (.rem 1 2 3 0) (-7) 2 (-1) ∧ binary (.div 1 2 3 0) 7 0 (-1) ∧ binary (.rem 1 2 3 0) 7 0 7 ∧
    binary (.div 1 2 3 0) 0x8000000000000000 (-1) 0x8000000000000000 ∧ binary (.rem 1 2 3 0) 0x8000000000000000 (-1) 0 := by decide
theorem test_unsigned_division : binary (.divu 1 2 3 0) (-1) 2 0x7FFFFFFFFFFFFFFF ∧ binary (.remu 1 2 3 0) (-1) 2 1 ∧ binary (.divu 1 2 3 1) 0x80000000 1 0xFFFFFFFF80000000 ∧
    binary (.remu 1 2 3 1) 9 0 9 := by decide
theorem test_counts : binary (.clz 1 2 0) 1 0 63 ∧ binary (.clz 1 2 1) 0 0 32 ∧ binary (.ctz 1 2 0) 8 0 3 ∧ binary (.ctz 1 2 0) 0 0 64 ∧ binary (.popc 1 2 1) (-1) 0 32 := by decide
theorem test_sel : gives (.sel 1 2 3 0) (regs [(1, 9), (2, 5), (3, 6)]) 5 ∧ gives (.sel 1 2 3 0) (regs [(1, 0), (2, 5), (3, 6)]) 6 := by decide
theorem test_bitfields : gives (.extr 1 2 4 8) (regs [(2, 0xF80)]) 0xFFFFFFFFFFFFFFF8 ∧ gives (.extru 1 2 4 8) (regs [(2, 0xF80)]) 0xF8 ∧ gives (.extru 1 2 0 0) (regs [(2, 0xF80)]) 0xF80 ∧
    gives (.ins 1 2 8 4) (regs [(1, 0xFFFF), (2, 0x35)]) 0xF5FF := by decide
theorem test_f32 : binary (.fadd 1 2 3) 0x3F800000 0x3F800000 0x40000000 ∧ binary (.fsub 1 2 3) 0x40400000 0x3F800000 0x40000000 ∧ binary (.fmul 1 2 3) 0x40000000 0x40400000 0x40C00000 ∧
    binary (.fdiv 1 2 3) 0x3F800000 0x40000000 0x3F000000 := by decide
theorem test_ffma : gives (.ffma 1 2 3) (regs [(1, 0x3F800000), (2, 0x40000000), (3, 0x40400000)]) 0x40E00000 := by decide
theorem test_f32_order : binary (.fmin 1 2 3) 0xBF800000 0x3F800000 0xBF800000 ∧ binary (.fmax 1 2 3) 0xBF800000 0x3F800000 0x3F800000 ∧ binary (.feq 1 2 3) 0x80000000 0 1 ∧
    binary (.flt 1 2 3) 0xBF800000 0 1 ∧ binary (.fle 1 2 3) 0x7FC00000 0x7FC00000 0 := by decide
theorem test_f32_sign : binary (.fabs 1 2) 0xFF_BF800000 0 0x3F800000 ∧ binary (.fneg 1 2) 0x3F800000 0 0xBF800000 := by decide
theorem test_f32_integers : binary (.ftoi 1 2) 0xC0200000 0 (-2) ∧ binary (.itof 1 2) (-2) 0 0xC0000000 ∧ binary (.itof 1 2) 0x1000001 0 0x4B800000 := by decide
theorem test_immediates : binary (.addi 1 2 0xFFFF) 5 0 4 ∧ binary (.andi 1 2 0x8000) (-1) 0 0xFFFFFFFFFFFF8000 ∧ binary (.ori 1 2 0xFFFF) 0 0 (-1) ∧ binary (.xori 1 2 1) 3 0 2 ∧
    binary (.slti 1 2 0xFFFF) (-2) 0 1 ∧ binary (.sltui 1 2 0xFFFF) (-2) 0 1 := by decide
theorem test_shift_immediates : binary (.shli 1 2 63) 3 0 0x8000000000000000 ∧ binary (.shri 1 2 63) (-1) 0 1 ∧ binary (.srai 1 2 63) 0x8000000000000000 0 (-1) ∧
    binary (.lui 1 0x8000) 0 0 0xFFFFFFFF80000000 ∧ gives (.addpc 1 0xFFFF) (cpu0 fun u => { u with pc := 0x100 }) 0xFC := by decide
theorem test_g0_stays_zero : runs (.addi 0 0 5) up (fun t => t.reg (.col 0) 0 == 0 && t.pc (.col 0) == 4) := by decide
theorem test_branches : [Instr.beq 2 3 3, .bne 2 3 3, .blt 2 3 3, .bge 2 3 3, .bltu 2 3 3, .bgeu 2 3 3].map (fun i => runs i (regs [(2, -1), (3, 1)]) fun t => t.pc (.col 0) == 12) =
    [false, true, true, false, false, true] := by decide
theorem test_jumps : runs (.jmp 0x3FFFFFF) (cpu0 fun u => { u with pc := 0x100 }) (fun t => t.pc (.col 0) == 0xFC) ∧
    runs (.call 4) (cpu0 fun u => { u with pc := 0x100 }) (fun t => t.pc (.col 0) == 0x110 && t.reg (.col 0) 31 == 0x104) ∧
    runs (.callr 31) (regs [(31, 0x40)]) (fun t => t.pc (.col 0) == 0x40 && t.reg (.col 0) 31 == 4) ∧
    runs (.jmpr 2) (regs [(2, 6)]) (fun t => (t.cpu (.col 0)).ecause == 3) := by decide

end Sys2Proof.Tests
end

