-- ==== Sys2Proof/Tests/Witness1.lean ====
section
/-! SUPPORT. Witnesses: for each clause of a statement, a state and operands that meet its hypotheses. Where a hypothesis speaks of what a function answers, the theorem evaluates the function. This file: decoding, scalar and memory forms. -/

namespace Sys2Proof.Tests

open Sys2Proof Sys2Proof.Machine

set_option Elab.async false

/-- The answer exists and passes the check. -/
def okAnd {ε α : Type} (x : Except ε α) (p : α → Bool) : Bool := match x with | .ok v => p v | .error _ => false
/-- All of these hold. -/
def all (l : List Bool) : Bool := l.all id
/-- Every memory of the part is in canonical form, as a check. -/
def wfAll (s : State) : Bool :=
  (s.cols.toList.all fun x => Memory.wf x.cpu.near && Memory.wf x.vert) && (s.harts.toList.all fun h => Memory.wf h.cpu.near) && Memory.wf s.hub.dev && Memory.wf s.hub.fw

theorem memWf_of_wfAll (s : State) (h : wfAll s = true) : s.memWf := by
  simp only [wfAll, Bool.and_eq_true, List.all_eq_true] at h
  obtain ⟨⟨⟨hc, hh⟩, hd⟩, hf⟩ := h
  refine ⟨fun c => hc _ ?_, fun k => hh _ ?_, hd, hf⟩
  · exact Vector.mem_toList_iff.mpr (Vector.getElem_mem c.isLt)
  · exact Vector.mem_toList_iff.mpr (Vector.getElem_mem k.isLt)

theorem witness_DecodeOfEncodeIsTheInstruction :
    [Instr.add 31 31 31 1, .extr 0 31 63 1, .ldd 31 0 0x1FFF, .fgsw 31 0 7 1, .dqry 1 1 6, .xfer 1 2 1 0].all (fun i => i.wellFormed && (encode i).isSome) = true := by decide
theorem witness_DecodedWordsHaveOneSpelling : okAnd (decode 0x84C0DFFF#32) (fun _ => true) ∧ okAnd (decode 0x00000000#32) (fun _ => true) := by decide

/-- Column 0 free to issue at pc 0, with a word there. -/
def atWord (w : Nat) : State := State.reset.withFetchWord 32 w
/-- The sequencer in focus is running and free to issue, and nothing is scheduled. -/
def free (s : State) : Bool := all [s.agenda = [], s.hub.thermtrip = false, s.seqStopped s.focus = false, (s.cpu s.focus).ready ≤ s.now, (s.cpu s.focus).busy = true]
/-- The step goes on, to a state that passes the check. -/
def steps (s : State) (p : State → Bool) : Bool := match step s with | .next t => p t | _ => false

theorem witness_StepExecutesTheFetchedInstruction : (let s := atWord 0x10210005; all [free s,
    okAnd (s.fetch s.focus) (fun p => decode p.1 = .ok (.addi 1 1 5) && p.2.issues (.addi 1 1 5) && runs (.addi 1 1 5) p.2 fun t => t.pc s.focus == 4),
    steps s fun t => t.reg (.col 0) 1 == 5 && t.pc (.col 0) == 4]) = true := by decide +kernel
theorem witness_FetchedBytesAndIllegalWords : all [
    (let s := (atWord 0x10210005).setPc (.col 0) 0x17FFC
     all [s.pc (.col 0) = BitVec.ofNat 64 0x17FFC, (s.cpu (.col 0)).sup = false, (s.col 0).drift.on = false, (s.cpu (.col 0)).storeQ = [],
       s.access ⟨.near, 0, (s.col 0).nearPhys 0x17FFC⟩ = .open_, (s.col 0).errinj = 0, (s.cpu (.col 0)).near.isBad ((s.col 0).nearPhys 0x17FFC / 8) = false]),
    (let s := atWord 0x34000000
     all [free s, okAnd (s.fetch s.focus) (fun p => decode p.1 = .error .unassigned), steps s fun t => (t.cpu (.col 0)).epc == 0 && (t.cpu (.col 0)).ecause == 1]),
    bitsNat 0x0400001B#32 31 26 = 1, bitsNat 0x0400001B#32 4 0 = 27, bitsNat 0x0800F810#32 31 26 = 2, 64 < bitsNat 0x0800FC20#32 15 10 + bitsNat 0x0800FC20#32 9 4,
    bitsNat 0x0C00000E#32 31 26 = 3, bitsNat 0x0C00000E#32 3 0 = 14, bitsNat 0x2800C000#32 31 26 = 10, bitsNat 0x2800C000#32 15 14 = 3] = true := by decide +kernel
theorem witness_ScalarFormsChangeOnlyTheirRegister : scalarDest (.add 0 1 2 0) = some 0 ∧ scalarDest (.addpc 31 5) = some 31 ∧ (0 : BitVec 5) ≠ 31 := by decide
theorem witness_BitfieldFormsMoveTheField : ((63#6).toNat + 1 ≤ 64 ∧ 1 = (if (1#6) = 0 then 64 else (1#6).toNat)) ∧ ((0#6).toNat + 64 ≤ 64 ∧ 64 = (if (0#6) = 0 then 64 else (0#6).toNat)) ∧
    bitsNat 0x08000403#32 31 26 = 2 ∧ bitsNat 0x08000403#32 3 0 = 3 ∧ bitsNat 0x08000400#32 9 4 = 0 ∧ 64 < bitsNat 0x08000400#32 15 10 + 64 := by decide
theorem witness_ShiftLuiAndAddpcForms : bitsNat 0x2800C000#32 31 26 = 10 ∧ bitsNat 0x2800C000#32 15 14 = 3 ∧ bitsNat 0x28000040#32 31 26 = 10 ∧ bitsNat 0x28000040#32 13 6 = 1 := by decide
theorem witness_BranchesAndJumpsGoWhereTheySay : ((regs [(2, 0xFFFFFFFFFFFFFFFC)]).g 2).toNat % 4 = 0 ∧ ((regs [(2, 6)]).g 2).toNat % 4 ≠ 0 ∧ ((regs [(2, 3)]).g 2).toNat % 4 ≠ 0 := by decide +kernel
theorem witness_ScalarFloatingPointFormsRoundOnce : all [(regs [(2, 0x7FC00000)]).gf 2 = .nan, (regs [(2, 0x7F800000)]).gf 2 = .inf false, (regs [(2, 0xFF800000)]).gf 2 = .inf true,
    (match (regs [(2, 0xBF800000)]).gf 2, (regs [(2, 0xBF800000)]).gf 0 with | .num true m _, .num false 0 _ => m != 0 | _, _ => false),
    (match (regs [(2, 0x80000000)]).gf 2, (regs [(2, 0x80000000)]).gf 0 with | .num true 0 _, .num false 0 _ => true | _, _ => false)] = true := by decide +kernel
theorem witness_RoundingKeepsRepresentableValues : FFmt.f32.isSub 0x7F800000 = false ∧ FFmt.f32.val 0x7F800000 ≠ .nan ∧ FFmt.f32.isSub 0x00800000 = false ∧ FFmt.f32.val 0x00800000 ≠ .nan := by decide

/-- Column 0 in supervisor mode. -/
def sup0 : State := cpu0 fun u => { u with sup := true, epc := 0x40, psup := false }
/-- A band of one slot at column 0 for task 7, with DBG. -/
def band0 (s : State := up) : State := s.modCol 0 fun x => { x with band := some ⟨7, 0, 1, false, false, true⟩ }
/-- Every class of column 0 is armed. -/
def armed0 (s : State := up) : State := s.modCpu (.col 0) fun u => { u with hte := vfill 20 0x80000100#32 }
/-- Column 0 can take a message of a class now: what a statement asks of its sequencer. -/
def takes (s : State) (k : Nat) : Bool := all [(s.cpu (.col 0)).armed k = true, s.finished (.col 0) = false, (s.cpu (.col 0)).pendCount < 64, (s.cpu (.col 0)).selfq = []]

theorem test_system_forms : all [runs (.trap 5) up (fun t => (t.cpu (.col 0)).sup && (t.cpu (.col 0)).epc == 4 && (t.cpu (.col 0)).ecause == 25 + 5 * 256),
    runs .eret sup0 (fun t => t.pc (.col 0) == 0x40 && !(t.cpu (.col 0)).sup), runs .halt sup0 (fun t => (t.cpu (.col 0)).halt && t.pc (.col 0) == 4),
    runs .nop up (fun t => t.pc (.col 0) == 4), runs .eret up (fun t => (t.cpu (.col 0)).ecause == 2)] = true := by decide +kernel
theorem witness_SystemFormsActInTheirMode : all [(up.cpu up.focus).sup = false, (sup0.cpu sup0.focus).sup = true, (sup0.cpu sup0.focus).supIdle = false, up.focus = .col 0,
    (let s := col0 (fun x => { x with dbg := { x.dbg with brken := true } }) (armed0 (band0))
     all [(s.col 0).band = some ⟨7, 0, 1, false, false, true⟩, (s.col 0).dbg.brken = true, takes s 18,
       runs (.brk 9) s fun t => (t.col 0).dbg.dhalt && (t.cpu (.col 0)).pend.any fun m => m.cls == 18 && m.g1 == 1 && m.g2 == 9]),
    bitsNat ((regs [(2, 0x200)]).g 2) 63 9 ≠ 0, bitsNat ((regs [(2, 0x1FF)]).g 2) 63 9 = 0] = true := by decide +kernel

end Sys2Proof.Tests
end

