-- ==== Sys2Proof/Tests/Witness2.lean ====
section
/-! SUPPORT. Witnesses: memory forms, control registers, handlers and messages of a sequencer. -/

namespace Sys2Proof.Tests

open Sys2Proof Sys2Proof.Machine

set_option Elab.async false

/-! Memory accesses of a sequencer. -/

/-- `State.nearOk` as a check. -/
def nearOkB (s : State) (n : Node) (a : DWord) (bytes : Nat) : Bool := all [a.toNat % bytes = 0, a.toNat < 0x18000, s.nearCause n a.toNat = none]
/-- `State.nearSound` as a check, for column 0. -/
def soundB (s : State) (l : Loc) : Bool := all [s.nodeAccess (.col 0) l = .open_, (s.cpu (.col 0)).near.isBad (l.addr / 8) = false, (s.col 0).errinj = 0]

theorem nearOk_of_check (s : State) (n : Node) (a : DWord) (b : Nat) (h : nearOkB s n a b = true) : s.nearOk n a b := by
  simpa [nearOkB, all, State.nearOk] using h
theorem nearSound_of_check (s : State) (l : Loc) (h : soundB s l = true) : s.nearSound (.col 0) l := by
  simp only [soundB, all, List.all_cons, List.all_nil, id, Bool.and_true, Bool.and_eq_true, decide_eq_true_eq] at h
  exact ⟨h.1, h.2.1, fun c hc => by cases hc; exact h.2.2⟩

/-- Where column 0's near store holds a local address. -/
def phys (a : DWord) : Nat := (up.nearAt (.col 0) a).addr
/-- Bank 15 of column 0 holds single-assignment blocks. -/
def saTop (s : State) : State := s.modCol 0 fun x => { x with nssa := 0x8000 }
/-- Device memory at the address in g2, at an engine hart, which reaches it physically. -/
def hartAt (s : State) : State := { s with focus := .hart 0, harts := vmod s.harts 0 fun h => { h with cpu := h.cpu.setReg 2 0x8000000000000000 } }

theorem test_store_and_load : all [
    runs (.std 1 2 8) (regs [(1, 0x1122334455667788), (2, 0x17FF0)]) (fun t => runs (.ldhu 3 2 12) t (fun t => t.reg (.col 0) 3 == 0x3344) && runs (.ldb 3 2 8) t (fun t => t.reg (.col 0) 3 == 0xFFFFFFFFFFFFFF88)),
    runs (.stb 1 2 0) (regs [(1, 0xAB), (2, 7)]) (fun t => runs (.ldd 3 0 0) t fun t => t.reg (.col 0) 3 == 0xAB00000000000000),
    runs (.sth 1 2 0) (regs [(1, 0xFFFF)]) (fun t => runs (.ldw 3 2 0) t fun t => t.reg (.col 0) 3 == 0xFFFF),
    runs (.stw 1 2 0) (regs [(1, 0x80000000)]) (fun t => runs (.ldw 3 2 0) t (fun t => t.reg (.col 0) 3 == 0xFFFFFFFF80000000) && runs (.ldwu 3 2 0) t (fun t => t.reg (.col 0) 3 == 0x80000000)),
    runs (.sth 1 2 0) (regs [(1, 0x8001)]) (fun t => runs (.ldh 3 2 0) t (fun t => t.reg (.col 0) 3 == 0xFFFFFFFFFFFF8001) && runs (.ldbu 3 2 1) t (fun t => t.reg (.col 0) 3 == 0x80)),
    runs (.ldd 3 2 0) (regs [(2, 0x17FFC)]) (fun t => (t.cpu (.col 0)).ecause == 3 && (t.cpu (.col 0)).ebad == 0x17FFC),
    runs (.ldd 3 2 0) (regs [(2, 0x18000)]) (fun t => (t.cpu (.col 0)).ecause == 4 && t.reg (.col 0) 3 == 0)] = true := by decide +kernel
theorem witness_LoadsGiveTheBytesOfTheirAddress : all [
    (let s := regs [(2, 0x17FFF)] (saTop (cpu0 fun u => { u with near := { u.near with sa := [(phys 0x17FFF / 8, .tainted)] } }))
     all [nearOkB s s.focus (memAddr 2 0 s) 1, soundB s (s.nearAt s.focus (memAddr 2 0 s)), s.nearSa s.focus (memAddr 2 0 s).toNat = true,
       (s.presence (s.nearAt s.focus (memAddr 2 0 s)).word).isSome = true, runs (.ldbu 1 2 0) s fun t => (t.cpu (.col 0)).taint]),
    (let s := hartAt up
     match s.placeAt s.focus (memAddr 2 0 s) 8 false with
     | (.ok (.dev l d _), f) => all [d ≠ .sa, l.space = .dev, l.addr % 8 = 0, sinkStack? l.addr = none, f.hub.dev.isBad (l.addr / 64) = false]
     | _ => false),
    (let s := regs [(2, 0x10)] (cpu0 fun u => { u with near := { u.near with bad := [phys 0x10 / 8] } })
     let l := s.nearAt (.col 0) (memAddr 2 0 s)
     all [nearOkB s s.focus (memAddr 2 0 s) 8, s.access l = .open_, s.nearSa (.col 0) (memAddr 2 0 s).toNat = false, (s.col 0).errinj = 0,
       (s.cpu (.col 0)).near.isBad (l.addr / 8) = true, (s.cpu (.col 0)).storeQ = [], runs (.ldd 1 2 0) s fun t => (t.cpu (.col 0)).taint && (t.col 0).euncor == 1]),
    (let x := { Column.reset with nsmap := 0xF0FF#16 }
     all [x.nearCause 0x17FFF = none, x.nearCause 0x8FFF = none, ({ x with drift := { x.drift with on := true } } : Column).nearCause 0x12000 = none])] = true := by decide +kernel

/-- Column 0 with 16 stores to different words in its queue. -/
def full0 : State := cpu0 fun u => { u with storeQ := (countFrom 0 16).map (fun k => ⟨k, ⟨.near, 0, phys (BitVec.ofNat 64 (8 * k))⟩, 0xFF, 1, 0⟩), serial := 16 }
theorem witness_StoresWriteTheBytesOfTheirAddress : all [
    (let s := regs [(1, 0xAB), (2, 0x17FF8)]
     let l := s.nearAt s.focus (memAddr 2 7 s)
     all [nearOkB s s.focus (memAddr 2 7 s) 1, s.nodeAccess s.focus l = .open_, s.nearSa s.focus (memAddr 2 7 s).toNat = false, (s.cpu s.focus).storeQ.length < 16]),
    (let s := hartAt up
     match s.placeAt s.focus (memAddr 2 0 s) 8 true with
     | (.ok (.dev l .pl _), f) => all [l.space = .dev, l.addr % 8 = 0, sinkStack? l.addr = none, (f.cpu s.focus).storeQ.length < 16]
     | _ => false),
    (let s := regs [(2, 0x800)] full0
     let l := s.nearAt s.focus (memAddr 2 0 s)
     all [nearOkB s s.focus (memAddr 2 0 s) 8, s.nodeAccess s.focus l = .open_, s.nearSa s.focus (memAddr 2 0 s).toNat = false, (s.cpu s.focus).storeQ.length = 16,
       (s.cpu s.focus).storeQ.tail.all fun x => x.serial != 0])] = true := by decide +kernel
/-- A 17th store waits at the instruction. -/
theorem witness_StepWaits :
    (let s := (full0.withFetchWord 32 ((encode (.std 1 2 0)).getD 0).toNat).modCpu (.col 0) fun u => { u with storeQ := (full0.cpu (.col 0)).storeQ.map fun o => { o with loc := { o.loc with addr := o.loc.addr + 0x2000 } } }
     all [free s, okAnd (s.fetch s.focus) (fun p => decode p.1 = .ok (.std 1 2 0) && !p.2.issues (.std 1 2 0) && (p.2.cpu p.2.focus).storeQ.length == 16),
       steps s fun t => t.pc (.col 0) == 0 && (t.cpu (.col 0)).storeQ.length == 16]) = true := by decide +kernel
theorem witness_MemoryFormsFaultByTheTable : all [
    (let s := regs [(2, 0x17FF9)]; all [(memAddr 2 0 s).toNat % 2 ≠ 0]),
    (let s := regs [(2, 0x18000)]; all [(memAddr 2 0 s).toNat % 8 = 0, bitsNat (memAddr 2 0 s) 63 60 = 0, 0x18000 ≤ (memAddr 2 0 s).toNat]),
    (let s := regs [(2, 0x1000000000000000)]; all [(memAddr 2 0 s).toNat % 8 = 0, bitsNat (memAddr 2 0 s) 63 60 = 1]),
    (let s := regs [(2, 0x2000000000000000)]; all [bitsNat (memAddr 2 0 s) 63 60 = 2, (s.cpu s.focus).sup = false]),
    (let s := regs [(2, 0x16800)] (saTop up)
     all [nearOkB s s.focus (memAddr 2 0 s) 8, s.nodeAccess s.focus (s.nearAt s.focus (memAddr 2 0 s)) = .open_, s.nearSa s.focus (memAddr 2 0 s).toNat = true,
       s.presence (s.nearAt s.focus (memAddr 2 0 s)).word = none, runs (.ldd 1 2 0) s (fun t => (t.cpu (.col 0)).ecause == 11), runs (.stw 1 2 0) s fun t => (t.cpu (.col 0)).ecause == 12]),
    (let s := regs [(2, 0x16800)] (saTop (cpu0 fun u => { u with near := { u.near with sa := [(phys 0x16800 / 8, .full)] } }))
     all [(s.presence (s.nearAt s.focus (memAddr 2 0 s)).word).isSome = true, runs (.std 1 2 0) s fun t => (t.cpu (.col 0)).ecause == 13]),
    (let s := regs [(2, 4)]; all [(s.g 2).toNat % 8 ≠ 0]),
    (let s := regs [(2, 0x2000000000000000)]; all [(s.g 2).toNat % 8 = 0, bitsNat (s.g 2) 63 60 = 2]),
    (let s := regs [(2, 0x16800)] (saTop up); all [nearOkB s s.focus (s.g 2) 8, s.nearSa s.focus (s.g 2).toNat = true])] = true := by decide +kernel
theorem witness_AcquireReleaseAndFence : all [
    (let s := regs [(1, 5), (2, 0x17FF8)] (cpu0 fun u => { u with storeQ := [⟨0, ⟨.near, 0, phys 0x17FF8⟩, 0xFF, 9, 0⟩], serial := 1 })
     let f := s.settleWord s.focus (s.nearAt s.focus (memAddr 2 0 s))
     all [nearOkB s s.focus (memAddr 2 0 s) 8, soundB f (s.nearAt s.focus (memAddr 2 0 s)), s.nearSa s.focus (memAddr 2 0 s).toNat = false,
       s.nodeAccess s.focus (s.nearAt s.focus (memAddr 2 0 s)) = .open_, runs (.ldacqD 3 2 0) s (fun t => t.reg (.col 0) 3 == 9 && (t.cpu (.col 0)).storeQ.length == 0),
       runs (.strelD 1 2 0) s (fun t => (t.cpu (.col 0)).storeQ.length == 1), runs (.fence 2) s fun t => (t.cpu (.col 0)).storeQ.length == 0 && (t.cpu (.col 0)).near.byte (phys 0x17FF8) == 9]),
    (4#5).toNat ≤ 4, 3 ≤ (3#5).toNat, 5 ≤ (5#5).toNat] = true := by decide +kernel
theorem witness_SingleAssignmentStores : all [
    (let s := regs [(1, 5), (2, 0x17FF8)] (saTop up)
     let l := s.nearAt (.col 0) (memAddr 2 0 s)
     all [wfAll s, nearOkB s s.focus (memAddr 2 0 s) 8, s.access l = .open_, s.nearSa (.col 0) (memAddr 2 0 s).toNat = true, s.presence l = none,
       runs (.std 1 2 0) s (fun t => t.presence l == some .full && runs (.tstsa 3 2) t (fun t => t.reg (.col 0) 3 == 1) && runs (.stsa 1 2) t (fun t => t.reg (.col 0) 1 == 1)),
       runs (.stsa 1 2) s fun t => t.reg (.col 0) 1 == 0 && t.presence l == some .full]),
    (let s := regs [(2, 0)] up; all [wfAll s, nearOkB s s.focus (s.g 2) 8, s.access (s.nearAt (.col 0) (s.g 2)) = .open_, s.nearSa (.col 0) (s.g 2).toNat = false,
       runs (.tstsa 3 2) s fun t => t.reg (.col 0) 3 == 3])] = true := by decide +kernel
theorem witness_ClearAndWatchSingleAssignment : all [
    (let s := regs [(2, 0x17FF0)] (saTop (cpu0 fun u => { u with near := { u.near with sa := [(phys 0x17FF0 / 8, .full), (phys 0x17FF8 / 8, .full)] } }))
     all [(s.cpu (.col 0)).clr = none, nearOkB s s.focus (s.g 2) 8, (countFrom 0 (clrsaCount 2)).all fun j => nearOkB s s.focus (s.g 2 + BitVec.ofNat 64 (8 * j)) 8 && s.nearSa (.col 0) (s.g 2 + BitVec.ofNat 64 (8 * j)).toNat,
       1 < clrsaCount 2, runs (.clrsa 2 2) s fun t => (t.cpu (.col 0)).clr == some 1 && t.pc (.col 0) == 0 && runs (.clrsa 2 2) t fun t => t.pc (.col 0) == 4 && (t.cpu (.col 0)).near.sa.isEmpty]),
    clrsaCount 1 = 1, clrsaCount 0 = 2048, nearOkB up (.col 0) 0 8, up.nearSa (.col 0) 0 = false,
    (let s := regs [(2, 0x17FF8)] (saTop up)
     let l := s.nearAt (.col 0) (s.g 2)
     all [nearOkB s s.focus (s.g 2) 8, soundB s l, s.nearSa (.col 0) (s.g 2).toNat = true, s.presence l = none, (s.col 0).watches.length + (s.col 0).fired.length < 16,
       runs (.watch 1 2 3) s (fun t => (t.col 0).watches.length == 1), 16 ≤ (s.modCol 0 fun x => { x with watches := List.replicate 16 ⟨0, l, 0, 0⟩ }).cols[0].watches.length]),
    (let s := regs [(2, 0x17FF8)] (armed0 (saTop (cpu0 fun u => { u with near := { u.near with bytes := [⟨phys 0x17FF8, 9⟩], sa := [(phys 0x17FF8 / 8, .tainted)] } })))
     let l := s.nearAt (.col 0) (s.g 2)
     all [nearOkB s s.focus (s.g 2) 8, soundB s l, s.nearSa (.col 0) (s.g 2).toNat = true, s.presence l = some .tainted, takes s 15,
       runs (.watch 1 2 3) s fun t => t.reg (.col 0) 1 == 1 && t.pc (.col 0) == 4 && (t.cpu (.col 0)).pend.any fun m => m.cls == 15 && m.g1 == 0x17FF8 && m.g2 == 9 && m.g3 == 0x20003])] = true := by decide +kernel
theorem witness_AtomicsReadAndWriteAtOneInstant :
    (let s := regs [(1, 7), (2, 0x17FF8), (3, 5)] (cpu0 fun u => { u with storeQ := [⟨0, ⟨.near, 0, phys 0x17FF8⟩, 0xFF, 9, 0⟩], serial := 1 })
     let l := s.nearAt s.focus (s.g 2)
     let e := s.drainFor s.focus .sys
     all [nearOkB s s.focus (s.g 2) 8, s.nearSa s.focus (s.g 2).toNat = false, soundB e l, s.nodeAccess s.focus l = .open_, wfAll e,
       runs (.aadd 1 2 3 1 3) s (fun t => t.reg (.col 0) 1 == 9 && (t.cpu (.col 0)).near.byte (phys 0x17FF8) == 14), runs (.aswp 1 2 3 1 0) s (fun t => (t.cpu (.col 0)).near.byte (phys 0x17FF8) == 5),
       runs (.acas 1 2 3 1 0) s (fun t => (t.cpu (.col 0)).near.byte (phys 0x17FF8) == 9), runs (.aand 1 2 3 0 1) s (fun t => (t.cpu (.col 0)).near.byte (phys 0x17FF8) == 1),
       runs (.aor 1 2 3 0 2) s (fun t => (t.cpu (.col 0)).near.byte (phys 0x17FF8) == 13), runs (.axor 1 2 3 1 0) s (fun t => (t.cpu (.col 0)).near.byte (phys 0x17FF8) == 12),
       runs (.amax 1 2 3 1 0) s (fun t => (t.cpu (.col 0)).near.byte (phys 0x17FF8) == 9), runs (.amin 1 2 3 1 0) s (fun t => (t.cpu (.col 0)).near.byte (phys 0x17FF8) == 5),
       runs (.amaxu 1 2 3 1 0) s (fun t => (t.cpu (.col 0)).near.byte (phys 0x17FF8) == 9), runs (.aminu 1 2 3 1 0) s fun t => (t.cpu (.col 0)).near.byte (phys 0x17FF8) == 5]) = true := by decide +kernel
theorem witness_VerticalForms : all [vertLoc 0 0x10000000 8 = none, vertLoc 0 4 8 = none,
    (let s := regs [(1, 5)] up
     match vertLoc 0 (s.g 2) 8 with
     | some l => all [wfAll s, s.asleep l = false, s.access l = .open_, (s.col 0).errinj = 0, (s.seqSlot 0 (vLayer l.addr)).isSome,
         runs (.vstd 1 2) s fun t => all [(t.seqSlot 0 (vLayer l.addr)).isNone, runs (.vldd 3 2) t (fun t => (t.cpu (.col 0)).ready == 1 && t.pc (.col 0) == 4), runs (.vldd 3 2) { t with now := 1 } fun t => t.reg (.col 0) 3 == 5]]
     | none => false),
    (let s := regs [(1, 0x80)] (cpu0 fun u => { u with near := { u.near with bytes := [⟨phys 0x80, 7⟩] } })
     match vertLoc 0 (s.g 2) 128 with
     | some l => all [wfAll s, s.asleep l = false, s.access l = .open_, (s.col 0).errinj = 0, (s.seqSlot 0 (vLayer l.addr)).isSome, (s.col 0).vret = 0, (s.g 1).toNat % 128 = 0, (s.cpu (.col 0)).storeQ = [],
         (countFrom 0 16).all (fun j => let a := s.g 1 + BitVec.ofNat 64 (8 * j)
           all [nearOkB s (.col 0) a 8, s.nearSa (.col 0) a.toNat = false, s.access (s.nearAt (.col 0) a) = .open_, (s.cpu (.col 0)).near.isBad ((s.nearAt (.col 0) a).addr / 8) = false,
             (s.col 0).vert.isBad (l.addr / 8 + j) = false]),
         runs (.vcpy 1 2 1) s fun t => (t.col 0).vert.byte 0 == 7]
     | none => false)] = true := by decide +kernel

/-! Control registers, handlers and messages. -/

theorem test_control_registers : all [runs (.crd 1 5) up (fun t => t.reg (.col 0) 1 == 0), runs (.cwr 1 2 0x10) (regs [(2, -1)]) (fun t => (t.cpu (.col 0)).hte.get 0 == 0xCF01FFFC && t.reg (.col 0) 1 == 0),
    runs (.cset 1 2 8) (regs [(2, 1)] (cpu0 fun u => { u with ewsel := 2 })) (fun t => (t.cpu (.col 0)).ewsel == 3 && t.reg (.col 0) 1 == 2),
    runs (.cclr 1 2 8) (regs [(2, 1)] (cpu0 fun u => { u with ewsel := 3 })) (fun t => (t.cpu (.col 0)).ewsel == 2),
    runs (.crd 1 0x401) sup0 (fun t => t.reg (.col 0) 1 == 0x40)] = true := by decide +kernel
theorem witness_ControlRegisterFormsAndFields : all [up.crCause 0x53 = none, isUserReg 0x7FF = false, isSupReg 0x7FF = false, isUserReg 0x54 = false, isSupReg 0x54 = false, isSupReg 0x409 = false,
    isUserReg 0x6A = true, isSupReg 0x433 = true, (up.cpu up.focus).sup = false, (sup0.cpu sup0.focus).sup = true, runs (.crd 1 0x409) sup0 (fun t => (t.cpu (.col 0)).ecause == 1),
    runs (.crd 1 0x400) up (fun t => (t.cpu (.col 0)).ecause == 2)] = true := by decide +kernel
/-- Column 0 with its 64 message entries taken. -/
def fullPend : State := armed0 (cpu0 fun u => { u with grants := 64 })
theorem witness_HandlerForms : all [(19#5).toNat ≤ 19,
    (let s := regs [(2, 0x17FFC)] up; all [(s.g 2).toNat % 4 = 0, (s.g 2).toNat < 0x18000, s.nearCause (.col 0) (s.g 2).toNat = none,
      runs (.armh 1 2 0 0 9 19) s fun t => (t.cpu (.col 0)).hte.get 19 == 0x89017FFC && t.reg (.col 0) 1 == 0xF000000]),
    (let s := regs [(2, 0)] up; all [s.g 2 = 0, runs (.armh 1 2 1 0 9 0) s fun t => (t.cpu (.col 0)).hte.get 0 == 0]),
    (let s := regs [(2, 0xFFFFF)] up; all [(s.g 2).toNat < 2 ^ 20, runs (.maskh 1 2) s (fun t => (t.cpu (.col 0)).masked 18 && !(t.cpu (.col 0)).masked 19), runs (.unmaskh 1 2) s fun t => !(t.cpu (.col 0)).masked 0]),
    64 ≤ (fullPend.cpu (.col 0)).pend.length + (fullPend.cpu (.col 0)).grants, runs (.raise 1 2 3) fullPend (fun t => t.reg (.col 0) 1 == 1),
    (let s := regs [(2, 7)] (cpu0 (fun u => { u with grants := 63 }) (armed0 up))
     all [(s.cpu (.col 0)).pend.length + (s.cpu (.col 0)).grants < 64, s.finished (.col 0) = false, (s.cpu (.col 0)).armed 19 = true,
       runs (.raise 1 2 19) s fun t => (t.cpu (.col 0)).pend.any fun m => m.cls == 19 && m.g1 == 7]),
    runs (.end_ 1) (band0) (fun t => !(t.cpu (.col 0)).busy && (t.col 0).band.any (·.finished))] = true := by decide +kernel

/-- Task 7, running in columns 0 and 1 as a band of two slots, with DBG. -/
def task7 : Task := { newTask 7 [] 0 0 0 0 with st := .running, cols := [0, 1] }
/-- With the band of task 7 in place. -/
def held (s : State := up) : State :=
  ((s.modCol 0 fun x => { x with band := some ⟨7, 0, 2, false, false, true⟩ }).modCol 1 fun x => { x with band := some ⟨7, 1, 2, false, false, true⟩ }).modHub fun h => { h with tasks := [task7] }
/-- A message of class 3 with no payload but four words. -/
def msg3 : Msg := ⟨⟨false, 0⟩, 3, 0, 0, 0, false, 0, [1, 2, 3, 4], false, 5, none, 7⟩
/-- The outbound queue of column 0 holds 16 messages. -/
def fullOut (s : State := held) : State := s.modCpu (.col 0) fun u => { u with outq := List.replicate 16 ⟨[.col 1], msg3, false, 0⟩ }
/-- Partition 0's event queue: 16 entries at device address 0x10000, in use. -/
def ring0 (s : State := held) : State := s.modHub fun h => { h with regs := [(partReg 0 0x100, 0x10000), (partReg 0 0x108, 0x104)] }
theorem witness_MessageFormsAndPost : all [
    (let s := regs [(2, 0x1_00017FE0)] held
     all [(s.cpu (.col 0)).outq.length < 16, okAnd (s.readStruct (.col 0) (BitVec.ofNat 64 (bitsNat (s.g 2) 16 0)) 4 32) (fun p => p.1.length == 4), okAnd (s.descOk (s.g 2) 1 false true) (fun _ => true),
       s.targetOf 1 = some (.col 1), runs (.send 1 2 0 0 3) s fun t => t.reg (.col 0) 1 == 0 && (t.cpu (.col 0)).outq.length == 1]),
    (let s := regs [(2, 0x17FE0)] held; all [okAnd (s.descOk (s.g 2) 1 false false) (fun _ => true), (s.cpu (.col 0)).task.getLsbD 13 = false, runs (.reply 1 2 0 0 3) s fun t => (t.cpu (.col 0)).outq.length == 1]),
    (let s := regs [(2, 0x2_0000_00017FE0)] held; all [okAnd (s.descOk (s.g 2) 1 true true) (fun _ => true), (s.col 0).band.isSome, runs (.bcast 1 2 0 0 3) s fun t => (t.cpu (.col 0)).outq.any fun o => o.dests == [.col 0, .col 1]]),
    (let s := regs [(1, 1), (2, 9)] held; all [(s.g 1).toNat < 2 ^ 16, s.targetOf (s.g 1).toNat = some (.col 1), runs (.sendi 1 2 3) s fun t => (t.cpu (.col 0)).outq.any fun o => o.msg.words == [9, 0, 0, 0]]),
    (let s := regs [(2, 0x1_00017FE0)] fullOut; all [16 ≤ (s.cpu (.col 0)).outq.length, okAnd (s.descOk (s.g 2) 1 false true) (fun _ => true), s.targetOf 1 = some (.col 1), runs (.send 1 2 0 0 3) s fun t => t.reg (.col 0) 1 == 1]),
    (let s := regs [(2, 0x20)] fullOut; all [okAnd (s.descOk (s.g 2) 1 false false) (fun _ => true), okAnd (s.descOk (s.g 2) 1 true true) (fun _ => true), s.targetOf (s.g 1).toNat = some (.col 0)]),
    (let s := regs [(2, 0x20)] held; all [s.hub.evFree 0 = 0, okAnd (s.descOk (s.g 2) 1 false false) (fun _ => true), runs (.post 1 2 9) s fun t => t.reg (.col 0) 1 == 1]),
    (let s := regs [(2, 0x20)] ring0
     all [s.hub.evFree 0 ≠ 0, wfAll s, wfAll (s.drainFor (.col 0) .sys), (s.drainFor (.col 0) .sys).hub.evTail = s.hub.evTail, (s.drainFor (.col 0) .sys).hub.regs = s.hub.regs,
       runs (.post 1 2 9) s fun t => t.reg (.col 0) 1 == 0 && t.hub.dev.byte 0x10001 == 9 && t.hub.evTail.get 0 == 1])] = true := by decide +kernel

end Sys2Proof.Tests
end

