-- ==== Sys2Proof/Tests/Witness3.lean ====
section
/-! SUPPORT. Witnesses: forms of element contexts, streams, frost, drift and engines. -/

namespace Sys2Proof.Tests

open Sys2Proof Sys2Proof.Machine

set_option Elab.async false

/-- Context 0 of element e at column 0. -/
def at0 (e : ElemId) : CtxRef := ⟨0, e, 0⟩
/-- A live context with a header, a one-word program and a route of o0. -/
def live (e : ElemId) (hdr word : Word) (route : Half) (s : State := held) : State :=
  s.modCtx (at0 e) fun x => { x with st := .live, hdr := hdr, prog := vset x.prog 0 word, routes := if route = 0 then x.routes else vset x.routes 0 [route] }
/-- CP, LEN 1, one token from i0, one to o0. -/
def hdrCp : Word := 0x00202020
/-- `vadd o0, i0, zero` on i32. -/
def wordAdd : Word := BitVec.ofNat 32 (0x01 * 2 ^ 25 + 8 * 2 ^ 21 + 8 * 2 ^ 17 + 15 * 2 ^ 13 + 4 * 2 ^ 9)
/-- `route el1, i0`. -/
def toEl1 : Half := 0x2080
/-- AG, LEN 1, one token to o0, and `agseq o0`. -/
def hdrAg : Word := 0x40200020
def wordAgseq : Word := BitVec.ofNat 32 (0x48 * 2 ^ 25 + 8 * 2 ^ 21 + 15 * 2 ^ 17 + 15 * 2 ^ 13)
/-- `merge o0, i0, i1`, two consumed ports, with LIMIT 4 in c4. -/
def hdrMerge : Word := 0x0020A020
def wordMerge : Word := BitVec.ofNat 32 (0x42 * 2 ^ 25 + 8 * 2 ^ 21 + 8 * 2 ^ 17 + 9 * 2 ^ 13)
/-- SY, LEN 2: the header of a systolic context. -/
def hdrSy : Word := 0xC0402020
/-- Near-store words at a local address of column 0. -/
def near0 (a : DWord) (ws : List DWord) (s : State) : State :=
  (mapFrom (fun i w => (i, w)) 0 ws).foldl (fun s p => s.modCpu (.col 0) fun u => { u with near := u.near.writeWord (phys (a + BitVec.ofNat 64 (8 * p.1)) / 8) 0xFF p.2 }) s

theorem witness_ConfigurationForms : all [
    (let s := held; all [(s.ctx (s.selected 0)).isLive s.now = false, (s.g 2).toNat < 2 ^ 32, runs (.cfge 1 2 0) s (fun t => t.reg (.col 0) 1 == -1), runs (.ctxi 1 1) s fun t => t.reg (.col 0) 1 == -1]),
    (let s := regs [(2, BitVec.setWidth 64 wordAdd + 512)] (live 0 hdrCp wordAdd toEl1)
     let x := s.ctx (s.selected 0)
     all [x.isLive s.now = true, (s.g 2).toNat < 2 ^ 32, 0 < hLen x.hdr, progOk x.hdr ((vset x.prog 0 (BitVec.setWidth 32 (s.g 2))).toList.take (hLen x.hdr)) = true,
       runs (.cfge 1 2 0) s fun t => t.reg (.col 0) 1 == BitVec.setWidth 64 wordAdd && (t.ctx (at0 0)).prog.get 0 == wordAdd + 512]),
    (let s := regs [(2, 0x2100)] (live 0 hdrCp wordAdd toEl1)
     let x := s.ctx (s.selected 0)
     all [(s.g 2).toNat < 2 ^ 16, (x.routes.get 0)[6]? = none, (x.routes.get 0)[0]? = some toEl1, x.isLive s.now = true, (swOf toEl1).form ≠ 7, bitsNat (s.g 2) 15 12 ≠ 7,
       s.routesOk (s.selected 0) x.hdr x.words (vset x.routes 0 (modNth (fun _ => BitVec.setWidth 16 (s.g 2)) 0 (x.routes.get 0))) = true,
       runs (.cfgw 1 2 0 0) s (fun t => t.reg (.col 0) 1 == 0x2080 && (t.ctx (at0 0)).routes.get 0 == [0x2100]), runs (.cfgw 1 2 0 6) s fun t => t.reg (.col 0) 1 == -1]),
    (let s := live 0 hdrCp wordAdd toEl1; all [(s.ctx (s.selected 0)).isLive s.now = true, (0x2F#6).getLsbD 4 = false, runs (.ctxi 1 0x2F) s fun t => t.reg (.col 0) 1 == 0]),
    (let s := regs [(2, 0x1F + 0x20)] held; all [(s.g 2).toNat < 2 ^ 12, regionOf (s.g 2) = none, runs (.mode 1 2 0) s (fun t => t.reg (.col 0) 1 == 2)]),
    (let s := regs [(2, 0x1000)] (live 0 hdrCp wordAdd toEl1)
     all [(s.g 2).toNat < 2 ^ 13, regionOf (s.g 2) = some [(0, 0)], (s.ctx (at0 0)).isLive s.now = true, (s.g 2).getLsbD 12 = true, hRole (s.ctx (at0 0)).hdr = .cp,
       runs (.mode 1 2 0) s fun t => t.reg (.col 0) 1 == 0 && bitsNat (t.ctx (at0 0)).hdr 31 30 == 3]),
    (let s := (live 0 hdrSy wordAdd toEl1)
     all [(s.g 2).toNat < 2 ^ 12, (s.col 0).wpre = none, regionOf (s.g 2) = some [(0, 0)], (s.ctx (at0 0)).isLive s.now = true, hRole (s.ctx (at0 0)).hdr = .sy,
       runs (.wpre 1 2 0) s fun t => (t.ctx (at0 0)).wcnt == 2048 && runs (.wpre 1 2 5) t fun t => t.reg (.col 0) 1 == 1]),
    (let s := regs [(2, 0x1_00017FD8)] held
     all [bitsNat (s.g 2) 63 48 = 0, bitsNat (s.g 2) 31 17 = 0, bitsNat (s.g 2) 47 32 = 1, bitsNat (s.g 2) 2 0 = 0, s.nearCause (.col 0) (bitsNat (s.g 2) 16 0) = none,
       s.nearCause (.col 0) (bitsNat (s.g 2) 16 0 + 40 * 1 - 1) = none, (s.col 0).cfgl = none,
       runs (.cfgl 1 2 31) s fun t => t.reg (.col 0) 1 == 0 && (t.col 0).cfgl.isSome && runs (.cfgl 1 2 31) t fun t => t.reg (.col 0) 1 == 1])] = true := by decide +kernel

/-- A live AG context, and a descriptor in the near store: device space 0, format 0, one element. -/
def agState (d0 d3 : DWord) : State := near0 0x100 [d0, 0, 0, d3] (regs [(2, 0x100)] (live 3 hdrAg wordAgseq toEl1))
theorem witness_StreamForms : all [
    okAnd ((agState 0 0).readStruct (.col 0) 0x100 4 8) (fun p => p.1.length == 4),
    (let s := agState 0 0
     okAnd (s.readStruct (.col 0) (s.g 2) 4 8) fun (ws, _, f) =>
       let m := streamOf ws (s.g 2).toNat f.now
       all [(f.ctx (at0 3)).st = .live, hRole (f.ctx (at0 3)).hdr = .ag, (f.ctx (at0 3)).strm = none, m.descOk (f.bindings 0),
         (match issuingWord ((f.ctx (at0 3)).prog.toList.take 1) with | some w => m.agrees (opOf w) false | none => false),
         runs (.strm 1 2 0 3) s (fun t => t.reg (.col 0) 1 == 0 && (t.ctx (at0 3)).strm.isSome && runs (.strm 1 2 0 3) t (fun t => t.reg (.col 0) 1 == 1) && runs (.stop 1 0 3) t fun t => t.reg (.col 0) 1 == 0)]),
    (let s := agState 0 1
     okAnd (s.readStruct (.col 0) (s.g 2) 4 8) fun (ws, _, f) => all [(f.ctx (at0 3)).st = .live, (f.ctx (at0 3)).strm = none, (streamOf ws (s.g 2).toNat f.now).descOk (f.bindings 0) = false,
       runs (.strm 1 2 0 3) s (fun t => t.reg (.col 0) 1 == 2), runs (.strm 1 2 0 4) s fun t => t.reg (.col 0) 1 == 3]),
    (up.ctx (at0 3)).strm = none, runs (.stop 1 0 3) up (fun t => t.reg (.col 0) 1 == -1), (up.g 2).toNat < 2 ^ 32,
    runs (.armc 1 2 3 31) (regs [(2, 9)] up) (fun t => (t.ctx ⟨0, 31, 3⟩).sect == 9)] = true := by decide +kernel

/-- The injection port of column 0's hosted stage changed. -/
def inj0 (f : InjPort → InjPort) (s : State) : State := s.modCol 0 fun x => x.modInj x.drift.hosted f
/-- An injection record for i0 of element 1 at local address 0x100, and its payload. -/
def records0 (s : State := held) : State := near0 0x100 [0x0008000000000000, 5, 0, 0, 0] (regs [(2, 0x100)] s)
/-- A merge at element 1 whose feedback port is i1, with the limit 4, and a header image for that port. -/
def mergeState (limit : Word) (free : Nat) : State :=
  near0 0x100 [0x000A000000000000, 5, 0, 0, 0] (regs [(2, 0x100)] ((live 1 hdrMerge wordMerge toEl1).modCtx (at0 1) fun x => { x with c := vset x.c 4 limit }) |> inj0 fun p => { p with free := free })
theorem witness_InjectionAndBarrierForms : all [
    (let s := records0
     let q := s.readRecords 0 0x100 1
     all [okAnd (s.structCause (.col 0) (s.g 2) 40 8) (fun _ => true), s.structShut (.col 0) 0x100 5 = false, q.1.all fun r => imageOk r.1 false, 1 ≤ (q.2.col 0).injFree, (q.2.col 0).injHeld = false,
       runs (.inj 1 2 1) s fun t => t.reg (.col 0) 1 == 0 && t.flights.any fun f => f.tok.payload == 5 && f.dest == .port ⟨at0 1, 0⟩]),
    (let s := near0 0x100 [0x0008001000000000] (records0 (inj0 (fun p => { p with free := 0 }) held))
     let q := s.readRecords 0 0x100 1
     all [q.1.all fun r => imageOk r.1 true && injSub r.1, (q.2.col 0).injFree < 1, runs (.injm 1 2 1) s fun t => t.reg (.col 0) 1 == 1]),
    (let s := mergeState 4 8
     let q := s.nearWords (.col 0) 0x100 1
     let p := imagePort 0 (wordAt q.1 0)
     all [okAnd (s.structCause (.col 0) (s.g 2) 40 8) (fun _ => true), s.structShut (.col 0) 0x100 5 = false, imageOk (wordAt q.1 0) false, (q.2.2.ctx p.at_).st = .live,
       (match (q.2.2.ctx p.at_).mergeWord with | some w => portOf w.b == p.port | none => false), bitsNat ((q.2.2.ctx p.at_).c.get 4) 31 16 + 1 < bitsNat ((q.2.2.ctx p.at_).c.get 4) 15 0,
       runs (.prime 1 2 1) s fun t => t.reg (.col 0) 1 == 0 && t.flights.length == 2 && (t.ctx (at0 1)).c.get 4 == 0x10004]),
    runs (.prime 1 2 1) (mergeState 4 1) (fun t => t.reg (.col 0) 1 == 1), runs (.prime 1 2 1) (mergeState 0x30004 8) (fun t => (t.cpu (.col 0)).ecause == 17),
    up.cols[0].barr = none, runs (.barr 1 9 1) up (fun t => t.reg (.col 0) 1 == 0 && (t.col 0).barr.isSome && runs (.barr 1 9 1) t fun t => t.reg (.col 0) 1 == 1)] = true := by decide +kernel

/-- The frost fabric of column 0 changed. -/
def fab0 (f : Fabric → Fabric) (s : State := up) : State := s.modCol 0 fun x => { x with fab := f x.fab }
/-- Its shadow plane is ready. -/
def readyShadow (f : Fabric) : Fabric := { f with planes := vset f.planes 1 { Plane.empty with st := .ready } }
theorem witness_FrostForms : all [
    (let s := regs [(2, 0x10000000)] up; all [2 ^ 28 ≤ (s.g 2).toNat, runs (.fgld 1 2) s fun t => (t.cpu (.col 0)).ecause == 6]), vertDecode 0x1800000 = none, (64#64).toNat % 128 ≠ 0,
    (let s := regs [(2, 0x80)] up; all [(s.g 2).toNat % 128 = 0, (vertDecode (s.g 2).toNat).isSome, (s.col 0).fab.busy = false, runs (.fgld 1 2) s fun t => t.reg (.col 0) 1 == 0 && (t.col 0).fab.load.isSome]),
    (let s := regs [(2, 0x80)] (fab0 (fun f => { readyShadow f with armed := some 3 }) (armed0 up)); all [(s.col 0).fab.busy, takes s 16, runs (.fgld 1 2) s fun t => t.reg (.col 0) 1 == 1 && (t.cpu (.col 0)).pend.length == 1]),
    (up.cols[0].fab.planes.get 1).st ≠ .ready, runs (.fgsw 1 0 0 0) up (fun t => t.reg (.col 0) 1 == 1), runs (.fgsw 1 0 3 1) up (fun t => t.reg (.col 0) 1 == 1), runs (.fgsw 1 1 0 0) up (fun t => t.reg (.col 0) 1 == 1),
    runs (.fgsw 1 0 0 0) (fab0 readyShadow) (fun t => t.reg (.col 0) 1 == 0 && (t.col 0).fab.act == 1),
    runs (.fgsw 1 0 3 1) (fab0 readyShadow) (fun t => (t.col 0).fab.armed == some 3 && runs (.fgsw 1 1 0 0) t fun t => (t.col 0).fab.armed == none),
    runs (.fgqy 1 1 6) (fab0 fun f => { f with cnt := vfill 6 9 }) (fun t => t.reg (.col 0) 1 == 9 && (t.col 0).fab.cnt.get 5 == 0),
    (let s := regs [(2, 0x3F + 0x40)] up; all [(s.col 0).fab.pipe = [], 1 ≤ bitsNat (s.g 2) 12 6, bitsNat (s.g 2) 5 0 + bitsNat (s.g 2) 12 6 ≤ 64, bitsNat (s.g 2) 63 23 = 0, bitsNat (s.g 2) 21 13 = 0,
      runs (.fgclr 1 2) s fun t => (t.col 0).fab.clr.isSome && runs (.fgclr 1 2) t fun t => t.reg (.col 0) 1 == 1]),
    (let s := regs [(2, 0x200000 + 0x1000)] up; all [bitsNat (s.g 2) 21 13 = 256, bitsNat (s.g 2) 5 0 + bitsNat (s.g 2) 12 6 ≤ 64, 1 ≤ bitsNat (s.g 2) 12 6,
      runs (.femit 1 2) s fun t => (t.col 0).fab.emit.isSome && runs (.femit 1 2) t fun t => t.reg (.col 0) 1 == 1])] = true := by decide +kernel

/-- Column 0 in a drift band, hosting stage 0 of the stages 0 and 1, berth in shelf 15. -/
def stageRes (k : Nat) : StageRes := ⟨k, 0, 0, [(0, 0)], 0, [], true, false, false, false, false, []⟩
def drift0 (f : Drift → Drift) (s : State := held) : State :=
  s.modCol 0 fun x => { x with drift := f { Drift.reset with on := true, seq := [stageRes 0, stageRes 1], berth := some 15, shelves := vset Drift.reset.shelves 15 .berth } }
theorem witness_DriftForms : all [up.cols[0].drift.on = false, (15#64).toNat < 16, runs (.dband 1 2) up (fun t => t.reg (.col 0) 1 == -1), runs (.dstage 1 2) up (fun t => t.reg (.col 0) 1 == -1),
    runs (.dsave 1) up (fun t => t.reg (.col 0) 1 == 1), runs (.dqry 1 0 7) up (fun t => t.reg (.col 0) 1 == 0),
    (let s := regs [(2, 15)] (drift0 id); all [(s.col 0).drift.on, (s.g 2).toNat < 16, runs (.dband 1 2) s fun t => t.reg (.col 0) 1 == 15 && (t.col 0).drift.mask == 15]),
    (let s := drift0 fun d => { d with berth := none }; all [(s.col 0).drift.berth = none, runs (.dsave 1) s (fun t => t.reg (.col 0) 1 == 1), runs (.drest 1) s fun t => t.reg (.col 0) 1 == 1]),
    (let s := drift0 fun d => { d with phase := .saving 1 0 }; all [(s.col 0).drift.occupied, runs (.dsave 1) s (fun t => t.reg (.col 0) 1 == 2), runs (.drest 1) s fun t => t.reg (.col 0) 1 == 2]),
    (let s := drift0 id; all [(s.col 0).drift.occupied = false, runs (.dsave 1) s fun t => t.reg (.col 0) 1 == 0 && (t.col 0).drift.op.isSome]),
    (let s := drift0 fun d => { d with hosted := 5 }; all [(s.col 0).drift.cur = none, runs (.drest 1) s fun t => t.reg (.col 0) 1 == 3]),
    (let b := (drift0 id).cols[0].drift.berthAt 0
     let s := (drift0 id).modCol 0 fun x => { x with vert := x.vert.putBytes (b + 12) [0, 2, 0, 0] }
     all [(s.col 0).drift.cur.isSome, (s.readBerth 0 (stageRes 0)).1.isSome, runs (.drest 1) s fun t => t.reg (.col 0) 1 == 0 && (t.col 0).drift.op.isSome]),
    (let s := drift0 fun d => { d with forced := some ⟨none, 0, 0, 0, [], false⟩ }; all [(s.col 0).drift.forced.isSome, runs (.dscrl 1 0) s fun t => t.reg (.col 0) 1 == 2]),
    (let s := drift0 fun d => { d with seq := [] }; all [(s.col 0).drift.next = none, (s.cpu (.col 0)).storeQ = [], runs (.dscrl 1 0) s fun t => t.reg (.col 0) 1 == 0]),
    (let s := inj0 (fun p => { p with ord := [(⟨at0 0, 0⟩, 9)] }) (drift0 id)
     all [(s.col 0).drift.cur.isSome, (s.col 0).drift.next.isSome, (s.col 0).drift.scrollq = [], (stageRes 0).ctxs.contains (0, 0), (s.ctx (at0 0)).strm = none, (s.col 0).injFree ≠ 0,
       runs (.dscrl 1 0) s fun t => t.reg (.col 0) 1 == 0 && t.flights.any fun f => f.tok.sub == 6 && f.tok.ord == 9]),
    (let s := (drift0 id).modHub fun h => { h with tasks := [{ task7 with record := List.replicate 0xD0 0 ++ [2, 0] }] }
     all [(s.taskOf 0).any fun k => decide (1 < k.n), (s.col 0).drift.res 0 = some (stageRes 0), (s.col 0).drift.on, runs (.dstage 1 2) s fun t => decide (t.reg (.col 0) 1 ≠ -1)]),
    runs (.dqry 1 1 6) (drift0 fun d => { d with cnt := vfill 7 3 }) (fun t => t.reg (.col 0) 1 == 3 && (t.col 0).drift.cnt.get 6 == 0)] = true := by decide +kernel

/-- A transfer block of column 0, from all-zero words. -/
def xfer0 : Xfer := ⟨List.replicate 8 0, some 0, 7, none, 5, 0, none⟩
/-- Transfer engine k of stack 0 changed. -/
def te0 (k : TeId) (f : Te → Te) (s : State := held) : State := s.modStack 0 fun x => { x with te := vmod x.te k f }
/-- Address space 7: a gigabyte of plain pages from virtual 0 at physical 0, its tables at 0x1000 and 0x2000, its ranges partition 0's; every engine has a weight there, and class 4 an allowance. -/
def ptb7 : DWord := 0x0007000000001001
def paged (s : State := held) : State :=
  (s.modHub fun h => { h with dev := (h.dev.writeWord 0x200 0xFF 0x8000000000002000).writeWord 0x400 0xFF 0xE000000000000000,
                              regs := insertKey 0x0F0020 0x8000000000000200 (insertKey 0x0F0060 0x111111 (insertKey 0x0F0110 0x0100010001000100 h.regs)) }).modCol 0 fun x => { x with ptb := ptb7 }
/-- The same address space with single-assignment pages, at the address in g2. -/
def saPaged : State :=
  regs [(2, 0x8000000000005000)] ((paged (armed0 held)).modHub fun h => { h with dev := h.dev.writeWord 0x400 0xFF 0xD000000000000000 })
theorem witness_ClearAndWatchInDeviceMemory : all [
    all [(saPaged.g 2).toNat % 8 = 0, bitsNat (saPaged.g 2) 63 60 = 8],
    ([none, some Presence.full].all fun p =>
      let s := saPaged.modHub fun h => { h with dev := { h.dev with sa := p.toList.map fun k => (0x5000 / 8, k) } }
      match s.saPlace (.col 0) (s.g 2) false with
      | (.ok (some l), f) => all [l.space = .dev, l.addr = 0x5000, f.hub.dev.isBad (l.addr / 64) = false, f.presence l = p,
          runs (.watch 1 2 3) s fun t => if p = none then (t.col 0).watches.length == 1 else t.reg (.col 0) 1 == 1 && t.pc (.col 0) == 4 && (t.cpu (.col 0)).pend.length == 1]
      | _ => false),
    (match saPaged.clrsaCheck (saPaged.g 2) (clrsaCount 2) with
     | (none, e) => (match e.saPlace (.col 0) (saPaged.g 2) true with | (.ok (some l), _) => l.addr == 0x5000 | _ => false)
     | _ => false),
    runs (.clrsa 2 2) (saPaged.modHub fun h => { h with dev := { h.dev with sa := [(0x5000 / 8, .full), (0x5008 / 8, .full)] } }) fun t => (t.cpu (.col 0)).clr == some 1 && t.pc (.col 0) == 0 && t.hub.dev.sa.length == 1 &&
      runs (.clrsa 2 2) t fun t => (t.cpu (.col 0)).clr == none && t.pc (.col 0) == 4 && t.hub.dev.sa.isEmpty] = true := by decide +kernel
/-- A copy node that waits for one more, and a graph of such nodes at column 0. -/
def node0 : CgNode := ⟨2, [], 0, 1, false, false, false⟩
def graph0 (ns : List CgNode) (s : State := held) : State := s.modStack 0 fun x => { x with graphs := [⟨0, 31, ns, 7, none, 0, 1, none, none, []⟩] }
theorem witness_EngineForms : all [
    okAnd (held.readStruct (.col 0) 0 8 8) (fun p => p.1.length == 8 && ((p.2.2.stack 0).te.get 7).q.length == 0), okAnd (held.readStruct (.col 0) 0 4 8) (fun p => p.1.length == 4 && (p.2.2.stack 0).swaps == 0),
    runs (.xfer 1 2 0 7) held (fun t => t.reg (.col 0) 1 == 0x700 && ((t.stack 0).te.get 7).q.length == 1), runs (.xfer 1 2 1 0) (te0 0 fun e => { e with q := List.replicate 16 xfer0 }) (fun t => t.reg (.col 0) 1 == 0x100),
    runs (.xfer 1 2 0 7) (te0 7 fun e => { e with q := List.replicate 16 xfer0 }) (fun t => t.reg (.col 0) 1 == 0x701),
    (let s := held.modStack 0 fun x => { x with te := vmap (fun e => { e with q := List.replicate 16 xfer0 }) x.te }
     all [(upTo 8).all fun i => decide (16 ≤ ((s.stack 0).te.get (fin 7 i)).q.length), runs (.xfer 1 2 1 0) s fun t => t.reg (.col 0) 1 == 1]),
    runs (.swap 1 2) held (fun t => t.reg (.col 0) 1 == 0 && (t.stack 0).lseQ.length == 1),
    (let r : Refill := ⟨0, 0, 0, 128, [], 0, 0, 31, 0, false, false, 0, 0, 7⟩
     let s := held.modStack 0 fun x => { x with lseQ := List.replicate 32 r }
     all [32 ≤ (s.stack 0).swaps, runs (.swap 1 2) s fun t => t.reg (.col 0) 1 == 1]),
    (let s := held; all [(s.g 2).toNat < 2 ^ 16, ((s.stack 0).te.get 7).q = [], ((s.stack 0).te.get 7).cur = none, s.graph? 0 = none, runs (.xqry 1 2 7) s (fun t => t.reg (.col 0) 1 == 0), runs (.cgdec 1 2) s fun t => t.reg (.col 0) 1 == 1]),
    (let s := te0 7 fun e => { e with q := [xfer0] }; all [xfer0.from_ = some 0, xfer0.xid = 0, xfer0.reply = none, runs (.xqry 1 2 7) s fun t => bitsNat (t.reg (.col 0) 1) 15 0 == 1]),
    (let s := regs [(2, 2)] (graph0 [node0, node0]); all [(s.graph? 0).any fun g => decide (g.nodes.length ≤ (s.g 2).toNat), runs (.cgdec 1 2) s fun t => t.reg (.col 0) 1 == 2]),
    (let s := regs [(2, 1)] (graph0 [node0, node0]); all [(s.graph? 0).any fun g => decide ((s.g 2).toNat < g.nodes.length), runs (.cgdec 1 2) s fun t => t.reg (.col 0) 1 == 0]),
    (let s := regs [(1, 0xFFF), (2, 0x8000000000000000)] (graph0 [node0])
     all [(s.g 2).toNat % 32 = 0, bitsNat (s.g 2) 63 60 = 8, bitsNat (s.g 1) 11 0 ≠ 0, bitsNat (s.g 1) 63 12 = 0, (s.graph? 0).isSome, runs (.cgrun 1 2 31) s fun t => t.reg (.col 0) 1 == 1]),
    (let s := regs [(1, 1), (2, 0x8000000000010000)] (paged)
     all [s.graph? 0 = none, s.hub.engWeight (s.partOf (.col 0)) 2 ≠ 0, bitsNat (s.g 2) 59 48 = 0,
       runs (.cgrun 1 2 31) s fun t => t.reg (.col 0) 1 == 0 && (t.stack 0).graphs.length == 1]),
    (16#64).toNat % 32 ≠ 0, runs (.bmov 1 2) held (fun t => (t.cpu (.col 0)).ecause == 1),
    (let s := { up with focus := .hart 0 }
     all [okAnd (s.readStruct (.hart 0) (s.g 2) 4 8) (fun p => decide ((p.2.2.hart 0).moves.length < 8)), runs (.bmov 1 2) s fun t => (t.hart 0).moves.length == 1]),
    (let s := ({ up with focus := .hart 0 } : State).modHart 0 fun h => { h with cpu := { h.cpu with near := h.cpu.near.writeWord 2 0xFF (-1) } }
     all [okAnd (s.readStruct (.hart 0) (s.g 2) 4 8) (fun p => match bulkFields p.1 with | .error _ => true | .ok _ => false), runs (.bmov 1 2) s fun t => (t.cpu (.hart 0)).ecause == 16]),
    (let s := ({ up with focus := .hart 0 } : State).modHart 0 fun h => { h with moves := List.replicate 8 ⟨0, 0, 64, 0, 0, false, 0, 0, false, false, 0⟩ }
     all [8 ≤ (s.hart 0).moves.length, runs (.bmov 1 2) s fun t => t.reg (.hart 0) 1 == 1])] = true := by decide +kernel

end Sys2Proof.Tests
end

