-- ==== Sys2Proof/Tests/Witness4.lean ====
section
/-! SUPPORT. Witnesses: launch, clocks, power, bring-up, messages, tasks, scheduling, pre-emption. -/

namespace Sys2Proof.Tests

open Sys2Proof Sys2Proof.Machine

set_option Elab.async false

/-- A launch record: MAGIC, VERSION, B = 1 in any stack, one stage, one level, the others unused; and further fields as offset, bytes and value. -/
def record (l : List (Nat × Nat × Nat)) : List Byte :=
  let fs := l ++ [(0, 6, 0x010054535248), (0x38, 8, 0xF0001), (0x40, 4, 0x00010401), (0xD0, 2, 1)] ++ (countFrom 1 7).map fun i => (0x40 + 4 * i, 4, 0x0000FF00)
  (countFrom 0 256).map fun i => match fs.find? fun f => decide (f.1 ≤ i ∧ i < f.1 + f.2.1) with | some f => BitVec.ofNat 8 (f.2.2 / 2 ^ (8 * (i - f.1))) | none => 0
/-- Bytes in device memory. -/
def dev0 (a : Nat) (bs : List Byte) (s : State := up) : State := s.modHub fun h => { h with dev := h.dev.putBytes a bs }
/-- `up` with a change in the hub. -/
def hub1 (f : Hub → Hub) : State := hub0 f up
theorem witness_LaunchAndClockEvents : all [
    (let s := up; all [s.hub.bstep = 9, s.hub.pwr = .run, bitsNat 0x10001#64 7 0 ≠ 0, runs (.launchPortWrite 0 0 0x10001) s fun t => t.hub.lrej.get 0 == 1]),
    1024 ≤ ((hub1 fun h => { h with queues := vset h.queues 15 (List.replicate 1024 1) }).hub.queues.get 15).length,
    (let s := dev0 0x10000 (record [])
     let tk := newTask 1 ((s.flushOrd fun _ => false).hub.peek 0x10000 256) 0x10000 0 0 0
     all [tk.recordStatus 0 0 = none, (s.hub.queues.get 0).length < 1024, runs (.launchPortWrite 0 0 0x10000) s fun t => t.hub.queues.get 0 == [1] && t.hub.nextTask == 2]),
    runs (.launchPortWrite 0 0 0x10000) (dev0 0x10000 (record [(0x4, 2, 0x200)])) (fun t => t.hub.tasks.any fun x => x.st == .ended),
    (let s := col0 fun x => { x with idleFor := 64 }; all [64 ≤ (s.col 0).idleFor, runs (.columnClockGate 0) s fun t => (t.col 0).gated]),
    (let s := hub1 fun h => { h with quiet := vfill 16 29000 }; all [29000 ≤ s.hub.quiet.get 15, runs (.gddr7SelfRefresh 15) s fun t => t.hub.selfref == 0x8000]),
    runs (.droopStretch 255) up (fun t => (t.col 255).droop && runs (.droopEnd 255) t fun t => !(t.col 255).droop),
    runs .thermtrip up (fun t => t.hub.thermtrip && (match step t with | .fault .clocksStopped => true | _ => false))] = true := by decide +kernel
/-- The part is entering a sleep, or sleeps. -/
def power (p : PwrState) (s : State := up) : State := s.modHub fun h => { h with pwr := p, regs := [(0x0E0D10, 0xF), (0x0E0D18, 1)] }
theorem witness_SleepAndWakeEvents : all [held.holdsColumns, up.holdsColumns = false, up.enginesBusy = false, runs .pwrCalm held (fun t => t.hub.pwrres == 1), runs .pwrDoldrums up (fun t => t.hub.pwr == .entering true),
    (let s := up.modHart 42 fun h => { h with moves := [⟨0, 0, 64, 0, 0, false, 0, 0, false, false, 0⟩] }; all [s.holdsColumns = false, s.enginesBusy, runs .pwrCalm s fun t => t.hub.pwrres == 2]),
    (let s := power (.entering false); all [s.hub.wakeLatched = none, runs .pwrEntryDone s fun t => t.hub.pwr == .calm && t.hub.selfref == 0xFFFF]),
    (let s := power (.entering true) (dev0 0x40 [1]); all [wfAll s, (countFrom 0 4).all fun k => (s.stack (fin 3 k)).ord.isEmpty, runs .pwrEntryDone s fun t => t.hub.pwr == .doldrums && t.hub.dev.byte 0x40 == 0]),
    (let s := (power (.entering true)).modHub fun h => { h with wakeLatched := some 2 }; runs .pwrEntryDone s fun t => t.hub.pwr == .run && t.hub.lastwake == 2),
    (let s := power .calm; all [(s.hub.reg 0x0E0D10).getLsbD 2, runs .wakePin s fun t => t.hub.pwr == .run && t.hub.lastwake == 2]),
    (let s := power .doldrums; all [(s.hub.reg 0x0E0D10).getLsbD 0, s.hub.pciemode = 0, runs .wakeRootPort s fun t => t.hub.pwr == .run && t.hub.lastwake == 0]),
    (let s := (power .calm).modHub fun h => { h with pciemode := 2 }; all [(s.hub.reg 0x0E0D10).getLsbD 1, s.hub.pciemode = 2, runs .wakeEndpoint s fun t => t.hub.lastwake == 1]),
    (let s := { power .calm with now := 2900 }; all [(s.hub.reg 0x0E0D10).getLsbD 3, bitsNat (s.hub.reg 0x0E0D18) 47 0 ≠ 0, s.hub.pwrAt + bitsNat (s.hub.reg 0x0E0D18) 47 0 * 2900 ≤ s.now,
      runs .wakeTimer s fun t => t.hub.lastwake == 3]),
    runs .wakePin (power (.entering false)) (fun t => t.hub.wakeLatched == some 2 && t.hub.pwr == .entering false)] = true := by decide +kernel
/-- A power-on that meets no failure but the mode strap and the images given. -/
def boot0 (mode : BitVec 2) (images : List (Nat × Nat × List Byte)) : PowerOn := ⟨mode, false, 127, images, true, [], [], [], [], [], 0, 0⟩
/-- With four valid images a part opens; whether an image is valid rests on the opaque signature checks. -/
theorem witness_BringUpOpens (images : List (Nat × Nat × List Byte)) (h : ∀ k ∈ [1, 2, 3, 4], ((boot0 0 images).image k).isSome = true) : (boot0 0 images).outcome.1 = 9 := by
  have hn : ([1, 2, 3, 4].find? fun k => ((boot0 0 images).image k).isNone) = none := by
    rw [List.find?_eq_none]; intro k hk; have := h k hk; cases hi : (boot0 0 images).image k <;> simp_all
  unfold PowerOn.outcome
  rw [hn]; simp [boot0]; decide +kernel
theorem witness_BringUpAndAttestation : all [(boot0 3 []).outcome = (1, 1), runs (.powerOn (boot0 3 [])) up (fun t => t.hub.bstep == 1 && t.hub.berr == 1),
    (let v : BitVec 64 := 0x8000100000000000; let buf := bitsNat v 45 6 * 64
     all [up.hub.bstep = 9, v.getLsbD 63, up.hub.attest = none, up.hub.channel? buf = some 16, up.hub.channel? (buf + 16863) = some 16, runs (.attestRequest v) up (fun t => t.hub.attest == some buf && t.hub.atres == 0 &&
       runs (.attestRequest v) t fun t => t.hub.atres == 1)]),
    all [up.hub.channel? 0 ≠ some 16, runs (.attestRequest 0x8000000000000000) up fun t => t.hub.atres == 2],
    (let s := hub1 fun h => { h with attest := some 0x100000000000 }; all [wfAll s, (countFrom 0 4).all fun k => (s.stack (fin 3 k)).ord.isEmpty, (s.hub.report 0x100000000000).length = 256, s.hub.dev.bad = []])] = true := by decide +kernel

/-- A pending message of class 3. -/
def pend3 : PendMsg := { cls := 3, src := ⟨false, 1⟩, len := 0, seq := 0, g1 := 1, g2 := 2, g3 := 3, area := [], handler := none, stamp := some 9 }
/-- Task 7 placed with one slot that hosts stage 0, with a launch record. -/
def slot0 : SlotPlan := ⟨0, 0, [], [], [], [], [], [], [], [], [], [stageRes 0]⟩
/-- The mapper's choices for it, in one column. -/
def plan7 (c : ColId) : MapperPlan := ⟨[c], [⟨[], [], [], []⟩], [], [], [], [], ptb7, 0⟩
def place7 : Placement := ⟨plan7 0, [slot0]⟩
/-- A small task 7 in column 0. -/
def small (l : List (Nat × Nat × Nat)) (st : TaskSt) : Task := { newTask 7 (record l) 0x30000 0 0 0 with st := st, cols := [0], place := some place7 }
/-- Column 0 of partition 0 holds a task as a band of one slot, and address space 7 is in place. -/
def holding (t : Task) (s : State := up) : State :=
  paged ((s.modCol 0 fun x => { x with band := some ⟨7, 0, 1, false, false, false⟩, part := some 0 }).modHub fun h => { h with tasks := [t], queues := vset h.queues 0 [7] })

theorem witness_MessageEvents : all [
    (let o : OutMsg := ⟨[.col 1], msg3, false, 0⟩
     let s := held.modCpu (.col 0) fun u => { u with outq := [o], seqTx := [((Target.col 1).key, 0xFFF)] }
     all [s.sendReady (.col 0) 0, s.hub.pwr = .run, (match s.fate (.col 1) o.msg with | .go => true | _ => false), s.msgs = [],
       runs (.messageDepart (.col 0) 0) s fun t => (t.cpu (.col 0)).outq.isEmpty && t.msgs.any fun f => f.msg.seq == 0xFFF]),
    (let s := held.modCpu (.col 0) fun u => { u with outq := [⟨[.col 255], msg3, false, 0⟩] }
     all [s.taskOf 255 = none, s.sendReady (.col 0) 0, runs (.messageDepart (.col 0) 0) s fun t => (t.cpu (.col 255)).dropmsg == 1]),
    (let s := { armed0 held with msgs := [⟨.col 0, msg3, 0⟩] }
     all [takes s 3, s.msgs.any (·.before ⟨.col 0, msg3, 0⟩) = false, (s.col 0).gated = false, msg3.sub = 0, msg3.comp = false, runs (.messageLand 0) s fun t => t.msgs.isEmpty && (t.cpu (.col 0)).pend.any fun m => m.g1 == 1 && m.g3 == 3]),
    (let s := (armed0 held).modCpu (.col 0) fun u => { u with pend := [pend3], lclk := 4 }
     all [s.canDispatch (.col 0), (s.cpu (.col 0)).ready ≤ s.now, (s.cpu (.col 0)).choose = some (0, 0), (s.cpu (.col 0)).selfq = [],
       runs (.messageDispatch (.col 0)) s fun t => t.pc (.col 0) == 0x100 && t.reg (.col 0) 2 == 2 && t.reg (.col 0) 5 == 0x16F18 && (t.cpu (.col 0)).lclk == 10 && (t.cpu (.col 0)).ready == 3]),
    (let s := { held.modCpu (.col 255) fun u => { u with dictTx := [(17, Dict.empty)] } with resets := [(1, 1, 255)] }
     all [((s.cpu (.col 255)).dictTx.lookup 17).isSome, runs (.dictResetRequest 0) s fun t => t.resets.isEmpty && ((t.cpu (.col 255)).dictTx.lookup 17).any (·.plain)]),
    (let tk := { small [(0xC0, 8, 0x20000), (0xC8, 8, 384)] .preempted with spill := [⟨0, msg3, false⟩] }
     let s := holding tk
     all [s.task? 7 = some tk, tk.spillStop = none, tk.spillCap = 1, s.hub.admits 24 0 4, s.hub.engWeight (s.taskSpace 7).2 5 ≠ 0,
       okAnd (s.spillPut (s.taskSpace 7).1 (s.taskSpace 7).2 (tk.spillAt + 64 + tk.delivered % tk.spillCap * 320) (dwords (spillRecord msg3))) fun s1 =>
         okAnd (s1.spillPut (s.taskSpace 7).1 (s.taskSpace 7).2 tk.spillAt (tk.spillHeader tk.delivered 1)) fun _ => true,
       runs (.spillRecordWrite 7 0) s fun t => t.hub.dev.byte 0x20040 == 3])] = true := by decide +kernel

/-- Object header at 0x10000: 64 bytes, then two section entries, an empty graph and a launch template, and the template. -/
def objBytes0 : List Byte :=
  leBytes 8 (0x4F4B5654 + 0x0100 * 2 ^ 32 + 2 * 2 ^ 48) ++ leBytes 8 384 ++ leBytes 8 64 ++ List.replicate 40 0 ++
  leBytes 8 1 ++ leBytes 8 128 ++ List.replicate 16 0 ++ leBytes 8 7 ++ leBytes 8 128 ++ leBytes 8 256 ++ leBytes 8 0 ++ List.replicate 256 0
/-- SHA3-256 of no bytes (FIPS 202). -/
def emptyHash : Nat := 0xa7ffc6f8bf1ed76651c14756a061d662f580ff4de43b49fa82d80a4b80f8434a
def emptyHashBytes : List Byte := (countFrom 0 32).map fun i => BitVec.ofNat 8 (emptyHash / 2 ^ (8 * (31 - i)))
/-- Task 7 waits with that object; column 0 is free. -/
def waiting : Task := { small [(8, 6, 0x10000)] .queued with record := (record [(8, 6, 0x10000)]).take 0x10 ++ emptyHashBytes ++ (record []).drop 0x30, cols := [], place := none }
def waits0 : State := dev0 0x10000 objBytes0 ((holding waiting).modCol 0 fun x => { x with band := none })
/-- The mapper has been asked for it. -/
def placing0 : State := waits0.modHub fun h => { h with tasks := [{ waiting with st := .placing }], queues := vfill 16 [] }
theorem test_sha3_of_nothing : sha3 [] = emptyHashBytes := by decide +kernel
theorem witness_TaskEvents : all [
    (let s := waits0
     all [s.hub.serving = some 0, s.hub.subject 0 = some waiting, s.hub.pwr = .run, waiting.recordStatus 0 0 = none,
       okAnd (s.placement waiting (plan7 0)) fun l => s.placeOk waiting l.obj l.code (plan7 0), runs (.taskPlace 0 .later) s (fun t => t.hub.turn == 1 && t.hub.queues.get 0 == [7]),
       runs (.taskPlace 0 .asked) s (fun t => t.hub.turn == 0 && t.hub.queues.get 0 == [] && (t.task? 7).any fun x => x.st == .placing),
       runs (.taskPlace 0 (.refused 6)) s (fun t => t.hub.tasks.any fun x => x.st == .ended), runs (.taskPlace 0 (.placed (plan7 0))) s fun t => (t.task? 7).any (fun x => x.st == .loading) && (t.col 0).band.isSome]),
    (let s := placing0
     all [s.hub.serving = some 0, (s.hub.subject 0).any fun k => k.st == .placing, runs (.taskPlace 0 .later) s fun t => t.hub.turn == 1 && t.hub.queues.get 0 == [7] && (t.task? 7).any fun x => x.st == .queued]),
    (let tk := small [(0x72, 1, 3), (0x78, 8, 0x55)] .loading
     let s := armed0 (holding tk)
     all [s.task? 7 = some tk, s.loaded tk, tk.cols[tk.eslot]? = some 0, (s.col 0).drift.next = none, (s.col 0).parkedMap = 0, s.finished (.col 0) = false, tk.eclass < 32, (s.cpu (.col 0)).armed tk.eclass,
       runs (.entryMessage 7) s fun t => (t.task? 7).any (fun x => x.st == .running) && (t.cpu (.col 0)).pend.any fun m => m.cls == 3 && m.area.head? == some 0x55]),
    (let tk := small [(0x90, 6, 0x20010)] .running
     let s := (holding tk).modCol 0 fun x => { x with band := some ⟨7, 0, 1, false, true, false⟩ }
     all [s.task? 7 = some tk, wfAll s, tk.stageSlots = [0], (s.col 0).stagesDone, (s.cpu (.col 0)).outq = [], (s.cpu (.col 0)).storeQ = [],
       runs (.taskRetire 7) s fun t => (t.task? 7).any (fun x => x.st == .ended) && (t.col 0).band.isNone])] = true := by decide +kernel

/-- One data token with a payload, due at once at i0 of element e. -/
def flight (e : ElemId) (t : Token) : Flight := ⟨t, .port ⟨at0 e, 0⟩, .port ⟨at0 e, 0⟩, 0⟩
/-- Tokens queued at i0 of element e. -/
def queue (e : ElemId) (ts : List Token) (s : State) : State :=
  s.modCtx (at0 e) fun x => { x with q := vset x.q 0 ⟨ts.map (fun t => ⟨t, .port ⟨at0 e, 0⟩, 0⟩), 4, false⟩ }
theorem witness_SchedulingEvents : all [
    (let s := { up with now := 290000 }; all [(s.hub.tick + 1) * 290000 ≤ s.now, runs (.dispatchTick [105, 95]) s fun t => t.hub.tick == 1 && t.hub.skip.get 0 && !t.hub.skip.get 1]),
    runs (.dthermWrite 0x1FF60) up (fun t => t.hub.reg 0x0E0108 == 0x15F69), runs (.dthermWrite 0x15F60) up (fun t => t.hub.reg 0x0E0108 == 0x15F60),
    (let tk := small [] .running
     let s := { holding tk with now := 200 * 290000 }
     all [s.task? 7 = some tk, bitsNat (s.hub.reg 0x0E0100) 15 0 ≠ 0, tk.started + tk.offQ + bitsNat (s.hub.reg 0x0E0100) 15 0 * 290000 ≤ s.now, runs (.quantumExpiry 7) s fun t => (t.task? 7).any (·.expired)]),
    (let s := waits0.modHub fun h => { h with tick := 500 }
     all [s.task? 7 = some waiting, waiting.level < 15, bitsNat (s.hub.reg 0x0E0180) 15 0 ≠ 0, waiting.since + bitsNat (s.hub.reg 0x0E0180) 15 0 ≤ s.hub.tick,
       runs (.starvationPromotion 7) s fun t => (t.task? 7).any (fun x => x.level == 1 && x.promoted) && t.hub.queues.get 1 == [7] && t.hub.queues.get 0 == []]),
    (let tk := small [] .running
     let tk := { tk with waited := 2 ^ 24 }
     let s := queue 2 [dataToken 1 0 false] (armed0 (holding tk))
     all [s.task? 7 = some tk, (s.col 0).holdsToken, s.debugged tk = false, s.stopped tk = false, (s.taskFlow 3 tk).waited = 2 ^ 24 + 3, tk.cols.head? = some 0, (s.cpu (.col 0)).armed 19, (s.cpu (.col 0)).pendCount < 64,
       runs (.watchdog 7) s fun t => (t.cpu (.col 0)).pend.any fun m => m.cls == 19 && bitsNat m.g1 7 0 == 21]),
    (let tk := { small [] .running with spillStop := some 0x20000 }
     let s := { holding tk with now := 4096 }
     all [s.stoppedOnPage tk, tk.fired + 4096 ≤ s.now, runs (.faultQuiescent 7) s fun t => (t.task? 7).any (·.expired)])] = true := by decide +kernel
theorem witness_TaskCommandEvents : all [
    (let s := waits0.modHub fun h => { h with tstat := vfill 8 1 }; all [s.hub.bstep = 9, (s.hub.tstat.get 0).getLsbD 0, runs (.tcmdSuspend 0 0x30000) s fun t => t.hub.tstat.get 0 == 5]),
    all [waits0.hub.taskAt 0 0x30040 = none, waits0.hub.taskAt 0 0x30000 = some waiting, waiting.st = .queued, runs (.tcmdKill 0 0x30040) waits0 (fun t => t.hub.tstat.get 0 == 2),
      runs (.tcmdSuspend 0 0x30000) waits0 (fun t => (t.task? 7).any (fun x => x.st == .suspended) && runs (.tcmdRelease 0 0x30000) t fun t => (t.task? 7).any (fun x => x.st == .queued) && t.hub.queues.get 0 == [7]),
      runs (.tcmdKill 0 0x30000) waits0 (fun t => (t.task? 7).any fun x => x.st == .ended), runs (.tcmdRelease 0 0x30000) waits0 fun t => t.hub.tstat.get 0 == 6],
    (let s := holding (small [] .running); all [s.hub.taskAt 0 0x30000 = some (small [] .running), runs (.tcmdSuspend 0 0x30000) s fun t => (t.task? 7).any (fun x => x.st == .preempting) && t.hub.tstat.get 0 == 1,
      runs (.tcmdKill 0 0x30000) s fun t => (t.task? 7).any fun x => x.ending == some 8])] = true := by decide +kernel
/-- Task 8 waits one level above task 7, which runs. -/
def rival : State := (holding (small [] .running)).modHub fun h => { h with tasks := h.tasks ++ [{ waiting with id := 8, level := 1, home := 1 }], queues := vset (vfill 16 []) 1 [8] }
/-- Column 0 of a task that leaves its column. -/
def leaving (p : PreStep) (l : List (Nat × Nat × Nat)) : State := (holding (small l .preempting)).modCol 0 fun x => { x with pre := p }
/-- Columns 0 and 1 of a task that leaves both. -/
def leavingTwo : State :=
  ((holding { small [] .preempting with cols := [0, 1] }).modCol 0 fun x => { x with pre := .drained }).modCol 1 fun x => { x with pre := .drained, band := some ⟨7, 1, 2, false, false, false⟩ }
/-- A column with a free shelf saves its image there, whatever the image holds. -/
theorem saveImage_of_freeShelf (s : State) (t : Task) (k h : Nat) (c : ColId) (hf : (s.col c).freeShelf = some h) : ∃ e, s.saveImage t k c = some e := by
  simp only [State.saveImage, hf]; exact ⟨_, rfl⟩
theorem witness_checkpointSaved : (∃ e, (leaving .drained []).saveImage (small [] .preempting) 0 0 = some e) ∧ ∃ e, leavingTwo.saveImage { small [] .preempting with cols := [0, 1] } 0 0 = some e :=
  ⟨saveImage_of_freeShelf _ _ _ 0 _ (by decide +kernel), saveImage_of_freeShelf _ _ _ 0 _ (by decide +kernel)⟩
theorem witness_PreemptionEvents : all [
    all [rival.task? 7 = some (small [] .running), (rival.hub.candidate 0).any fun k => k.id == 8 && (rival.victim k).any fun v => v.id == 7,
      runs (.preempt 7) rival fun t => (t.task? 7).any (fun x => x.st == .preempting) && (t.col 0).pre == .stopped],
    (let s := leaving .stopped []; all [(s.col 0).pre = .stopped, s.mayHalt 0, runs (.preemptSequencerHalt 0) s fun t => (t.col 0).pre == .halted]),
    (let s := leaving .halted []; all [(s.settleFrost 0).drainable 0, (s.taskOf 0).any fun k => k.ending == none, runs (.preemptDrained 0) s fun t => (t.col 0).pre == .drained]),
    all [(leaving .drained []).taskOf 0 = some (small [] .preempting), ((leaving .drained []).col 0).pre = .drained, ((leaving .drained []).col 0).freeShelf = some 0],
    all [(leavingTwo.col 0).pre = .drained, (leavingTwo.col 1).pre ≠ .saved, (leavingTwo.col 0).freeShelf = some 0],
    (let tk := { small [(8, 6, 0x10000)] .preempted with record := waiting.record }
     let s := (dev0 0x10000 objBytes0 (holding tk)).modCol 0 fun x => { x with band := none }
     let s' := (s.modCol 0 fun x => { x with band := some ⟨9, 0, 1, false, false, false⟩ }).modCol 1 fun x => { x with part := some 0 }
     all [s.task? 7 = some tk, s.hub.serving = some 0, (s.hub.subject 0).any fun k => k.id == 7, s.freeFor tk 0, tk.place = some place7, s.linksOk tk.drift (plan7 0), okAnd (s.placement tk (plan7 0)) fun _ => true,
       runs (.taskRestore 7 .later) s (fun t => (t.task? 7).any fun x => x.st == .running && x.cols == [0]),
       s'.task? 7 = some tk, s'.hub.serving = some 0, (s'.hub.subject 0).any fun k => k.id == 7, s'.freeFor tk 0 = false, okAnd (s'.placement tk (plan7 1)) fun l => s'.placeOk tk l.obj l.code (plan7 1),
       runs (.taskRestore 7 (.placed (plan7 1))) s' fun t => (t.task? 7).any fun x => x.st == .running && x.cols == [1]])] = true := by decide +kernel

end Sys2Proof.Tests
end

