-- ==== Sys2Proof/Tests/Witness5.lean ====
section
/-! SUPPORT. Witnesses: firings, tokens and markers, configuration, address generators, stores, links, hosts, records, partitions. -/

namespace Sys2Proof.Tests

open Sys2Proof Sys2Proof.Machine

set_option Elab.async false

/-- A firing of a context whose v registers hold 1 in every 32-bit lane. -/
def fire0 : Fire := ⟨{ Ctx.empty with v := vfill 8 (BitVec.ofNat 256 (packLanes 32 (List.replicate 8 1))) }, vfill 32 0, vfill 16 127, 0, vfill 4 [], false, false, []⟩
theorem witness_IntegerElementWordsWorkLaneByLane : all [
    ([(1, 2), (2, 0), (3, 1), (5, 2), (10, 1), (11, 1), (12, 0), (6, 1), (7, 1)] : List (Nat × Nat)).all fun q =>
      let e : EW := ⟨q.1, 7, 1, 2, 5, 3, 0, 0⟩
      all [isReg e.d, isReg e.a, isReg e.b, e.t ≤ 5, 7 < 256 / laneW e.t, q.1 = 5 || laneOf ((execEword fire0 e).ctx.v.get 7).toNat 32 7 == q.2],
    [(EOp.vadd, 1), (.vsub, 2), (.vmul, 3), (.vmad, 5), (.vand, 10), (.vor, 11), (.vxor, 12), (.vmin, 6), (.vmax, 7)].all fun q => opOf ⟨q.2, 7, 1, 2, 5, 3, 0, 0⟩ == q.1] = true := by decide +kernel

/-- Column 0 has its link allowances. -/
def rich (s : State) : State := s.modCol 0 fun x => { x with budL := vfill 8 0x1FFF, budV := vfill 8 0x1FFF }
theorem witness_FiringAndCreditEvents : all [
    (let s := queue 0 [dataToken 5 31 false] (rich (live 0 hdrCp wordAdd toEl1))
     let s := s.modCtx (at0 1) fun x => { x with st := .live, hdr := hdrCp, prog := vset x.prog 0 wordAdd }
     let x := s.ctx (at0 0)
     all [(s.elem 0 0).busy ≤ s.now, s.candidate (at0 0), ([1, 2, 3] : List CtxId).all (fun j => !s.candidate ⟨0, 0, j⟩), x.mergeWord = none, hRole x.hdr = .cp, x.words.all fun w => !isAgWord (opOf w),
       runs (.elementFiring 0 0) s fun t => (t.elem 0 0).busy == 1 && ((t.ctx (at0 0)).q.get 0).toks.isEmpty && t.credits.any (fun y => y.feeder == .port ⟨at0 0, 0⟩) && t.flights.any fun f => f.tok.payload == 5]),
    (let s := queue 2 [dataToken 5 0 false] held; all [(s.cyc 0).toNat % 256 = 0, stackOf 0 = 0, (s.col 0).band.isSome, runs (.arbiterEpoch 0) s fun t => (t.elem 0 2).w.get 0 == 2 && (t.elem 0 2).w.get 1 == 1]),
    ([Feeder.port ⟨at0 3, 2⟩, .exit 255 127, .inj 15 0, .turn 3 1, .frost 9].all fun y => let s := { up with credits := [⟨y, 0⟩] }; runs (.creditReturn 0) s fun t => t.credits.isEmpty && t.freeOf y == s.freeOf y + 1),
    (let s := { mergeState 0x30004 8 with decs := [⟨at0 1, at0 5, 0⟩] }
     all [(s.ctx (at0 1)).st = .live, s.admitsFirst ⟨at0 1, at0 5, 0⟩ = false, (s.ctx (at0 1)).mergeWord.isSome, bitsNat ((s.ctx (at0 1)).c.get 4) 31 16 = 3, runs (.mergeDecrement 0) s fun t => (t.ctx (at0 1)).c.get 4 == 0x20004]),
    runs (.mergeDecrement 0) { mergeState 4 8 with decs := [⟨at0 1, at0 5, 0⟩] } (fun t => (t.elem 0 1).droptok == 1),
    runs (.mergeDecrement 0) { held with decs := [⟨at0 1, at0 5, 0⟩] } (fun t => (t.elem 0 5).droptok == 1)] = true := by decide +kernel

theorem witness_TokenAndMarkerEvents : all [
    (let s := { live 0 hdrCp wordAdd toEl1 with flights := [flight 0 (dataToken 5 0 false)] }
     all [(s.ctx (at0 0)).st = .live, hCi (s.ctx (at0 0)).hdr 0 ≠ 0, (s.col 0).drift.forced = none, (s.ctx (at0 0)).isHeld = false, (s.ctx (at0 0)).mergeWord = none,
       runs (.tokenLand 0) s fun t => t.flights.isEmpty && ((t.ctx (at0 0)).q.get 0).toks.length == 1]),
    (let s := { held with flights := [flight 0 (dataToken 5 0 false)] }
     all [(s.ctx (at0 0)).st = .empty, runs (.tokenLand 0) s fun t => (t.elem 0 0).droptok == 1 && t.credits.any fun y => y.feeder == .port ⟨at0 0, 0⟩]),
    (let s := { live 0 (hdrCp - 0x2000) wordAdd toEl1 with flights := [flight 0 (dataToken 5 0 false)] }; all [(s.ctx (at0 0)).st = .live, hCi (s.ctx (at0 0)).hdr 0 = 0]),
    (let s := { held with flights := [⟨dataToken 5 0 false, .frost 0, .frost 0, 0⟩] }; runs (.tokenLand 0) s fun t => (t.col 0).fab.q.length == 1),
    (let s := queue 0 [markerToken 1 7] (live 0 hdrCp wordAdd toEl1)
     all [(s.ctx (at0 0)).stopped = false, s.fires 0, ((s.heads (at0 0)).alignsAt (at0 0)).any fun m => m.sub == 1 && !(s.heads (at0 0)).swapsOn (at0 0) m,
       runs (.markerAlign 0 0 0) s fun t => ((t.ctx (at0 0)).q.get 0).toks.isEmpty && t.flights.any fun f => f.tok.marker && f.tok.sub == 1]),
    runs (.flitHeaderDrop (.token 0)) { held with flights := [flight 0 (dataToken 5 0 false)] } (fun t => t.flights.isEmpty && t.credits.length == 1),
    runs (.flitHeaderDrop (.control 0)) { held with ctl := [⟨⟨ctlHeader 0 0 0 0 0, 0, false⟩, 0, none⟩] } (fun t => t.ctl.isEmpty),
    (let s := ({ held with msgs := [⟨.col 0, msg3, 0⟩] } : State).modCpu (.col 0) fun u => { u with grants := 1 }
     all [msg3.needsEntry, (s.cpu (.col 0)).selfq = [], runs (.flitHeaderDrop (.message 0)) s fun t => t.msgs.isEmpty && (t.cpu (.col 0)).grants == 0])] = true := by decide +kernel

/-- A control token for context 0 of element 4, and its payload: a header, a seed, no constants, one word and its route. -/
def ctl4 (pidx plen : Nat) (bad : Bool) : CtlFlight :=
  ⟨⟨ctlHeader 0 4 pidx plen 0, BitVec.ofNat 256 (packLanes 32 ([hdrCp, 9, 0x1000, wordAdd, BitVec.setWidth 32 toEl1].map (·.toNat))), bad⟩, 0, none⟩
theorem witness_ConfigurationEvents : all [
    (let s := { held with ctl := [ctl4 0 0 true] }; all [ctlDest (ctl4 0 0 true).tok.hdr = at0 4, s.atRest (at0 4), runs (.configTokenArrive 0) s fun t => (t.ctx (at0 4)).st == .parked && t.ctl.isEmpty]),
    (let s := { held with ctl := [ctl4 0 2 false] }; all [ctlOk (ctl4 0 2 false).tok.hdr, (s.ctx (at0 4)).st ≠ .loading,
      runs (.configTokenArrive 0) s fun t => (t.ctx (at0 4)).st == .loading && (t.ctx (at0 4)).load.any (fun l => l.plen == 2 && l.next == 1) &&
        runs (.configTokenArrive 0) { t with ctl := [ctl4 1 2 false] } fun t => (t.ctx (at0 4)).st == .loading && (t.ctx (at0 4)).load.any fun l => l.next == 2]),
    (let s := ({ held with ctl := [ctl4 0 0 false] } : State).modCtx (at0 4) fun x => { x with st := .loading, load := some ⟨0, 0, []⟩ }
     all [(s.ctx (at0 4)).st = .loading, (match parsePart 0 (payloadWords (ctl4 0 0 false).tok.payload) with
       | some p => progOk p.hdr p.prog && ({ s with ctl := [] } : State).routesOk (at0 4) p.hdr (ewsOf p.prog) p.routes | none => false),
       runs (.configTokenArrive 0) s fun t => (t.ctx (at0 4)).st == .live && (t.ctx (at0 4)).hdr == hdrCp && (t.ctx (at0 4)).seed == 9]),
    (let l : Cfgl := ⟨0x100, 1, 0, 0, 3, none, [], 0, 0⟩
     let s := (near0 0x100 [0x400 + 1, 5, 6, 7, 8] held).modCol 0 fun x => { x with cfgl := some l }
     let q := s.nearWords (.col 0) 0x100 5
     all [cfglOk (wordAt q.1 0) (q.2.2.col 0).bandSize, q.2.2.slotCol 0 1 = some 1, runs (.cfglEntrySend 0) s fun t => (t.col 0).cfgl.any (fun l => l.next == 1) && t.ctl.any fun y => ctlDest y.tok.hdr == ⟨1, 4, 0⟩]),
    (let l : Cfgl := ⟨0x100, 1, 0, 0, 3, none, [], 0, 0⟩
     let s := (near0 0x100 [2, 5, 6, 7, 8] held).modCol 0 fun x => { x with cfgl := some l }
     let q := s.nearWords (.col 0) 0x100 5
     all [cfglOk (wordAt q.1 0) (q.2.2.col 0).bandSize = false, runs (.cfglEntrySend 0) s fun t => (t.col 0).cfgl.any fun l => l.badIdx == some 0]),
    (let s := (armed0 (live 4 hdrCp wordAdd toEl1)).modCol 0 fun x => { x with cfgl := some ⟨0x100, 1, 1, 0, 3, none, [⟨at0 4, true, some (true, 0)⟩, ⟨at0 4, false, none⟩], 0, 0⟩ }
     all [takes s 3, runs (.cfglComplete 0) s fun t => (t.col 0).cfgl.isNone && (t.cpu (.col 0)).pend.any fun m => m.cls == 3 && m.g3 == 1])] = true := by decide +kernel

/-- A live AG context with a stream. -/
def streams (m : Stream) : State := (rich (live 3 hdrAg wordAgseq toEl1)).modCtx (at0 3) fun x => { x with strm := some m }
/-- A stream that has issued all. -/
def spent : Stream := { streamOf [0, 0, 2, 0] 0x100 0 with next := 0, allIssued := true, issuedReqs := 1, eosDone := true, nElems := 3 }
theorem witness_AddressGeneratorEvents : all [
    (let s := streams { spent with out := [dataToken 5 0 false] }
     let f := s.formReplies (at0 3)
     all [s.sends (at0 3), (f.ctx (at0 3)).strm.any (fun m => all [m.next ≤ s.now, m.out.length = 1, m.dout = 0, f.canEmit (at0 3) m.dout]), (routeOf ((s.ctx (at0 3)).routes.get 0)).head = .dests [swOf toEl1],
       (routeOf ((s.ctx (at0 3)).routes.get 0)).turn = none, (swOf toEl1).form = 2, runs (.agReplyEmit 0 3 0) s fun t => t.flights.any fun f => f.tok.payload == 5 && f.dest == .port ⟨at0 1, 0⟩]),
    (let s := streams spent
     all [((s.formReplies (at0 3)).ctx (at0 3)).strm.any fun m => all [m.cen, m.compDone = false, m.drained, m.eosDue = false, m.next ≤ s.now],
       runs (.streamCompletionToken 0 3 0) s fun t => (t.ctx (at0 3)).strm.all (·.compDone) && t.flights.any fun f => bitsNat f.tok.payload 31 0 == 3]),
    (let s := (streams spent).modCtx (at0 3) fun x => { x with c := vset x.c 6 1 }
     all [((s.ctx (at0 3)).c.get 6).getLsbD 0, spent.nextGroup ((s.ctx (at0 3)).c.get 6) = some 1, s.canEmit (at0 3) (c6Port ((s.ctx (at0 3)).c.get 6)),
       runs (.completionTokenEmit 0 3 0) s fun t => (t.ctx (at0 3)).strm.any (fun m => m.covered == 1) && t.flights.any fun f => f.tok.valid == 1])] = true := by decide +kernel

/-- Bits with corrected errors in the near store of column 0 and in its vertical store. -/
def soft0 : State := up.modCol 0 fun x => { x with vert := { x.vert with soft := [3, 70] }, cpu := { x.cpu with near := { x.cpu.near with soft := [5, 640] } } }
/-- The links in recovery since cycle 0. -/
def retraining (l : List LinkRef) (s : State := up) : State := s.modHub fun h => { h with retrain := l.map fun k => (k, 0) }
theorem witness_StoreBusAndLinkEvents : all [
    runs (.eccWriteback (.col 0) true 1) soft0 (fun t => (t.col 0).vert.soft == [3]), runs (.eccWriteback (.col 0) false 0) soft0 (fun t => (t.cpu (.col 0)).near.soft == [640]),
    (let s := up.modCol 0 fun x => { x with buses := vset x.buses 3 ⟨0, 2, 1024⟩ }; all [1024 ≤ ((s.col 0).buses.get 3).run, runs (.vbusRetire 0 3) s fun t => (t.col 0).vret == 8]),
    (let s := up.modCol 0 fun x => { x with buses := vset x.buses 0 ⟨64, 0, 0⟩ }; all [64 ≤ ((s.col 0).buses.get 0).unc, runs (.vbusRetire 0 0) s fun t => (t.col 0).vret == 1]),
    (let s := (up.modStack 3 fun x => { x with cyc := 0x40000000 }).modCol 255 fun x => { x with buses := vset x.buses 0 ⟨9, 0, 0⟩ }
     all [(s.cyc 3).toNat / 2 ^ 30 ≠ (s.stack 3).window, stackOf 255 = 3, runs (.vbusErrorWindow 3) s fun t => ((t.col 255).buses.get 0).unc == 0 && (t.stack 3).window == 1]),
    all [up.hub.bstep = 9, runs (.vretWrite 255 0xA) up fun t => (t.col 255).vret == 0xA],
    all [(up.hub.retrain.any fun r => r.1 == .ucie 7) = false, (up.hub.retrain.any fun r => r.1 == .pcie) = false, runs (.linkRetrain (.ucie 7) false) up (fun t => t.hub.reg 0x0E0AC0 == 0x100000000),
      runs (.linkRetrain .pcie true) up (fun t => t.hub.reg 0x0E0AC8 == 1)],
    (let s := retraining [.pcie]; all [s.hub.retrain.any fun r => r.1 == .pcie, runs (.linkRetrain .pcie true) s fun t => t.hub.retrain.isEmpty && t.hub.reg 0x0E0AC8 == 0x100000000]),
    (let s := { retraining [.ucie 7] (holding (small [] .running)) with now := 2900000 }
     all [(s.hub.retrain.find? fun r => r.1 == .ucie 7) = some (.ucie 7, 0), 0 + 2900000 ≤ s.now, s.task? 7 = some (small [] .running), (s.hub.tasks.map (·.id)).Nodup,
       runs (.linkOutOfService (.ucie 7) [7]) s fun t => !t.hub.links.get 7 && (t.task? 7).any fun x => x.ending == some 7]),
    (let s := { retraining [.pcie] (holding (small [] .running)) with now := 2900000 }; all [(s.hub.retrain.find? fun r => r.1 == .pcie) = some (.pcie, 0), 0 + 2900000 ≤ s.now, runs (.linkOutOfService .pcie []) s fun t => !t.hub.pcieUp]),
    (let s := hub1 fun h => { h with pciemode := 2, regs := [(0x0F0130, 1)] }
     all [s.hub.pciemode ≠ 0, (s.hub.reg (0x0F0130 + 0x1000 * (0 : PartId).val)).getLsbD 0 = true, s.hub.evHeld.get 0 = [], runs .pcieEndpointLinkDown s fun t => (t.hub.evHeld.get 0).any fun r => r.bytes.take 2 == [2, 11]])] = true := by decide +kernel

/-- The first byte of LPDDR6. -/
def lp : Nat := 0x100000000000
theorem witness_KeanoAndHostAccesses : all [
    (let s := dev0 (lp + 8) [1, 2, 3, 4, 5, 6, 7, 8] up
     all [s.hub.bstep = 9, wfAll s, s.hub.channel? (lp + 12) = some 16, [1, 2, 4, 8].contains 4, (lp + 12) % 4 = 0, s.hub.dev.isBad ((lp + 12) / 64) = false,
       runs (.keanoDeviceAccess ⟨15, lp + 12, 4, false, true, .load⟩) s (fun t => t.hub.signals == [.loaded 15 0x08070605]),
       runs (.keanoDeviceAccess ⟨15, lp + 12, 4, false, false, .store 0xAABBCCDD⟩) s (fun t => t.hub.dev.rawWord (lp / 8 + 1) == 0xAABBCCDD04030201),
       runs (.keanoDeviceAccess ⟨15, lp + 12, 4, false, true, .amo 0 1⟩) s (fun t => t.hub.dev.rawWord (lp / 8 + 1) == 0x0807060604030201),
       runs (.keanoDeviceAccess ⟨15, lp + 12, 4, false, true, .lr⟩) s (fun t => t.hub.signals == [.loaded 15 0x08070605] && t.hub.kres == [(15, (lp + 12) / 64)] &&
         runs (.keanoDeviceAccess ⟨15, lp + 12, 4, false, true, .sc 9⟩) t fun t => t.hub.kres.isEmpty && t.hub.dev.rawWord (lp / 8 + 1) == 0x0904030201),
       runs (.keanoDeviceAccess ⟨15, lp + 12, 4, false, true, .sc 9⟩) s (fun t => t.hub.signals == [.loaded 15 1]),
       runs (.keanoDeviceAccess ⟨15, lp + 12, 4, false, false, .lr⟩) s (fun t => t.hub.signals == [.loadFault 15])]),
    (let s := hub1 fun h => { h with dev := { h.dev with bad := [lp / 64] } }
     all [s.hub.dev.isBad (lp / 64), runs (.keanoMemoryError 0 lp false) s fun t => t.hub.reg 0x0E0A80 == 0x100000000 && t.hub.signals.length == 2]),
    all [up.hub.dev.presence (lp / 8) = none, up.deferCount ⟨.dev, 0, lp⟩ < 16, runs (.keanoDeviceAccess ⟨3, lp, 8, true, false, .load⟩) up fun t => t.hub.keano == [⟨3, lp, 8, 0⟩]],
    (let s := { hub1 fun h => { h with keano := [⟨3, lp, 8, 0⟩] } with now := 2 ^ 32 }
     all [bitsNat (s.hub.reg 0x0E0D40) 47 0 ≠ 0, 0 + bitsNat (s.hub.reg 0x0E0D40) 47 0 ≤ s.now, s.hub.dev.presence (lp / 8) = none, runs (.saDeferTimeout 0) s fun t => t.hub.keano.isEmpty && t.hub.signals == [.loadFault 3] && t.hub.reg 0x0E0D48 == 1]),
    (let bs : List Byte := [9, 8, 7]
     all [up.hub.pcieUp, up.hub.pciemode = 0, (countFrom 0 3).all fun j => (up.hub.channel? (lp + 5 + j)).isSome && !up.hub.dev.isBad ((lp + 5 + j) / 64),
       runs (.pcieInboundAccess ⟨.dma, lp + 5, bs, 0⟩) up fun t => runs (.pcieInboundAccess ⟨.dma, lp + 4, [], 4⟩) t fun t => t.hub.signals == [.pcie [0, 9, 8, 7]]]),
    (let s := hub1 fun h => { h with pciemode := 1, hostpart := 3 }
     all [s.hub.bstep = 9, s.hub.pcieUp, s.hub.pciemode = 1, runs (.pcieInboundAccess ⟨.bar0, 0x1010, leBytes 8 5, 0⟩) s fun t => t.hub.lrej.get 3 == 1])] = true := by decide +kernel

/-- A record of n bytes. -/
def rec0 (n : Nat) : List Byte := List.replicate n 1
/-- The trace and statistics rings of partition 0: on, 2^8 units at device address 0x20000. -/
def rings0 : State := hub1 fun h => { h with regs := [(partReg 0 0x200, 0x20000), (partReg 0 0x208, 0x108), (partReg 0 0x240, 0x30000), (partReg 0 0x248, 0x108)] }
theorem witness_RecordEvents : all [
    (let s := (armed0 up).modCol 0 fun x => { x with fired := [(⟨0x17FF8, ⟨.near, 0, 0⟩, 5, 3⟩, 9, true)] }
     all [takes s 15, runs (.watchFire 0 0) s fun t => (t.col 0).fired.isEmpty && (t.cpu (.col 0)).pend.any fun m => m.g1 == 0x17FF8 && m.g2 == 9 && m.g3 == 0x20005]),
    (let s := rings0.modStack 0 fun x => { x with sinkQ := [⟨0, rec0 64⟩] }
     all [s.hub.traceOn 0, bitsNat (s.hub.reg (partReg 0 0x208)) 4 0 = 8, (s.hub.trTail.get 0).toNat < 2 ^ 8, ringUsed (bitsNat (s.hub.reg (partReg 0 0x210)) 31 0) (s.hub.trTail.get 0).toNat 8 + 2 < 2 ^ 8,
       runs (.traceRecordWrite 0) s fun t => t.hub.trTail.get 0 == 2 && (t.stack 0).sinkQ.isEmpty]),
    (let s := rings0.modHub fun h => { h with statQ := [(0, 0, 0, rec0 32)] }
     all [s.hub.statOn 0, bitsNat (s.hub.reg (partReg 0 0x248)) 4 0 = 8, ringUsed (bitsNat (s.hub.reg (partReg 0 0x250)) 31 0) (s.hub.stTail.get 0).toNat 8 + 2 < 2 ^ 8, runs (.statRingAppend 0) s fun t => t.hub.stTail.get 0 == 2]),
    (let s := (ring0 up).modHub fun h => { h with evHeld := vset h.evHeld 0 [⟨rec0 64, none⟩] }
     all [0 < s.hub.evFree 0, wfAll s, bitsNat (s.hub.reg (partReg 0 0x108)) 3 0 ≠ 0, (countFrom 0 64).all fun j => (s.hub.channel? (0x10000 + j)).isSome,
       runs (.eventRecordWrite 0) s fun t => t.hub.evTail.get 0 == 1 && t.hub.dev.byte 0x1003F == 1 && t.hub.signals.length == 1]),
    all [up.hub.bstep = 9, runs (.kclkWrite 15 41) up (fun t => t.hub.kclk.get 15 == 42), rings0.hub.traceOn 0, (rings0.stack 0).sinkQ.length < 64,
      runs (.ktraceWrite 15 7) rings0 fun t => t.hub.kclk.get 15 == 1 && (t.stack 0).sinkQ.any fun r => (r.bytes.drop 32).take 2 == [7, 0]]] = true := by decide +kernel

/-- A reassignment to partition 7 that is due. -/
def reassigning (shelf : Bool) : State :=
  { (hub1 fun h => { h with reassign := some ⟨shelf, 15, 0, 7, true, true, 5⟩ }).modCpu (.col 0) fun u => { u with near := { u.near with bytes := [⟨0x16800, 1⟩] } } with now := 5 }
theorem witness_PartitionEvents : all [
    (let s := up.modCol 255 fun x => { x with part := some 3 }
     all [(s.col 192).part = none, 192 / 64 = 3, runs (.pcolWrite 2 3 0x8000000000000001) s fun t => (t.col 192).part == some 2 && (t.col 255).part == some 3 && t.hub.perr == 4]),
    (let s := holding (small [] .running); all [(s.col 0).part = some 0, s.heldByTask 0, runs (.pcolWrite 0 0 0) s fun t => (t.col 0).part == some 0 && t.hub.perr == 1]),
    (let s := hub1 fun h => { h with pciemode := 2 }; all [s.hub.pcieUp, s.hub.pciemode ≠ 0, runs (.inboundMailboxWrite 15 9) s fun t => t.hub.mailIn.get 15 == 9 && t.hub.signals == [.mailbox 15]]),
    runs (.outboundMailboxWrite 15 9) up (fun t => t.hub.mailOut.get 15 == 9 && t.hub.signals.isEmpty),
    (let s := reassigning true; all [s.hub.reassign.isSome, runs (.reassignBank 0x8000000000000000) s (fun t => t.hub.rstat.getLsbD 4), (match s.hub.reassign with | some r => decide (r.due ≤ s.now) | none => false), wfAll s,
      runs .reassignDone s fun t => (t.col 0).shelfTag.get 15 == some 7]),
    (let s := reassigning false; all [((s.col 0).bankTag.get 15).getD ((s.col 0).part.getD 0) ≠ 7, 15 * 0x1800 ≤ 0x16800, runs .reassignDone s fun t => (t.col 0).bankTag.get 15 == some 7 && (t.col 0).nsmap == 0x8000 && (t.cpu (.col 0)).near.byte 0x16800 == 0]),
    all [up.hub.reassign = none, (up.col 0).shelfBusy 15 = false, runs (.reassignBank 0x800000000000EF00) up (fun t => t.hub.rstat.getLsbD 0 && (t.col 0).bankShut == 0x8000), runs (.reassignShelf 0x800000000000FF00) up fun t => (t.col 0).shelfShut == 0x8000],
    (let s := drift0 id; all [(s.col 0).shelfBusy 15, s.hub.bstep = 9, s.hub.reassign = none, runs (.reassignShelf 0x8000000000001F00) s fun t => t.hub.reassign.isNone && bitsNat t.hub.rstat 3 1 == 1]),
    (let s := (up.modStack 0 fun x => { x with cyc := 4096 }).modCol 0 fun x => { x with useL := vfill 8 9 }; all [(s.cyc 0).toNat / 4096 ≠ (s.stack 0).period, runs (.budgetPeriod 0) s fun t => (t.stack 0).period == 1 && (t.col 0).useL.get 7 == 0]),
    all [(up.col 0).drift.shelves.get 15 = .free, runs (.shpwrWrite 0 0x40000000) up fun t => (t.col 0).shpw.get 15 == 1 && runs (.shpwrWrite 0 0) t fun t => (t.col 0).shpw.get 15 == 3],
    (let s := up.modCol 0 fun x => { x with shpw := vset x.shpw 15 3, wasOff := 0x8000 }; all [(s.col 0).shpw.get 15 = 3, wfAll s, runs (.shelfWakeDone 0 15) s fun t => (t.col 0).shpw.get 15 == 0]),
    runs (.registerWrite 0x0E0AE0 (-1)) up (fun t => t.hub.reg 0x0E0AE0 == -1), runs (.registerWrite 0x0E0D40 (-1)) up (fun t => t.hub.reg 0x0E0D40 == 0xFFFFFFFFFFFF)] = true := by decide +kernel

end Sys2Proof.Tests
end

