-- ==== Sys2Proof/Tests/Witness6.lean ====
section
/-! SUPPORT. Witnesses: transfers and graphs, accesses, refills and kicks, frost, barriers, gather points and corner turns. -/

namespace Sys2Proof.Tests

open Sys2Proof Sys2Proof.Machine

set_option Elab.async false

/-- A block of task 7 whose words 0 and 7 are given. -/
def block (w0 w7 : DWord) (reply : Option (PortRef × BitVec 5) := none) : Xfer := { xfer0 with b := [w0, 0, 0, 0, 0, 0, 0, w7], reply := reply }
/-- Class 31, and class 5 with handler address 6; completion node 0xFFF. -/
def noMsg : DWord := 0xFFFF800000000000
def msg5 : DWord := 0xFFF2800600000000
/-- A transfer with no element left. -/
def spentMove (x : Xfer) : Moving := { x.moving with next := 4, total := 4, written := 64 }
/-- A request packet: N elements of i32 at address 0x100 for port i0 of element 1 of a slot. -/
def packet (slot n : Nat) : QTok := ⟨dataToken (BitVec.ofNat 256 (packLanes 32 [0x100, 0, n + 2 * 2 ^ 16, slot + 1 * 2 ^ 8])) 7 false, .exit 0 5, 0⟩
/-- Task 7 in columns 0 and 1, with engine weights. -/
def engines (f : Te → Te) : State := te0 7 f (paged held)
theorem witness_TransferAndGraphEvents : all [
    (let s := engines fun e => { e with q := [block 0 noMsg] }
     all [s.hub.pwr = .run, (block 0 noMsg).ok (s.bandOfTask 7), s.hub.engWeight (s.taskSpace 7).2 0 ≠ 0, runs (.transferStart 0 7) s fun t => ((t.stack 0).te.get 7).q.isEmpty && ((t.stack 0).te.get 7).cur.any fun m => m.x.ccls == 31]),
    (let x := block 0x1000000000000 noMsg
     let s := (engines fun e => { e with q := [x] }).modCol 0 fun y => { y with jobs := [5, 6] }
     all [x.ok (s.bandOfTask 7) = false, x.ccls = 31, x.node = none, runs (.transferStart 0 7) s fun t => ((t.stack 0).te.get 7).cur.isNone && (t.col 0).jobs == [6]]),
    (let m := spentMove (block 0 noMsg)
     let s := (engines fun e => { e with cur := some m }).modCol 0 fun y => { y with jobs := [5] }
     all [m.x.reply = none, m.fault = false, m.total ≤ m.next, m.part = [], m.paused = none, m.clipped = 0, m.x.cnode = 0xFFF, m.x.ccls = 31, runs (.transferComplete 0 7) s fun t => ((t.stack 0).te.get 7).cur.isNone && (t.col 0).jobs.isEmpty && t.msgs.isEmpty]),
    (let m := spentMove (block 0 msg5)
     let s := engines fun e => { e with cur := some m }
     all [m.x.cnode = 0xFFF, m.x.ccls = 5, (s.task? 7).any (fun k => k.st == .running && k.spills == false), (s.cpu (.col m.x.col)).pendCount < 64,
       runs (.transferComplete 0 7) s fun t => t.msgs.any fun f => f.dst == .col 0 && f.msg.cls == 5 && f.msg.handler == some (6, 0) && f.msg.words == [0, 8, 0, 0]]),
    (let s := engines fun e => { e with packets := [packet 9 4] }
     all [(packet 9 4).tok.marker = false, (packet 9 4).cred = .exit 0 5, packetOf 0 7 (s.slotOf 7) (packet 9 4).tok.payload = none, runs (.requestPacket 0 7) s fun t => ((t.stack 0).te.get 7).badPackets == 1]),
    (let s := engines fun e => { e with packets := [packet 1 4] }
     all [(s.col 0).band.isSome, (packetOf 0 7 (s.slotOf 7) (packet 1 4).tok.payload).isSome, runs (.requestPacket 0 7) s fun t => ((t.stack 0).te.get 7).cur.any fun m => m.total == 4 && m.x.reply == some (⟨⟨1, 1, 0⟩, 0⟩, 0)]),
    (let m := spentMove (block 0 0 (some (⟨at0 1, 0⟩, 3)))
     let s := engines fun e => { e with cur := some m }
     all [m.fault = false, m.total ≤ m.next, s.freeOf (.port ⟨at0 1, 0⟩) ≠ 0, runs (.requestPacket 0 7) s fun t => ((t.stack 0).te.get 7).cur.isNone && t.flights.any fun f => f.tok.marker && f.tok.sub == 2 && f.tok.vch == 3]),
    (let s := graph0 [{ node0 with kind := 1, count := 0, arg := 0x900630001 }]
     all [(s.task? 7).any (fun k => k.st == .running), (s.overGraph? 0).isNone, (s.graph? 0).any fun g => g.base == none, s.slotOf 7 1 = some 1, runs (.cgNodeFinish 0 0) s fun t => (t.ctx ⟨1, 3, 3⟩).sect == 9 && (t.graph? 0).any fun h => h.nodes.any (·.launched)]),
    (let s := graph0 [{ node0 with count := 0, launched := true }]; runs (.cgNodeFinish 0 0) s fun t => (t.stack 0).graphs.any fun h => h.id == 1 && h.ended == some (0, 0xFFF, s.cyc 0)),
    (let s := graph0 [{ node0 with count := 0, launched := true, succ := [1] }, { node0 with count := 2 }]; runs (.cgNodeFinish 0 0) s fun t => (t.graph? 0).any fun h => h.ended == none && (h.nodes[1]?).any fun n => n.count == 1),
    (let s := graph0 [{ node0 with count := 0, launched := true, succ := [1] }]; runs (.cgNodeFinish 0 0) s fun t => (t.stack 0).graphs.any fun h => h.id == 1 && h.ended == some (1, 1, s.cyc 0)),
    ([31, 5].all fun k =>
      let s := held.modStack 0 fun x => { x with graphs := [⟨0, k, [{ node0 with finished := true }], 7, some (0, 0xFFF, 42), 0, 1, none, none, []⟩] }
      all [(s.overGraph? 0).any fun g => g.1.cls == k && g.2.2.2 == 42, (s.graph? 0).isNone, (s.task? 7).any (fun k => k.st == .running && k.spills == false), (s.cpu (.col 0)).pendCount < 64,
        runs (.cgNodeFinish 0 0) s fun t => (t.stack 0).graphs.isEmpty && if k = 31 then t.msgs.isEmpty else t.msgs.any fun f => f.dst == .col 0 && f.msg.words == [0xFFF0000, 1, 42, 0]])] = true := by decide +kernel

/-- A refill of shelf 15 of column 0 for stage 1, with its completion suppressed. -/
def refill (bad : Bool) : Refill := ⟨0, 15, 0, 128, [⟨shelfBase 15, 0, 128, 1, 0, 128⟩], 1, 0, 31, 0, false, bad, 5, 0, 7⟩
/-- Every class of engine hart 42 armed. -/
def hart42 (f : Hart → Hart) : State := up.modHart 42 fun h => f { h with cpu := { h.cpu with hte := vfill 20 0x80000100#32 } }
theorem witness_AccessSwapAndKickEvents : all [
    (let o : QStore := ⟨0, ⟨.near, 0, phys 0x17FF8⟩, 0xFF, 9, 0⟩
     let s := cpu0 fun u => { u with storeQ := [o], serial := 1 }
     all [wfAll s, o.due ≤ s.now, o.loc.addr % 8 = 0, s.harts.toList.all fun k => !k.cpu.near.isBad (o.loc.addr / 8), s.cols.toList.all fun x => !x.cpu.near.isBad (o.loc.addr / 8),
       runs (.accessPerforms (.store (.col 0) 0)) s fun t => (t.cpu (.col 0)).storeQ.isEmpty && (t.cpu (.col 0)).near.byte (phys 0x17FF8) == 9]),
    (let o : OrdStore := ⟨.col 0, 0, 0x40, 0x0F, 0x1122334455667788, none⟩
     let s := up.modStack 3 fun x => { x with ord := [o] }
     all [s.hub.dev.isBad (o.pa / 64) = false, runs (.accessPerforms (.ordered 3 0)) s fun t => (t.stack 3).ord.isEmpty && t.hub.dev.rawWord 8 == 0x55667788]),
    (let s := (paged held).modStack 0 fun x => { x with lseQ := [refill false] }
     all [(s.stack 0).lse = none, s.refillRuns (refill false), s.refillRefused (refill false) = false, s.fetches (refill false) = false, runs (.swapRefillStart 0) s fun t => (t.col 0).drift.shelves.get 15 == .filling 1 && (t.stack 0).lse.isSome]),
    (let s := ((paged held).modStack 0 fun x => { x with lseQ := [refill true] }).modCol 0 fun y => { y with jobs := [5] }
     all [s.refillRuns (refill true), s.refillRefused (refill true), (refill true).ccls = 31, runs (.swapRefillStart 0) s fun t => (t.stack 0).lseQ.isEmpty && (t.stack 0).lse.isNone && (t.col 0).jobs.isEmpty]),
    (let s := (paged held).modStack 0 fun x => { x with lse := some ⟨refill false, 1, false, false, none, none, false, none, none⟩ }
     all [s.refillRuns (refill false), (refill false).pieces ≤ 1, (refill false).auto = false, runs (.swapRefillDone 0) s fun t => (t.col 0).drift.shelves.get 15 == .ready 1]),
    (let s := hart42 fun h => { h with moves := [⟨0, 0, 64, 9, 0, false, 64, 64, false, false, 0⟩] }
     all [64 ≤ 64, s.finished (.hart 42) = false, (s.hart 42).cpu.armed 12, (s.hart 42).cpu.pendCount < 64, (s.hart 42).cpu.selfq = [], runs (.bmovComplete 42 0) s fun t => (t.hart 42).moves.isEmpty && (t.hart 42).cpu.pend.any fun m => m.cls == 12 && m.g2 == 64 && m.g3 == 9]),
    (let s := (hart42 id).modHub fun h => { h with kicked := [(43, 7, 5, none)] }
     all [hartSender 42 = 43, 43 < 0x2C, (s.hart 42).cpu.armed 0, runs (.engineKick 0) s fun t => t.hub.kicked.isEmpty && (t.hart 42).cpu.pend.any fun m => m.cls == 0 && m.g1 == 7 && m.stamp == some 5])] = true := by decide +kernel

/-- A token queued at FI. -/
def fi (t : Token) : QTok := ⟨t, .port ⟨at0 2, 0⟩, 0⟩
/-- A page of one row, which is input 0, with NIN inputs of 8 or 16 bits. -/
def page (nin : Nat) (wide : Bool) : Plane := { Plane.empty with st := .ready, h0 := BitVec.ofNat 64 (nin * 2 ^ 18 + (if wide then 2 ^ 24 else 0) + 2 ^ 25), rowMap := [0] }
/-- The fabric of column 0 with a page in the active plane, and FO routed to i0 of element 1 through output o1 of element 0. -/
def frost0 (f : Fabric → Fabric) (p : Plane) : State :=
  fab0 (fun x => f { x with planes := vset x.planes 0 p, fo := some ⟨at0 0, 1⟩ }) ((live 0 hdrCp wordAdd toEl1).modCtx (at0 0) fun x => { x with routes := vset x.routes 1 [0x1001, toEl1] })
/-- An image of no node and one row over input `r`. -/
def image (r : Nat) : List Byte := leBytes 8 (2 ^ 18 + 2 ^ 25 + 0x4652 * 2 ^ 48) ++ leBytes 8 77 ++ leBytes 2 r ++ List.replicate 110 0
/-- That image has been read for plane 1. -/
def loaded (r : Nat) : State := { fab0 (fun f => { f with load := some ⟨1, 0, 0, [(0, image r)], false, 5, 0⟩ }) (armed0 up) with now := 25 }
theorem witness_FrostEvents : all [
    (let s := frost0 (fun f => { f with q := [fi (dataToken 5 0 true)], pos := 63 }) (page 1 false)
     let f := (s.col 0).fab
     all [f.pipe = [], f.next ≤ s.now, s.frostRuns 0, (f.planes.get f.act).st = .ready, (f.planes.get f.act).iw16 = false, f.posHeld f.pos = false,
       runs (.frostVectorAdmit 0) s fun t => (t.col 0).fab.q.isEmpty && (t.col 0).fab.pos == 0 && (t.col 0).fab.pipe == [.vec 28 63 [5] true] && t.credits.length == 1]),
    (let s := frost0 (fun f => { f with q := [fi (dataToken 5 15 false)] }) (page 17 true)
     let f := (s.col 0).fab
     all [(f.planes.get f.act).iw16, 16 < (f.planes.get f.act).nin, f.half = none, runs (.frostVectorAdmit 0) s fun t => (t.col 0).fab.half.isSome && (t.col 0).fab.pos == 1 && (t.col 0).fab.pipe.isEmpty]),
    (let s := frost0 (fun f => { f with q := [fi (dataToken 5 0 true)], pos := 9, half := some (dataToken 5 15 false, page 17 true, 8) }) .empty
     let f := (s.col 0).fab
     all [f.posHeld 8 = false, runs (.frostVectorAdmit 0) s fun t => (t.col 0).fab.half.isNone && (t.col 0).fab.pos == 9 && (t.col 0).fab.pipe == [.vec 28 8 [5] true]]),
    (let s := frost0 (fun f => { f with q := [fi (dataToken 5 0 false)], nopage := true }) .empty
     runs (.frostVectorAdmit 0) s fun t => (t.col 0).fab.q.isEmpty && (t.col 0).fab.cnt.get 1 == 1),
    (let s := frost0 (fun f => { f with q := [fi (markerToken 0 7)], pos := 9 }) (page 1 false)
     let f := (s.col 0).fab
     all [f.half = none, f.markHeld (markerToken 0 7) = false, 1 ≤ s.foFree 0, runs (.frostMarkerAdmit 0) s fun t => (t.col 0).fab.pos == 0 && (t.col 0).fab.pipe.length == 1]),
    (let s := frost0 (fun f => { readyShadow f with q := [fi (markerToken 1 7)], armed := some 1 }) (page 1 false)
     let f := (s.col 0).fab
     all [f.armed = some 1, (f.planes.get f.shadow).st = .ready, f.markHeld (markerToken 1 7) = false, runs (.frostMarkerAdmit 0) s fun t => (t.col 0).fab.act == 1 && (t.col 0).fab.armed == none && (t.col 0).fab.cnt.get 3 == 1]),
    (let s := frost0 (fun f => { f with emit := some ⟨0, 9, 63, 63, 1, true, 0⟩, acc := [(8 * 64 + 63, 0xABC)], accTaint := 0x8000000000000000 }) (page 1 false)
     all [s.foFree 0 ≠ 0, (s.foRoute 0).any fun r => r.1 == ⟨at0 0, 1⟩ && r.2.head == .dests [swOf toEl1] && r.2.turn == none, (swOf toEl1).form = 2, 8 * 1 < 9,
       runs (.femitToken 0) s fun t => (t.col 0).fab.emit.isNone && t.flights.any fun y => y.tok.taint && y.tok.valid == 0 && y.tok.payload == 0xABC]),
    (let s := frost0 (fun f => { f with clr := some ⟨60, 63, 0⟩, acc := [(60, 1), (64 + 59, 2)] }) (page 1 false)
     all [60 ≤ 63, 63 < 64, runs (.fgclrCycle 0) s fun t => (t.col 0).fab.clr.isNone && (t.col 0).fab.acc == [(123, 2)]]),
    ([0, 1].all fun r =>
      let s := loaded r
      match (s.col 0).fab.load with
      | none => false
      | some l =>
        let len := imageLen (BitVec.ofNat 64 (leNat ((l.bytes 1).take 8)))
        let q := pageOf ((l.bytes (ceilDiv len 128)).take len) l.taint l.addr
        all [len = 18, l.addr.toNat + len ≤ apertureEnd l.addr.toNat, (countFrom 0 (ceilDiv len 128)).all fun g => l.got.any fun x => x.1 == g, s.frostSleeps 0 l (ceilDiv len 128) = false,
          (countFrom 0 1).all fun m => s.frostSleeps 0 l m = false, 0 < (s.col 0).pageWidth l.addr.toNat, l.due + s.colCycles 0 (ceilDiv len ((s.col 0).pageWidth l.addr.toNat) + 24) ≤ s.now, takes s 16, q.refusal.isSome == (r == 1),
          runs (.frostLoadDone 0) s fun t => (t.col 0).fab.load.isNone && (((t.col 0).fab.planes.get 1).st == if r = 0 then .ready else .empty) &&
            (t.cpu (.col 0)).pend.any fun m => (bitsNat m.g1 7 0 == 0) == (r == 0) && bitsNat m.g1 15 8 == (if r = 0 then 0 else 2) && bitsNat m.g2 31 0 == 77])] = true := by decide +kernel

/-- A barrier of column 0. -/
def barr0 (band : Bool) : Barr := ⟨9, band, 0, 0, [], [], [], false, 0⟩
/-- A gather point at column 0 with two slots. -/
def gather0 (a b : Option (QTok × Nat)) : State := held.modCol 0 fun x => { x with gathers := [⟨⟨at0 1, 0⟩, 0, 0, [a, b], 0, 0, [4, 4], false⟩] }
/-- A corner-turn buffer of output o0 of element 0, of two tokens of 32-bit lanes. -/
def turn0 (inq : List QTok) (out : List Token) : State :=
  (live 0 hdrCp wordAdd toEl1).modCol 0 fun x => { x with turns := vset x.turns 3 ⟨some ⟨at0 0, 0⟩, 32, 1, 0, 2, 0, inq, 2, false, out, 0⟩ }
theorem witness_BarrierGatherAndTurnEvents : all [
    (let s := (armed0 up).modCol 0 fun x => { x with barr := some (barr0 false) }
     all [s.barrDrained 0 (barr0 false), takes s 13, runs (.barrierComplete 0) s fun t => (t.col 0).barr.isNone && (t.cpu (.col 0)).pend.any fun m => m.cls == 13 && m.g1 == 0x900]),
    (let s := (held.modCol 0 fun x => { x with barr := some (barr0 true) }).modCol 1 fun x => { x with barr := some (barr0 true) }
     all [s.taskOf 0 = some task7, task7.cols.all fun d => s.barrDrained d (barr0 true), runs (.barrierComplete 0) s fun t => (t.col 0).barr.isNone && (t.col 1).barr.isNone]),
    (let s := gather0 (some (fi (dataToken 5 0 false), 0)) none
     all [s.freeOf (.port ⟨at0 1, 0⟩) ≠ 0, (s.col 0).pre = .none, runs (.gatherMove 0 0) s fun t => t.flights.any (fun y => y.tok.payload == 5) && (t.col 0).gathers.any fun h => h.turn == 1 && h.slots == [none, none]]),
    (let s := gather0 (some (fi (markerToken 1 7), 0)) (some (fi (markerToken 1 7), 0)); runs (.gatherMove 0 0) s fun t => t.flights.any (fun y => y.tok.marker) && (t.col 0).gathers.any fun h => h.turn == 0 && h.slots == [none, none]),
    (let s := turn0 [fi (dataToken 5 7 false), fi (dataToken 6 7 false)] []
     all [(turnRoute ((s.ctx (at0 0)).routes.get 0)).head = .dests [swOf toEl1], (swOf toEl1).form = 2, s.headFree 0 0 0 0 (.dests [swOf toEl1]) [] ≠ 0, s.headFree 0 0 0 0 (.dests [swOf toEl1]) [3] ≠ 0,
       runs (.cturnEmit 0 3) s fun t => t.flights.any (fun y => y.tok.payload == 0x600000005) && ((t.col 0).turns.get 3).out.length == 1 && ((t.col 0).turns.get 3).inq.isEmpty]),
    runs (.cturnEmit 0 3) (turn0 [] [dataToken 9 7 false]) (fun t => t.flights.any (fun y => y.tok.payload == 9) && ((t.col 0).turns.get 3).out.isEmpty && t.credits.length == 2),
    (let s := turn0 [fi (markerToken 1 7)] []
     all [((s.col 0).turns.get 3).ready = false, runs (.cturnEmit 0 3) s fun t => t.flights.any (fun y => y.tok.marker && y.tok.payload == 7) && ((t.col 0).turns.get 3).inq.isEmpty])] = true := by decide +kernel

end Sys2Proof.Tests
end

