-- ==== Sys2Proof/Tests/Witness7.lean ====
section
/-! SUPPORT. Witnesses: drift, paging, debug, squalls, and the invariant. -/

namespace Sys2Proof.Tests

open Sys2Proof Sys2Proof.Machine

set_option Elab.async false

/-- The stages 0 and 1 of column 0, saved and not written since, the restored one ready; the context of stage 0 has seen the last wave-end of its train. -/
def stageOk (k : Nat) : StageRes := { stageRes k with saved := true }
def scrolls0 (f : Drift → Drift) (s : State := held) : State :=
  (drift0 (fun d => f { d with seq := [stageOk 0, stageOk 1], restored := true }) s).modCtx (at0 0) fun x => { x with st := .live, hdr := hdrCp, wave := true, lastw := true }
/-- A forced scroll whose notice has gone. -/
def forced0 : Forced := ⟨none, 0, 0, 0, [], true⟩
/-- An operation of `dsave` or `drest`. -/
def dop (rollback : Bool) (t : Option Nat) : DriftOp := ⟨rollback, t, vfill 32 0⟩
/-- The column can take a class-13 message and has what a drift operation at its end needs. -/
def ends (rollback : Bool) : State := { armed0 (scrolls0 fun d => { d with op := some (dop rollback (some 0)) }) with now := 10000 }
theorem witness_DriftEvents : all [
    (let s := (scrolls0 id).modCtx ⟨0, 0, (scrolls0 id).cols[0].drift.partner 0 0⟩ fun x => { x with st := .live }
     all [(s.col 0).drift.forced = none, s.holdOf 0 = some (stageOk 0, stageOk 1, none), runs (.scrollOpen 0) s fun t => (t.col 0).drift.hosted == 1 && (t.col 0).drift.odd]),
    ([(0, 1), (0, 0), (1, 1)].all fun q =>
      let s := { scrolls0 (fun d => { d with hosted := q.2, phase := .saving q.1 0, forced := if q.1 = q.2 then some forced0 else none }) with now := 10000 }
      let d := (s.col 0).drift
      all [d.res q.1 = some (stageOk q.1), d.hosted = q.2, d.next.isSome, (s.col 0).scrolling = false, d.moveTill ≤ s.now, d.seq.head? = some (stageOk 0), forced0.noticed]),
    (let s := { scrolls0 (fun d => { d with phase := .restoring 1 0 }) with now := 24 }
     let d := (s.col 0).drift
     all [d.res 1 = some (stageOk 1), (stageOk 1).resident, d.forced = none, Nat.max 0 d.moveTill + 24 ≤ s.now, d.put ≤ ((s.col 0).berthLens (stageOk 1)).length, runs (.berthRestoreDone 0) s fun t => (t.col 0).drift.phase == .idle]),
    (let b := ((scrolls0 id).col 0).drift.berthAt 0
     let s := { scrolls0 (fun d => { d with hosted := 1, phase := .restoring 0 0, forced := some forced0, lap := 3 }) with now := 24 }
     let s := s.modCol 0 fun x => { x with vert := x.vert.putBytes (b + 12) [0, 2, 0, 0] }
     let d := (s.col 0).drift
     all [d.res 0 = some (stageOk 0), d.moveTill + 24 ≤ s.now, (s.readBerth 0 (stageOk 0)).1.isSome, runs (.berthRestoreDone 0) s fun t => (t.col 0).drift.forced.isNone && (t.col 0).drift.hosted == 0 && (t.col 0).drift.lap == 0]),
    ([true, false].all fun two =>
      let s := scrolls0 fun d => { d with forced := some ⟨none, 0, 2, 3, [], false⟩, seq := if two then d.seq else [stageOk 0] }
      all [s.linkBusy 0 = false, (s.col 0).drift.phase = .idle, (s.col 0).drift.cur.isSome, (s.col 0).drift.op.isNone, runs (.flushNotice 0) s fun t => (t.col 0).drift.cnt.get 4 == 2 && (t.col 0).drift.cnt.get 5 == 3 && (t.col 0).drift.forced.isSome == two]),
    (let s := scrolls0 fun d => { d with scrollq := [(⟨at0 0, 0⟩, markerToken 6 0)] }
     all [(s.col 0).injFree ≠ 0, runs (.scrollMarkerPlace 0) s fun t => (t.col 0).drift.scrollq.isEmpty && (t.col 0).injFree == 7 && t.flights.any fun f => f.tok.marker && f.tok.sub == 6]),
    (let s := scrolls0 fun d => { d with op := some (dop false none) }
     all [(s.col 0).drift.cur = some (stageOk 0), s.quiescent 0 (stageOk 0), runs (.stageQuiesce 0) s fun t => (t.col 0).drift.op == some (dop false (some 0))]),
    (let s := ends false
     let d := (s.col 0).drift
     all [d.cur = some (stageOk 0), d.op = some (dop false (some 0)), d.moveTill ≤ s.now, takes s 13]),
    (let s := cpu0 (fun u => { u with busy := false }) (ends true)
     let d := (s.col 0).drift
     all [d.cur = some (stageOk 0), d.op = some (dop true (some 0)), d.moveTill + 24 ≤ s.now, (s.cpu (.col 0)).busy = false, takes s 13, (s.readBerth 0 (stageOk 0)).1 = none,
       runs (.drestDone 0) s fun t => (t.col 0).drift.op.isNone && (t.cpu (.col 0)).pend.any fun m => m.g1 == 0x1000003]),
    (let b := ((ends true).col 0).drift.berthAt 0
     let g := codeGranule (List.replicate 300 0 ++ leBytes 4 0x80000100 ++ List.replicate 208 0)
     let s := (cpu0 (fun u => { u with busy := false }) (ends true)).modCol 0 fun x => { x with vert := ((x.vert.putBytes (b + 12) [0, 2, 0, 0]).putBytes (b + 0x20) (leBytes 2 g.length)).putBytes (b + 0x1000) g }
     all [takes s 13, (s.cpu (.col 0)).busy = false, (s.col 0).drift.moveTill + 24 ≤ s.now,
       (match (s.readBerth 0 (stageOk 0)).1 with
        | some (raw, _, b) => takes (((s.readBerth 0 (stageOk 0)).2.taintStage 0 0 b).putImage 0 (stageOk 0) ((s.col 0).drift.view 0) raw s.now) 13
        | none => false)])] = true := by decide +kernel

/-- `paged` with a tree of 4 KiB pages below the entry for virtual 0: the entry of page 0 is given. -/
def pages (ent : DWord) (s : State := paged (hub1 fun h => { h with tasks := [{ small [] .running with cols := [] }] })) : State :=
  s.modHub fun h => { h with dev := (((h.dev.writeWord 0x400 0xFF 0x8000000000003000).writeWord 0x600 0xFF 0x8000000000004000).writeWord 0x800 0xFF ent).writeWord 0xA000 0xFF 0x100000,
                             regs := insertKey (partReg 0 0x140) 0x50000 (insertKey (partReg 0 0x148) 0x104 (insertKey (partReg 0 0x158) 1 h.regs)) }
/-- A move of one page of address space 7 at virtual 0. -/
def move (op left : Nat) (transit : Bool) : Move := ⟨op, 7, ptb7, 0, left, 0x200000, 9, some 0x300010, false, 0, 0, 0, 0, 0, false, transit, false⟩
/-- The leaf that maps it, at 0x4000. -/
def leaf0 (ent : DWord) (st : PageState) : Leaf := ⟨ent, 0x4000, 12, st, .pl⟩
/-- No context holds a stream, and no replay waits for one. -/
def calm (s : State) : Bool :=
  (s.liveCtxs.all fun r => (s.ctx r).strm.isNone) && (countFrom 0 4).all fun k => (s.stack (fin 3 k)).replay.all fun x => match x.who with | .stream r => (s.ctx r).strm.isNone | _ => true
def entP : DWord := 0xE000000000010000
def entT : DWord := 0xE400000000010000
/-- A group of 16 pages on flash. -/
def entF : DWord := 0x4180000000000008
def flash0 : State := (pages entF).modHub fun h => { h with dev := (countFrom 0 16).foldl (fun m i => m.writeWord (0x800 + i) 0xFF entF) h.dev, flash := [move 5 16 false] }
theorem witness_PagingEvents_invalidate : all [
    all [up.hub.bstep = 9, wfAll up, up.hub.inval = none, (0x8000000000000001#64).getLsbD 63, runs (.tlbInvalidate 0x0007000000005000 0x8000000000000001) up (fun t => t.hub.inval.any fun q => q.lo == 0x5000 && q.hi == 0x6000 && q.asid == 7),
      runs (.tlbInvalidate 1 0x8000000000000000) up fun t => t.hub.inval.any (fun q => q.all && q.hi == 2 ^ 48) && runs (.tlbInvalidate 0 0x8000000000000001) t fun t => t.hub.tinvRej]] = true := by decide +kernel
theorem witness_PagingEvents_invalidateDone : all [
    (let q : Inval := ⟨false, 7, 0, 4096, 0⟩
     let s := ((paged (live 3 hdrAg wordAgseq toEl1)).modHub fun h => { h with inval := some q }).modCtx (at0 3) fun x => { x with strm := some { spent with halt := .inval } }
     all [s.storesPending q = false, s.liveCtxs.all (fun r => !s.streamPending q r), q.asid = field (s.col 0).ptb 48 16, ((s.ctx (at0 3)).strm.any fun m => m.halt == .inval), runs .tlbInvalidateDone s fun t => t.hub.inval.isNone])] = true := by decide +kernel
theorem witness_PagingEvents_retry : all [
    (let m := { (block 0 noMsg).moving with paused := some 0x5008 }
     let s := te0 7 (fun e => { e with cur := some m }) (holding (small [] .running))
     all [0x5008 / 4096 = bitsNat 0x0007000000005000#64 47 12, (s.taskSpace m.x.task).2 = 0, field (s.taskSpace m.x.task).1 48 16 = (7 : BitVec 16), runs (.pfresRetry 0 0x0007000000005000) s fun t => ((t.stack 0).te.get 7).cur == some { m with paused := none }])] = true := by decide +kernel
theorem witness_PagingEvents_freeFrames : all [
    runs (.freeFrameTailWrite 0 0x12345) up (fun t => t.hub.reg (partReg 0 0x158) == 0x2345)] = true := by decide +kernel
theorem witness_PagingEvents_refusedKicks : all [
    (let s := dev0 0x10008 (leBytes 8 0x300000001) up; all [bitsNat (s.hub.peekW 0x10008) 33 32 = 3, runs (.migrationKick 0x10000) s (fun t => t.hub.moves.any fun m => m.status == 2), runs (.flashPageoutKick 0x10000) s fun t => t.hub.flash.any fun m => m.status == 2])] = true := by decide +kernel
theorem witness_PagingEvents_refusedSpace : all [
    all [up.hub.spaceOf 7 = none, bitsNat 5#64 11 0 ≠ 0]] = true := by decide +kernel
/-- A group of 16 pages that is present. -/
def group0 : State := (pages 0xE080000000010000).modHub fun h => { h with dev := (countFrom 0 16).foldl (fun m i => m.writeWord (0x800 + i) 0xFF (0xE080000000010000 + BitVec.ofNat 64 (0x1000 * i))) h.dev }
/-- With a descriptor at device address 0x20000 for address space 7, virtual 0. -/
def described (w1 w2 : Nat) (s : State) : State := dev0 0x20000 (leBytes 8 0x0007000000000000 ++ leBytes 8 w1 ++ leBytes 8 w2 ++ leBytes 8 0x0009000000300010) s
theorem witness_PagingEvents_kicks : all [
    ([(0, 1, pages entP), (1, 16, group0), (2, 16, group0)] : List (Nat × Nat × State)).all (fun q =>
      let s := described (q.1 * 2 ^ 32 + q.2.1) 0x200000 q.2.2
      all [s.hub.bstep = 9, s.hub.spaceOf 7 = some (ptb7, 0), s.hub.engWeight 0 4 ≠ 0, bitsNat (s.hub.peekW 0x20008) 33 32 = q.1, bitsNat (s.hub.peekW 0x20008) 63 34 = 0, bitsNat (s.hub.peekW 0x20010) 63 46 = 0,
        wholePages s.hub (bitsNat ptb7 45 12 * 4096) 0 (fun l => (q.1 != 1 || (l.bits == 16 && l.disc != .sa)) && (q.1 != 0 || 0x200000 % 2 ^ l.bits == 0)) q.2.1 q.2.1,
        runs (.migrationKick 0x20000) s fun t => t.hub.moves.any fun m => m.status == 0 && m.op == q.1 && m.left == q.2.1 && m.dst == 0x200000 && m.tag == 9 && m.mbox == some 0x300010]),
    (let s := described (2 ^ 34 + 16) 5 group0
     all [s.hub.spaceOf 7 = some (ptb7, 0), s.hub.engWeight 0 3 ≠ 0, bitsNat (s.hub.peekW 0x20008) 63 35 = 0, wholePages s.hub (bitsNat ptb7 45 12 * 4096) 0 (fun l => l.bits == 16 && l.st == .present && l.disc != .sa) 16 16,
       runs (.flashPageoutKick 0x20000) s fun t => t.hub.flash.any fun m => m.status == 0 && m.op == 4 && m.left == 16 && m.dst == 5 && m.force])] = true := by decide +kernel
theorem witness_PagingEvents_begin : all [
    (let s := (pages entP).modHub fun h => { h with moves := [move 0 1 false] }
     let m := move 0 1 false
     all [m.left ≠ 0, m.status = 0, s.hub.pwr = .run, m.op = 0, s.hub.inval = none, m.leaf s.hub m.va = some (leaf0 entP .present), pteContig entP = false, pteComp entP = false, s.hub.peekW 0x4000 = entP, s.hub.dev.isBad (0x4000 / 64) = false,
       runs .migrationPageDone s fun t => t.hub.moves.any (·.transit) && t.hub.peekW 0x4000 == entT && t.hub.inval.isSome])] = true := by decide +kernel
theorem witness_PagingEvents_copy : all [
    (let m := move 0 1 true
     let s := (pages entT).modHub fun h => { h with moves := [m] }
     let l := leaf0 entT .transit
     all [m.leaf s.hub m.va = some l, pteContig entT = false, pteComp entT = false, s.hub.peekW 0x4000 = entT, s.hub.admits 24 m.part 4, s.hub.inPmem m.part m.dst, s.hub.inPmem m.part (m.dst + 4095), s.hub.mapped m.dst 4096,
       s.hub.dev.badIn (l.pa s.hub (m.va / 4096 * 4096)) 4096 = false, l.addr + 8 ≤ m.dst, calm s])] = true := by decide +kernel
theorem witness_PagingEvents_complete : all [
    (let s := hub1 fun h => { h with moves := [move 0 0 false] }
     all [(s.hub.channel? 0x300010).isSome, 0x300010 % 16 = 0, runs .migrationComplete s fun t => t.hub.moves.isEmpty && t.hub.dev.rawWord (0x300010 / 8) == 0x900])] = true := by decide +kernel
theorem witness_PagingEvents_groupWritten : all [
    (let m := move 4 16 true
     let s := (pages entT).modHub fun h => { h with flash := [m] }
     all [s.hub.pageOut = some 0, m.left ≠ 0, m.status = 0, s.hub.inval = none, m.leaf s.hub m.va = some (leaf0 entT .transit), (leaf0 entT .transit).entries.all (fun k => k % 8 == 0), calm s])] = true := by decide +kernel
theorem witness_PagingEvents_pageOutEnds : all [
    (let s := hub1 fun h => { h with flash := [move 4 0 false] }; all [s.hub.pageOut = some 0, runs (.flashGroupWritten true) s fun t => t.hub.flash.isEmpty])] = true := by decide +kernel
theorem witness_PagingEvents_pageIn : all [
    (let m := move 5 16 false
     let s := flash0
     match m.leaf s.hub m.va with
     | some l => all [s.hub.flash[0]? = some m, m.op = 5, l.st = .flash, l.entries.length = 16, (s.takeFrame m.part).1 = some 0x100000, calm s, l.entries.all fun k => k % 8 = 0 && decide (k + 8 ≤ 0x100000)]
     | none => false)] = true := by decide +kernel
/-- Data of any length exists, a group's 64 KiB too, as the clause of a page-in asks. -/
theorem witness_pageInData (n : Nat) : ∃ data : List Byte, data.length = n := ⟨List.replicate n 7, List.length_replicate⟩

/-- The debug page of column 0 changed, in the band of task 7 with DBG. -/
def dbg0 (f : Debug → Debug) (s : State := held) : State := s.modCol 0 fun x => { x with dbg := f x.dbg }
theorem witness_DebugCommandEvents : all [
    (let s := dbg0 fun d => { d with busy := true }; all [s.hub.bstep = 9, (s.col 0).dbg.busy, runs (.dbgStop 0) s (fun t => (t.col 0).dbg.result == 2), runs (.dbgWrite 0) s fun t => (t.col 0).dbg.result == 2]),
    all [(up.col 0).dbg.busy = false, (up.col 0).dbgOn = false, runs (.dbgStop 0) up (fun t => (t.col 0).dbg.result == 1), runs (.dbgStepInstruction 0) up fun t => (t.col 0).dbg.result == 1],
    all [(held.col 0).dbgOn, (held.col 0).dbg.dhalt = false, runs (.dbgStop 0) held (fun t => (t.col 0).dbg.dhalt), runs (.dbgStepInstruction 0) held fun t => (t.col 0).dbg.result == 3],
    (let s := cpu0 (fun u => { u with busy := true }) (dbg0 fun d => { d with dhalt := true }); all [(s.col 0).dbg.stepping = false, (s.col 0).cpu.busy, runs (.dbgStepInstruction 0) s (fun t => (t.col 0).dbg.stepping), (s.col 0).dbg.squall = none, (s.col 0).dbg.sqstop = false,
      runs (.dbgResume 0) s fun t => !(t.col 0).dbg.dhalt]),
    (let s := cpu0 (fun u => { u with busy := true }) (dbg0 fun d => { d with dhalt := true, stepping := true }); all [(s.col 0).dbg.busy = false, runs (.dbgStepInstruction 0) s fun t => (t.col 0).dbg.busy && (t.col 0).dbg.stepping]),
    all [(held.ctx (at0 0)).stopped = false, runs (.dbgStepFiring 0 0 0) held fun t => (t.col 0).dbg.result == 3],
    (let s := (queue 0 [dataToken 5 31 false] (rich (live 0 hdrCp wordAdd toEl1))).modCtx (at0 1) fun x => { x with st := .live, hdr := hdrCp, prog := vset x.prog 0 wordAdd }
     let s := s.modCtx (at0 0) fun x => { x with stopped := true }
     let y := s.ctx (at0 0)
     all [y.stopped, y.st = .live, (s.col 0).drift.fires 0 0, s.fires 0, (s.elem 0 0).busy ≤ s.now, (s.col 0).droop = false, s.permit (at0 0) = .ok, y.mergeWord = none, hRole y.hdr = .cp, y.words.all fun w => !isAgWord (opOf w),
       runs (.dbgStepFiring 0 0 0) s fun t => (t.col 0).dbg.result == 0 && ((t.ctx (at0 0)).q.get 0).toks.isEmpty]),
    runs (.bptWrite 0 3 (-1)) up (fun t => ((t.col 0).dbg.bpts.get 3).ctl == 0xE000001FFFFFFFFF && ((t.col 0).dbg.bpts.get 3).count == 0)] = true := by decide +kernel

/-- A squall of task 7 began in cycle 0; column 0 and column 1 have stopped. -/
def squall0 : State := (((dbg0 fun d => { d with arrived := true }).modCol 1 fun x => { x with dbg := { x.dbg with arrived := true } })).modHub fun h => { h with squalls := [(7, 0)] }
/-- No context of a column that fires is unstopped. -/
def stoppedAll (s : State) (c : ColId) : Bool := (ctxRefs c).all fun r => !(s.col c).unstopped r
theorem witness_SquallAndDebugAccessEvents : all [
    all [wfAll held, held.hub.bstep = 9, (held.col 0).dbg.busy = false, (held.col 0).dbgOn, (held.col 0).band = some ⟨7, 0, 2, false, false, true⟩, held.hub.squalls = [],
      runs (.dbgSquall 0) held fun t => t.hub.squalls == [(7, 0)] && (t.col 1).dbg.squall == some 0],
    (let s := dbg0 (fun d => { d with squall := some 5 }) (inj0 (fun p => { p with ord := [(⟨at0 0, 0⟩, 9)] }) held)
     all [(s.col 0).dbg.sqstop = false, (s.col 0).dbg.arrived = false, runs (.squallArrive 0) s fun t => (t.col 0).dbg.dhalt && (t.col 0).drift.scrollq.any fun q => q.2.sub == 5 && q.2.payload == 5]),
    all [squall0.squallOf 7 = some ([0, 1], 0), (squall0.col 0).dbg.arrived, (squall0.col 1).dbg.arrived, stoppedAll squall0 0, stoppedAll squall0 1, runs (.squallComplete 7) squall0 fun t => t.hub.squalls.isEmpty && (t.col 0).dbg.sqstop],
    (let s := { squall0 with now := 65536 }.modCtx (at0 0) fun x => { x with st := .live }
     all [0 + 65536 ≤ s.now, (s.col 0).unstopped (at0 0), runs (.squallTimeout 7) s fun t => (t.col 0).dbg.inexact && (t.ctx (at0 0)).stopped]),
    (let s := cpu0 (fun u => { u with near := { u.near with bytes := [⟨phys 0x17FF8, 7⟩] } }) (dbg0 fun d => { d with dbaddr := 0x17FF8, dbdata := 9 })
     all [wfAll s, (s.col 0).dbg.busy = false, (s.col 0).dbg.dbaddr.getLsbD 63 = false, 0x17FF8 % 8 = 0, (s.col 0).nearCause 0x17FF8 = none, (s.col 0).cpu.near.isBad ((s.col 0).nearPhys 0x17FF8 / 8) = false,
       runs (.dbgRead 0) s (fun t => (t.col 0).dbg.dbdata == 7), runs (.dbgWrite 0) s fun t => (t.col 0).dbg.result == 3]),
    (let s := dbg0 fun d => { d with dbaddr := 0x17FF8, dbdata := 9, dhalt := true }; all [(s.col 0).dbg.dhalt, runs (.dbgWrite 0) s fun t => (t.cpu (.col 0)).near.byte (phys 0x17FF8) == 9]),
    (let s := (dbg0 fun d => { d with pending := some (false, 0), dbaddr := 0x8000000000000008, busy := true }).modCol 0 fun x => { x with vert := { x.vert with bytes := [⟨8, 7⟩] } }
     match (s.col 0).debugLoc 0 with
     | some l => all [l.space = .vert, (s.col 0).shelfOn (vShelf l.addr), (s.col 0).vret.getLsbD (vLayer l.addr) = false, (s.col 0).vert.isBad (l.addr / 8) = false, runs (.debugAccessDone 0) s fun t => (t.col 0).dbg.dbdata == 7 && !(t.col 0).dbg.busy]
     | none => false)] = true := by decide +kernel

theorem witness_AStepKeepsTheMemoriesCanonical : (let s := atWord 0x10210005; all [wfAll s, free s,
    okAnd (s.fetch s.focus) (fun p => match decode p.1 with | .ok i => coreForm p.2 i | .error _ => false), steps s wfAll]) = true := by decide +kernel

end Sys2Proof.Tests
end

section
/-! SUPPORT. Decoding the words of the bitfield, immediate, shift, branch and jump forms (R210, R212 to R214). -/

namespace Sys2Proof.Machine

open Sys2Proof

/-! The fields of a word. -/

/-- A field as a number is the field as a bit vector. -/
theorem rng_eq_toNat_bits (x lo n : Nat) : rng x lo n = (bits x lo n).toNat := by simp [rng, bits]

/-- The bits `hi` down to `lo` are the field of that place and width. -/
theorem bitsNat_eq_toNat_bits {w : Nat} (x : BitVec w) (hi lo : Nat) :
    bitsNat x hi lo = (bits x.toNat lo (hi + 1 - lo)).toNat := by
  simp [bitsNat, bits, Nat.shiftRight_eq_div_pow]

/-- A field has a value exactly if its number is the value's. -/
theorem bits_eq_iff_rng_eq (x lo n : Nat) (v : BitVec n) : bits x lo n = v ↔ rng x lo n = v.toNat := by
  rw [rng_eq_toNat_bits, BitVec.toNat_inj]

/-- A field of a bit vector is its slice. -/
theorem bits_toNat_eq_extractLsb' {w : Nat} (x : BitVec w) (lo n : Nat) : bits x.toNat lo n = x.extractLsb' lo n := by
  simp [bits, BitVec.extractLsb', Nat.shiftRight_eq_div_pow]

/-- Adjacent fields have given values exactly if the field that they make up is those values side by side. -/
theorem bits_eq_append_iff {w m n : Nat} (x : BitVec w) (lo : Nat) (u : BitVec m) (v : BitVec n) :
    bits x.toNat lo (m + n) = u ++ v ↔ bits x.toNat (lo + n) m = u ∧ bits x.toNat lo n = v := by
  simp only [bits_toNat_eq_extractLsb', ← BitVec.extractLsb'_append_extractLsb'_eq_extractLsb' (start₂ := lo + n) rfl]
  constructor
  · intro h
    have hu := congrArg (BitVec.extractLsb' n m) h
    have hv := congrArg (BitVec.extractLsb' 0 n) h
    simp only [BitVec.extractLsb'_append_eq_left, BitVec.extractLsb'_append_eq_right] at hu hv
    exact ⟨hu, hv⟩
  · rintro ⟨rfl, rfl⟩
    rfl

/-- A word is two parts side by side exactly if its upper and its lower field are those. -/
theorem bitVec_eq_append_iff {m n : Nat} (w : BitVec (m + n)) (u : BitVec m) (v : BitVec n) :
    w = u ++ v ↔ bits w.toNat n m = u ∧ bits w.toNat 0 n = v := by
  have h := bits_eq_append_iff w 0 u v
  rwa [Nat.zero_add, bits_toNat_eq_extractLsb', BitVec.extractLsb'_eq_self] at h

/-- The fields of a word of the I format (R177). -/
theorem eq_iFormat_iff (w : Word) (o : BitVec 6) (d a : BitVec 5) (i : BitVec 16) :
    w = o ++ d ++ a ++ i ↔
      bits w.toNat 26 6 = o ∧ bits w.toNat 21 5 = d ∧ bits w.toNat 16 5 = a ∧ bits w.toNat 0 16 = i := by
  rw [bitVec_eq_append_iff w (o ++ d ++ a) i, bits_eq_append_iff, bits_eq_append_iff]
  simp only [and_assoc, Nat.reduceAdd]

/-- The fields of a word of a bitfield form (R210). -/
theorem eq_bitfieldWord_iff (w : Word) (o : BitVec 6) (d a : BitVec 5) (p l : BitVec 6) (k : BitVec 4) :
    w = o ++ d ++ a ++ p ++ l ++ k ↔
      bits w.toNat 26 6 = o ∧ bits w.toNat 21 5 = d ∧ bits w.toNat 16 5 = a ∧ bits w.toNat 10 6 = p ∧
        bits w.toNat 4 6 = l ∧ bits w.toNat 0 4 = k := by
  rw [bitVec_eq_append_iff w (o ++ d ++ a ++ p ++ l) k, bits_eq_append_iff, bits_eq_append_iff, bits_eq_append_iff,
    bits_eq_append_iff]
  simp only [and_assoc, Nat.reduceAdd]

/-- The fields of a word of a shift by an immediate (R213). -/
theorem eq_shiftWord_iff (w : Word) (o : BitVec 6) (d a : BitVec 5) (k : BitVec 2) (z : BitVec 8) (n : BitVec 6) :
    w = o ++ d ++ a ++ k ++ z ++ n ↔
      bits w.toNat 26 6 = o ∧ bits w.toNat 21 5 = d ∧ bits w.toNat 16 5 = a ∧ bits w.toNat 14 2 = k ∧
        bits w.toNat 6 8 = z ∧ bits w.toNat 0 6 = n := by
  rw [bitVec_eq_append_iff w (o ++ d ++ a ++ k ++ z) n, bits_eq_append_iff, bits_eq_append_iff, bits_eq_append_iff,
    bits_eq_append_iff]
  simp only [and_assoc, Nat.reduceAdd]

/-- The fields of a word of a jump to a register (R214): the link bit stands below fifteen reserved ones. -/
theorem eq_jumpWord_iff (w : Word) (o : BitVec 6) (z a : BitVec 5) (k : BitVec 1) :
    w = o ++ z ++ a ++ 0#5 ++ (0#10 ++ k) ↔
      bits w.toNat 26 6 = o ∧ bits w.toNat 21 5 = z ∧ bits w.toNat 16 5 = a ∧ bits w.toNat 1 15 = 0#15 ∧
        bits w.toNat 0 1 = k := by
  have h15 : bits w.toNat 1 15 = 0#15 ↔ bits w.toNat 11 5 = 0#5 ∧ bits w.toNat 1 10 = 0#10 :=
    bits_eq_append_iff w 1 0#5 0#10
  rw [bitVec_eq_append_iff w (o ++ z ++ a ++ 0#5) (0#10 ++ k), bits_eq_append_iff, bits_eq_append_iff, bits_eq_append_iff,
    bits_eq_append_iff, h15]
  simp only [and_assoc, Nat.reduceAdd]

/-! The opcodes of the forms. -/

/-- The opcode of the forms of R210 and R212 to R214. -/
def formOpcode : Instr → Option (BitVec 6)
  | .extr .. | .extru .. | .ins .. => some 0x02#6
  | .addi .. => some 0x04#6
  | .andi .. => some 0x05#6
  | .ori .. => some 0x06#6
  | .xori .. => some 0x07#6
  | .slti .. => some 0x08#6
  | .sltui .. => some 0x09#6
  | .shli .. | .shri .. | .srai .. => some 0x0A#6
  | .lui .. => some 0x0B#6
  | .addpc .. => some 0x0C#6
  | .beq .. => some 0x10#6
  | .bne .. => some 0x11#6
  | .blt .. => some 0x12#6
  | .bge .. => some 0x13#6
  | .bltu .. => some 0x14#6
  | .bgeu .. => some 0x15#6
  | .jmp .. => some 0x16#6
  | .call .. => some 0x17#6
  | .jmpr .. | .callr .. => some 0x18#6
  | _ => none

/-- Of the forms above, a decoding gives only those of opcode `k`. -/
def FormsOf (k : Nat) : Except Reject Instr → Prop
  | .ok i => ∀ o, formOpcode i = some o → o.toNat = k
  | .error _ => True

@[simp] theorem formsOf_error (k : Nat) (e : Reject) : FormsOf k (.error e) := trivial
@[simp] theorem formsOf_ok (k : Nat) (i : Instr) : FormsOf k (.ok i) ↔ ∀ o, formOpcode i = some o → o.toNat = k := Iff.rfl
@[simp] theorem formsOf_res (k : Nat) (b : Bool) (i : Instr) : FormsOf k (res b i) ↔ (b = true → FormsOf k (.ok i)) := by
  cases b <;> simp [res]

/-! The decoders of the other opcodes give none of the forms. -/

@[simp] theorem decSys_formsOf (k x : Nat) : FormsOf k (decSys x) := by
  unfold decSys; split <;> simp [formOpcode]
@[simp] theorem decAlu_formsOf (k x : Nat) : FormsOf k (decAlu x) := by
  unfold decAlu; split <;> simp [formOpcode]
@[simp] theorem decFpu_formsOf (k x : Nat) : FormsOf k (decFpu x) := by
  unfold decFpu; split <;> simp [formOpcode]
@[simp] theorem decLoad_formsOf (k x : Nat) : FormsOf k (decLoad x) := by
  unfold decLoad; split <;> simp [formOpcode]
@[simp] theorem decStore_formsOf (k x : Nat) : FormsOf k (decStore x) := by
  unfold decStore; split <;> simp [formOpcode]
@[simp] theorem decSa_formsOf (k x : Nat) : FormsOf k (decSa x) := by
  unfold decSa; split <;> simp [formOpcode]
@[simp] theorem decAtomic_formsOf (k x : Nat) : FormsOf k (decAtomic x) := by
  unfold decAtomic; split <;> simp [formOpcode]
@[simp] theorem decVert_formsOf (k x : Nat) : FormsOf k (decVert x) := by
  unfold decVert; split <;> simp [formOpcode]
@[simp] theorem decAcq_formsOf (k x : Nat) : FormsOf k (decAcq x) := by
  unfold decAcq; split <;> simp [formOpcode]
@[simp] theorem decRel_formsOf (k x : Nat) : FormsOf k (decRel x) := by
  unfold decRel; split <;> simp [formOpcode]
@[simp] theorem decMsg_formsOf (k x : Nat) : FormsOf k (decMsg x) := by
  unfold decMsg; split <;> simp [formOpcode]
@[simp] theorem decHandler_formsOf (k x : Nat) : FormsOf k (decHandler x) := by
  unfold decHandler; split <;> simp [formOpcode]
@[simp] theorem decCfg_formsOf (k x : Nat) : FormsOf k (decCfg x) := by
  unfold decCfg; split <;> simp [formOpcode]
@[simp] theorem decStream_formsOf (k x : Nat) : FormsOf k (decStream x) := by
  unfold decStream; split <;> simp [formOpcode]
@[simp] theorem decFrost_formsOf (k x : Nat) : FormsOf k (decFrost x) := by
  unfold decFrost; split <;> simp [formOpcode]
@[simp] theorem decDrift_formsOf (k x : Nat) : FormsOf k (decDrift x) := by
  unfold decDrift; split <;> simp [formOpcode]
@[simp] theorem decEngine_formsOf (k x : Nat) : FormsOf k (decEngine x) := by
  unfold decEngine; split <;> simp [formOpcode]
@[simp] theorem decGraph_formsOf (k x : Nat) : FormsOf k (decGraph x) := by
  unfold decGraph; split <;> simp [formOpcode]
@[simp] theorem decCr_formsOf (k x : Nat) : FormsOf k (decCr x) := by
  unfold decCr; split <;> simp [formOpcode]

/-! The decoders of R210, R213 and R214 give those of their opcode. -/

@[simp] theorem decBfx_formsOf (x : Nat) : FormsOf 2 (decBfx x) := by
  unfold decBfx; split <;> simp [formOpcode]
@[simp] theorem decShift_formsOf (x : Nat) : FormsOf 10 (decShift x) := by
  unfold decShift; split <;> simp [formOpcode]
@[simp] theorem decJump_formsOf (x : Nat) : FormsOf 24 (decJump x) := by
  unfold decJump; split <;> simp [formOpcode]

/-- What the fields of a word spell, if it is one of the forms, has the word's opcode. -/
theorem decodeFields_formsOf (x : Nat) : FormsOf (rng x 26 6) (decodeFields x) := by
  unfold decodeFields
  split <;> simp [*, formOpcode]

theorem bits_eq_of_decodeFields {x : Nat} {i : Instr} {o : BitVec 6} (ho : formOpcode i = some o)
    (h : decodeFields x = .ok i) : bits x 26 6 = o := by
  have hf := decodeFields_formsOf x
  rw [h, formsOf_ok, rng_eq_toNat_bits] at hf
  exact (BitVec.eq_of_toNat_eq (hf o ho)).symm

/-- An instruction without a limit is what a word spells exactly if it is what the word's fields spell. -/
theorem decode_eq_ok_iff (w : Word) {i : Instr} (hwf : i.wellFormed = true) :
    decode w = .ok i ↔ decodeFields w.toNat = .ok i := by
  unfold decode
  split
  next j hj =>
    rw [hj]
    by_cases hwj : j.wellFormed = true
    · rw [if_pos hwj]
    · simp only [if_neg hwj, reduceCtorEq, Except.ok.injEq, false_iff]
      rintro rfl
      exact hwj hwf
  next e he => simp [he]

/-- A word whose fields spell nothing is illegal. -/
theorem decode_eq_error {w : Word} {e : Reject} (h : decodeFields w.toNat = .error e) : decode w = .error e := by
  simp [decode, h]

/-- A word whose fields spell an instruction that breaks a limit is illegal. -/
theorem decode_eq_limit {w : Word} {i : Instr} (h : decodeFields w.toNat = .ok i) (hwf : i.wellFormed = false) :
    decode w = .error .limit := by
  simp [decode, h, hwf]

/-- A form is what a word spells exactly if the word has its opcode, and what the decoder of that opcode reads is the form. -/
theorem decode_form_iff {w : Word} {i : Instr} {o : BitVec 6} {r : Except Reject Instr} (ho : formOpcode i = some o)
    (hwf : i.wellFormed = true) (hr : bits w.toNat 26 6 = o → decodeFields w.toNat = r) :
    decode w = .ok i ↔ bits w.toNat 26 6 = o ∧ r = .ok i := by
  rw [decode_eq_ok_iff w hwf]
  constructor
  · intro h
    have hb := bits_eq_of_decodeFields ho h
    exact ⟨hb, (hr hb).symm.trans h⟩
  · rintro ⟨hb, h⟩
    exact (hr hb).trans h

/-- What is read under a check of reserved fields. -/
@[simp] theorem res_eq_ok_iff (b : Bool) (i j : Instr) : res b i = .ok j ↔ b = true ∧ i = j := by
  cases b <;> simp [res]

/-! The arm of each opcode. -/

theorem decodeFields_bfx {x : Nat} (h : bits x 26 6 = 0x02#6) : decodeFields x = decBfx x := by
  simp [decodeFields, rng_eq_toNat_bits, h]
theorem decodeFields_shift {x : Nat} (h : bits x 26 6 = 0x0A#6) : decodeFields x = decShift x := by
  simp [decodeFields, rng_eq_toNat_bits, h]
theorem decodeFields_jump {x : Nat} (h : bits x 26 6 = 0x18#6) : decodeFields x = decJump x := by
  simp [decodeFields, rng_eq_toNat_bits, h]

/-- A form of the I format without reserved fields is spelled by one word. -/
theorem decode_iFormat_iff {f : BitVec 5 → BitVec 5 → BitVec 16 → Instr} {o : BitVec 6} {w : Word} {d a : BitVec 5} {i : BitVec 16}
    (ho : formOpcode (f d a i) = some o) (hwf : (f d a i).wellFormed = true)
    (harm : bits w.toNat 26 6 = o → decodeFields w.toNat = .ok (f (bits w.toNat 21 5) (bits w.toNat 16 5) (bits w.toNat 0 16)))
    (hf : ∀ {d a i d' a' i'}, f d a i = f d' a' i' → d = d' ∧ a = a' ∧ i = i') :
    decode w = .ok (f d a i) ↔ w = o ++ d ++ a ++ i := by
  rw [decode_form_iff ho hwf harm, eq_iFormat_iff, Except.ok.injEq]
  refine and_congr_right fun _ => ⟨hf, ?_⟩
  rintro ⟨rfl, rfl, rfl⟩
  rfl

/-! The words of the I format (R212, R214). -/

theorem decode_addi_iff (w : Word) (d a : BitVec 5) (i : BitVec 16) :
    decode w = .ok (.addi d a i) ↔ w = 0x04#6 ++ d ++ a ++ i :=
  decode_iFormat_iff rfl rfl (fun h => by simp [decodeFields, rng_eq_toNat_bits, h]) Instr.addi.inj
theorem decode_andi_iff (w : Word) (d a : BitVec 5) (i : BitVec 16) :
    decode w = .ok (.andi d a i) ↔ w = 0x05#6 ++ d ++ a ++ i :=
  decode_iFormat_iff rfl rfl (fun h => by simp [decodeFields, rng_eq_toNat_bits, h]) Instr.andi.inj
theorem decode_ori_iff (w : Word) (d a : BitVec 5) (i : BitVec 16) :
    decode w = .ok (.ori d a i) ↔ w = 0x06#6 ++ d ++ a ++ i :=
  decode_iFormat_iff rfl rfl (fun h => by simp [decodeFields, rng_eq_toNat_bits, h]) Instr.ori.inj
theorem decode_xori_iff (w : Word) (d a : BitVec 5) (i : BitVec 16) :
    decode w = .ok (.xori d a i) ↔ w = 0x07#6 ++ d ++ a ++ i :=
  decode_iFormat_iff rfl rfl (fun h => by simp [decodeFields, rng_eq_toNat_bits, h]) Instr.xori.inj
theorem decode_slti_iff (w : Word) (d a : BitVec 5) (i : BitVec 16) :
    decode w = .ok (.slti d a i) ↔ w = 0x08#6 ++ d ++ a ++ i :=
  decode_iFormat_iff rfl rfl (fun h => by simp [decodeFields, rng_eq_toNat_bits, h]) Instr.slti.inj
theorem decode_sltui_iff (w : Word) (d a : BitVec 5) (i : BitVec 16) :
    decode w = .ok (.sltui d a i) ↔ w = 0x09#6 ++ d ++ a ++ i :=
  decode_iFormat_iff rfl rfl (fun h => by simp [decodeFields, rng_eq_toNat_bits, h]) Instr.sltui.inj

theorem decode_beq_iff (w : Word) (a b : BitVec 5) (o : BitVec 16) :
    decode w = .ok (.beq a b o) ↔ w = 0x10#6 ++ a ++ b ++ o :=
  decode_iFormat_iff rfl rfl (fun h => by simp [decodeFields, rng_eq_toNat_bits, h]) Instr.beq.inj
theorem decode_bne_iff (w : Word) (a b : BitVec 5) (o : BitVec 16) :
    decode w = .ok (.bne a b o) ↔ w = 0x11#6 ++ a ++ b ++ o :=
  decode_iFormat_iff rfl rfl (fun h => by simp [decodeFields, rng_eq_toNat_bits, h]) Instr.bne.inj
theorem decode_blt_iff (w : Word) (a b : BitVec 5) (o : BitVec 16) :
    decode w = .ok (.blt a b o) ↔ w = 0x12#6 ++ a ++ b ++ o :=
  decode_iFormat_iff rfl rfl (fun h => by simp [decodeFields, rng_eq_toNat_bits, h]) Instr.blt.inj
theorem decode_bge_iff (w : Word) (a b : BitVec 5) (o : BitVec 16) :
    decode w = .ok (.bge a b o) ↔ w = 0x13#6 ++ a ++ b ++ o :=
  decode_iFormat_iff rfl rfl (fun h => by simp [decodeFields, rng_eq_toNat_bits, h]) Instr.bge.inj
theorem decode_bltu_iff (w : Word) (a b : BitVec 5) (o : BitVec 16) :
    decode w = .ok (.bltu a b o) ↔ w = 0x14#6 ++ a ++ b ++ o :=
  decode_iFormat_iff rfl rfl (fun h => by simp [decodeFields, rng_eq_toNat_bits, h]) Instr.bltu.inj
theorem decode_bgeu_iff (w : Word) (a b : BitVec 5) (o : BitVec 16) :
    decode w = .ok (.bgeu a b o) ↔ w = 0x15#6 ++ a ++ b ++ o :=
  decode_iFormat_iff rfl rfl (fun h => by simp [decodeFields, rng_eq_toNat_bits, h]) Instr.bgeu.inj

/-! The words of the bitfield forms (R210). -/

theorem decBfx_eq_extr_iff (x : Nat) (d a : BitVec 5) (p l : BitVec 6) : decBfx x = .ok (.extr d a p l) ↔
    bits x 21 5 = d ∧ bits x 16 5 = a ∧ bits x 10 6 = p ∧ bits x 4 6 = l ∧ bits x 0 4 = 0#4 := by
  rw [bits_eq_iff_rng_eq x 0 4, decBfx]
  split <;> simp_all
theorem decBfx_eq_extru_iff (x : Nat) (d a : BitVec 5) (p l : BitVec 6) : decBfx x = .ok (.extru d a p l) ↔
    bits x 21 5 = d ∧ bits x 16 5 = a ∧ bits x 10 6 = p ∧ bits x 4 6 = l ∧ bits x 0 4 = 1#4 := by
  rw [bits_eq_iff_rng_eq x 0 4, decBfx]
  split <;> simp_all
theorem decBfx_eq_ins_iff (x : Nat) (d a : BitVec 5) (p l : BitVec 6) : decBfx x = .ok (.ins d a p l) ↔
    bits x 21 5 = d ∧ bits x 16 5 = a ∧ bits x 10 6 = p ∧ bits x 4 6 = l ∧ bits x 0 4 = 2#4 := by
  rw [bits_eq_iff_rng_eq x 0 4, decBfx]
  split <;> simp_all
theorem decode_extr_iff (w : Word) (d a : BitVec 5) {p l : BitVec 6} (h : bfxOk p l = true) :
    decode w = .ok (.extr d a p l) ↔ w = 0x02#6 ++ d ++ a ++ p ++ l ++ 0#4 := by
  rw [decode_form_iff (i := .extr d a p l) rfl h decodeFields_bfx, decBfx_eq_extr_iff, eq_bitfieldWord_iff]
theorem decode_extru_iff (w : Word) (d a : BitVec 5) {p l : BitVec 6} (h : bfxOk p l = true) :
    decode w = .ok (.extru d a p l) ↔ w = 0x02#6 ++ d ++ a ++ p ++ l ++ 1#4 := by
  rw [decode_form_iff (i := .extru d a p l) rfl h decodeFields_bfx, decBfx_eq_extru_iff, eq_bitfieldWord_iff]
theorem decode_ins_iff (w : Word) (d a : BitVec 5) {p l : BitVec 6} (h : bfxOk p l = true) :
    decode w = .ok (.ins d a p l) ↔ w = 0x02#6 ++ d ++ a ++ p ++ l ++ 2#4 := by
  rw [decode_form_iff (i := .ins d a p l) rfl h decodeFields_bfx, decBfx_eq_ins_iff, eq_bitfieldWord_iff]

/-- A bitfield word with a code from 3 on, or with a field past bit 63, is illegal (R210). -/
theorem decode_bitfield_illegal {w : Word} (ho : bits w.toNat 26 6 = 0x02#6)
    (h : 3 ≤ rng w.toNat 0 4 ∨ bfxOk (bits w.toNat 10 6) (bits w.toNat 4 6) = false) : ∃ e, decode w = .error e := by
  have hf := decodeFields_bfx ho
  unfold decBfx at hf
  split at hf
  case h_4 => exact ⟨_, decode_eq_error hf⟩
  all_goals
    next hc => exact ⟨_, decode_eq_limit hf (h.resolve_left (by omega))⟩

/-! The words of the shifts by an immediate, of `lui` and of `addpc` (R213). -/

theorem decShift_eq_shli_iff (x : Nat) (d a : BitVec 5) (n : BitVec 6) : decShift x = .ok (.shli d a n) ↔
    bits x 21 5 = d ∧ bits x 16 5 = a ∧ bits x 14 2 = 0#2 ∧ bits x 6 8 = 0#8 ∧ bits x 0 6 = n := by
  rw [bits_eq_iff_rng_eq x 14 2, bits_eq_iff_rng_eq x 6 8, decShift]
  split <;> simp_all [and_left_comm]
theorem decShift_eq_shri_iff (x : Nat) (d a : BitVec 5) (n : BitVec 6) : decShift x = .ok (.shri d a n) ↔
    bits x 21 5 = d ∧ bits x 16 5 = a ∧ bits x 14 2 = 1#2 ∧ bits x 6 8 = 0#8 ∧ bits x 0 6 = n := by
  rw [bits_eq_iff_rng_eq x 14 2, bits_eq_iff_rng_eq x 6 8, decShift]
  split <;> simp_all [and_left_comm]
theorem decShift_eq_srai_iff (x : Nat) (d a : BitVec 5) (n : BitVec 6) : decShift x = .ok (.srai d a n) ↔
    bits x 21 5 = d ∧ bits x 16 5 = a ∧ bits x 14 2 = 2#2 ∧ bits x 6 8 = 0#8 ∧ bits x 0 6 = n := by
  rw [bits_eq_iff_rng_eq x 14 2, bits_eq_iff_rng_eq x 6 8, decShift]
  split <;> simp_all [and_left_comm]
theorem decode_shli_iff (w : Word) (d a : BitVec 5) (n : BitVec 6) :
    decode w = .ok (.shli d a n) ↔ w = 0x0A#6 ++ d ++ a ++ 0#2 ++ 0#8 ++ n := by
  rw [decode_form_iff rfl rfl decodeFields_shift, decShift_eq_shli_iff, eq_shiftWord_iff]
theorem decode_shri_iff (w : Word) (d a : BitVec 5) (n : BitVec 6) :
    decode w = .ok (.shri d a n) ↔ w = 0x0A#6 ++ d ++ a ++ 1#2 ++ 0#8 ++ n := by
  rw [decode_form_iff rfl rfl decodeFields_shift, decShift_eq_shri_iff, eq_shiftWord_iff]
theorem decode_srai_iff (w : Word) (d a : BitVec 5) (n : BitVec 6) :
    decode w = .ok (.srai d a n) ↔ w = 0x0A#6 ++ d ++ a ++ 2#2 ++ 0#8 ++ n := by
  rw [decode_form_iff rfl rfl decodeFields_shift, decShift_eq_srai_iff, eq_shiftWord_iff]

/-- A shift word with selector 3, or with a reserved bit set, is illegal (R213). -/
theorem decode_shift_illegal {w : Word} (ho : bits w.toNat 26 6 = 0x0A#6)
    (h : rng w.toNat 14 2 = 3 ∨ rng w.toNat 6 8 ≠ 0) : ∃ e, decode w = .error e := by
  have hf := decodeFields_shift ho
  unfold decShift at hf
  split at hf
  case h_4 => exact ⟨_, decode_eq_error hf⟩
  all_goals
    next hc =>
      have hz : (rng w.toNat 6 8 == 0) = false := beq_false_of_ne (h.resolve_left (by omega))
      rw [hz] at hf
      exact ⟨_, decode_eq_error hf⟩

theorem decode_lui_iff (w : Word) (d : BitVec 5) (i : BitVec 16) :
    decode w = .ok (.lui d i) ↔ w = 0x0B#6 ++ d ++ 0#5 ++ i := by
  have harm : bits w.toNat 26 6 = 0x0B#6 → decodeFields w.toNat =
      res (rng w.toNat 16 5 == 0) (.lui (bits w.toNat 21 5) (bits w.toNat 0 16)) :=
    fun h => by simp [decodeFields, rng_eq_toNat_bits, h]
  rw [decode_form_iff rfl rfl harm, eq_iFormat_iff, res_eq_ok_iff, beq_iff_eq, Instr.lui.injEq,
    bits_eq_iff_rng_eq _ 16 5, BitVec.toNat_zero]
  tauto
theorem decode_addpc_iff (w : Word) (d : BitVec 5) (i : BitVec 16) :
    decode w = .ok (.addpc d i) ↔ w = 0x0C#6 ++ d ++ 0#5 ++ i := by
  have harm : bits w.toNat 26 6 = 0x0C#6 → decodeFields w.toNat =
      res (rng w.toNat 16 5 == 0) (.addpc (bits w.toNat 21 5) (bits w.toNat 0 16)) :=
    fun h => by simp [decodeFields, rng_eq_toNat_bits, h]
  rw [decode_form_iff rfl rfl harm, eq_iFormat_iff, res_eq_ok_iff, beq_iff_eq, Instr.addpc.injEq,
    bits_eq_iff_rng_eq _ 16 5, BitVec.toNat_zero]
  tauto

/-! The words of the jumps (R214). -/

theorem decode_jmp_iff (w : Word) (j : BitVec 26) : decode w = .ok (.jmp j) ↔ w = 0x16#6 ++ j := by
  have harm : bits w.toNat 26 6 = 0x16#6 → decodeFields w.toNat = .ok (.jmp (bits w.toNat 0 26)) :=
    fun h => by simp [decodeFields, rng_eq_toNat_bits, h]
  rw [decode_form_iff rfl rfl harm, bitVec_eq_append_iff w 0x16#6 j, Except.ok.injEq, Instr.jmp.injEq]
theorem decode_call_iff (w : Word) (j : BitVec 26) : decode w = .ok (.call j) ↔ w = 0x17#6 ++ j := by
  have harm : bits w.toNat 26 6 = 0x17#6 → decodeFields w.toNat = .ok (.call (bits w.toNat 0 26)) :=
    fun h => by simp [decodeFields, rng_eq_toNat_bits, h]
  rw [decode_form_iff rfl rfl harm, bitVec_eq_append_iff w 0x17#6 j, Except.ok.injEq, Instr.call.injEq]

theorem decJump_eq_jmpr_iff (x : Nat) (a : BitVec 5) : decJump x = .ok (.jmpr a) ↔
    bits x 21 5 = 0#5 ∧ bits x 16 5 = a ∧ bits x 1 15 = 0#15 ∧ bits x 0 1 = 0#1 := by
  rw [bits_eq_iff_rng_eq x 21 5, bits_eq_iff_rng_eq x 1 15, bits_eq_iff_rng_eq x 0 1, decJump]
  split <;> simp_all [and_assoc, and_comm]
theorem decJump_eq_callr_iff (x : Nat) (a : BitVec 5) : decJump x = .ok (.callr a) ↔
    bits x 21 5 = 0#5 ∧ bits x 16 5 = a ∧ bits x 1 15 = 0#15 ∧ bits x 0 1 = 1#1 := by
  rw [bits_eq_iff_rng_eq x 21 5, bits_eq_iff_rng_eq x 1 15, bits_eq_iff_rng_eq x 0 1, decJump]
  split <;> simp_all [and_assoc, and_comm]
theorem decode_jmpr_iff (w : Word) (a : BitVec 5) :
    decode w = .ok (.jmpr a) ↔ w = 0x18#6 ++ 0#5 ++ a ++ 0#5 ++ 0#11 := by
  rw [decode_form_iff rfl rfl decodeFields_jump, decJump_eq_jmpr_iff, show 0#11 = 0#10 ++ 0#1 from rfl, eq_jumpWord_iff]
theorem decode_callr_iff (w : Word) (a : BitVec 5) :
    decode w = .ok (.callr a) ↔ w = 0x18#6 ++ 0#5 ++ a ++ 0#5 ++ 1#11 := by
  rw [decode_form_iff rfl rfl decodeFields_jump, decJump_eq_callr_iff, show 1#11 = 0#10 ++ 1#1 from rfl, eq_jumpWord_iff]

end Sys2Proof.Machine
end

section
/-! SUPPORT. The bits and values of the bitfield, immediate and shift forms, and the statements about them (R210, R212, R213). -/

namespace Sys2Proof.Machine

open Sys2Proof

/-- A width of a bitfield is never 0: the code 0 stands for 64. -/
theorem bfWidth_pos (l : BitVec 6) : 0 < bfWidth l := by
  unfold bfWidth
  split
  · decide
  next h => exact Nat.pos_of_ne_zero fun e => h (BitVec.eq_of_toNat_eq e)

theorem bfxOk_iff (p l : BitVec 6) : bfxOk p l = true ↔ p.toNat + bfWidth l ≤ 64 := decide_eq_true_iff

/-- A field runs past bit 63 exactly if its word breaks the limit. -/
theorem bfxOk_eq_false_iff (p l : BitVec 6) :
    bfxOk p l = false ↔ 64 < p.toNat + (if l.toNat = 0 then 64 else l.toNat) := by
  simp [bfxOk, ← BitVec.toNat_inj]

/-- A sign extension repeats the field's top bit. -/
theorem getLsbD_signExt {n : Nat} (x : DWord) {k : Nat} (hn : 0 < n) (hk : k < 64) :
    (signExt n x).getLsbD k = x.getLsbD (Nat.min k (n - 1)) := by
  rw [signExt, BitVec.getLsbD_signExtend, BitVec.getLsbD_setWidth, BitVec.msb_setWidth]
  by_cases h : k < n
  · simp [h, hk, show Nat.min k (n - 1) = k from Nat.min_eq_left (by omega)]
  · simp [h, hk, hn, show Nat.min k (n - 1) = n - 1 from Nat.min_eq_right (by omega)]

/-- A zero extension keeps the field's bits. -/
theorem getLsbD_zeroExt (n : Nat) (x : DWord) {k : Nat} (hk : k < 64) :
    (zeroExt n x).getLsbD k = (decide (k < n) && x.getLsbD k) := by
  simp [zeroExt, BitVec.getLsbD_setWidth, hk]

/-- The mask of a field's width. -/
theorem getLsbD_fieldMask (n : Nat) {k : Nat} (hk : k < 64) :
    (BitVec.ofNat 64 (2 ^ n - 1)).getLsbD k = decide (k < n) := by
  rw [BitVec.getLsbD_ofNat, Nat.testBit_two_pow_sub_one, decide_eq_true hk, Bool.true_and]

/-- What `ins` writes: the low `n` bits of `x` at bit `p` of `y`. -/
def inserted (x y : DWord) (p n : Nat) : DWord :=
  (y &&& ~~~(BitVec.ofNat 64 (2 ^ n - 1) <<< p)) ||| ((x &&& BitVec.ofNat 64 (2 ^ n - 1)) <<< p)

theorem getLsbD_inserted (x y : DWord) (p n : Nat) {k : Nat} (hk : k < 64) :
    (inserted x y p n).getLsbD k = if p ≤ k ∧ k < p + n then x.getLsbD (k - p) else y.getLsbD k := by
  simp only [inserted, BitVec.getLsbD_or, BitVec.getLsbD_and, BitVec.getLsbD_not, BitVec.getLsbD_shiftLeft,
    getLsbD_fieldMask n (show k - p < 64 by omega), hk, decide_true, Bool.true_and]
  by_cases hp : p ≤ k
  · have hm : k - p < n ↔ k < p + n := by omega
    by_cases h : k < p + n <;> simp [hp, hm, h, Nat.not_lt.mpr hp]
  · simp [hp, Nat.lt_of_not_le hp]

/-- Settles O8: each result bit is a bit of the field as the two extensions and the insertion place it. -/
theorem bitfieldFormsMoveTheField : Obligations.BitfieldFormsMoveTheField := by
  unfold Obligations.BitfieldFormsMoveTheField
  refine ⟨fun w ho hill => ?_, fun s d a p l n hn hfit => ⟨fun w => ?_, ?_, ?_, ?_⟩⟩
  · simp only [bitsNat_eq_toNat_bits, ← bfxOk_eq_false_iff] at ho hill
    rw [← rng_eq_toNat_bits] at hill
    exact decode_bitfield_illegal (BitVec.eq_of_toNat_eq ho) hill
  all_goals
    replace hn : n = bfWidth l := hn
    subst hn
  · have hok := (bfxOk_iff p l).mpr hfit
    exact ⟨decode_extr_iff w d a hok, decode_extru_iff w d a hok, decode_ins_iff w d a hok⟩
  · refine ⟨_, rfl, fun k hk => ?_⟩
    rw [getLsbD_signExt _ (bfWidth_pos l) hk, BitVec.getLsbD_ushiftRight]
  · refine ⟨_, rfl, fun k hk => ?_⟩
    rw [getLsbD_zeroExt _ _ hk, BitVec.getLsbD_ushiftRight]
  · exact ⟨inserted (s.g a) (s.g d) p.toNat (bfWidth l), rfl, fun k hk => getLsbD_inserted _ _ _ _ hk⟩

/-! Immediates and shifts. -/

theorem flagBit_slt_signExtend (x : DWord) (i : BitVec 16) :
    flagBit 64 (x.slt (i.signExtend 64)) = if x.toInt < i.toInt then 1 else 0 := by
  simp [flagBit, BitVec.slt_iff_toInt_lt, BitVec.toInt_signExtend_of_le]

theorem flagBit_ult (x y : DWord) : flagBit 64 (x.ult y) = if x.toNat < y.toNat then 1 else 0 := by
  simp [flagBit, BitVec.ult_iff_toNat_lt]

/-- Settles O9: every form is its operation on g(a) and the sign-extended immediate. -/
theorem immediateFormsUseTheSignExtendedImmediate : Obligations.ImmediateFormsUseTheSignExtendedImmediate := by
  unfold Obligations.ImmediateFormsUseTheSignExtendedImmediate
  intro s d a i
  refine ⟨rfl, rfl, rfl, rfl, ?_, ?_, fun w => ⟨decode_addi_iff w d a i, decode_andi_iff w d a i, decode_ori_iff w d a i,
    decode_xori_iff w d a i, decode_slti_iff w d a i, decode_sltui_iff w d a i⟩⟩
  · rw [← flagBit_slt_signExtend]; rfl
  · rw [← flagBit_ult]; rfl

/-- An arithmetic shift divides, rounding down. -/
theorem sshiftRight_eq_ofInt_div (x : DWord) (n : Nat) : x.sshiftRight n = BitVec.ofInt 64 (x.toInt / 2 ^ n) := by
  rw [← BitVec.ofInt_toInt (x := x.sshiftRight n), BitVec.toInt_sshiftRight, Int.shiftRight_eq_div_pow]
  norm_cast

/-- An offset counts words. -/
theorem relTarget_eq {w : Nat} (pc : DWord) (o : BitVec w) : relTarget pc o = pc + BitVec.ofInt 64 (4 * o.toInt) := by
  rw [relTarget, BitVec.signExtend, Int.mul_comm, BitVec.ofInt_mul]; rfl

/-- Settles O10: every form is its operation, and the words follow from the opcode's arm. -/
theorem shiftLuiAndAddpcForms : Obligations.ShiftLuiAndAddpcForms := by
  unfold Obligations.ShiftLuiAndAddpcForms
  intro s d a n i
  refine ⟨rfl, rfl, ?_, rfl, ?_, fun w => ⟨decode_shli_iff w d a n, decode_shri_iff w d a n, decode_srai_iff w d a n,
    decode_lui_iff w d i, decode_addpc_iff w d i⟩, fun w ho hill => ?_⟩
  · rw [← sshiftRight_eq_ofInt_div]; rfl
  · rw [← relTarget_eq]; rfl
  · rw [bitsNat_eq_toNat_bits] at ho
    simp only [bitsNat_eq_toNat_bits, ← rng_eq_toNat_bits] at hill
    exact decode_shift_illegal (BitVec.eq_of_toNat_eq ho) hill

end Sys2Proof.Machine
end

section
/-! SUPPORT. Branches and jumps: targets, link, frame, and the fault of a misaligned target (R214, R215). -/

namespace Sys2Proof.Machine

open Sys2Proof

/-! Updates of one sequencer. -/

/-- An update of a sequencer depends only on what it makes of that sequencer. -/
theorem State.modCpu_congr {s : State} {n : Node} {f g : Cpu → Cpu} (h : f (s.cpu n) = g (s.cpu n)) :
    s.modCpu n f = s.modCpu n g := by
  cases n <;> simp_all [State.modCpu, State.modCol, State.modHart, State.cpu, State.col, State.hart, vmod]

@[simp] theorem State.setPc_pc (s : State) (n : Node) (v : DWord) : (s.setPc n v).pc n = v := by
  simp [State.setPc, State.pc]

theorem State.skip_eq_setPc (s : State) : s.skip = s.setPc s.focus (s.pc s.focus + 4) :=
  State.modCpu_congr (s := s) (n := s.focus) (f := fun u => { u with pc := u.pc + 4 }) rfl

/-- A register written and the pc moved is all that differs. -/
theorem State.setReg_setPc_regsOnly (s : State) (n : Node) (d : BitVec 5) (v p : DWord) :
    regsOnly s ((s.setReg n d v).setPc n p) n d := by
  obtain ⟨g, dirty, hframe⟩ := Cpu.setReg_frame (s.cpu n) d v
  have hcpu : (s.setReg n d v).setPc n p = s.modCpu n fun u => { u with g := g, pc := p, dirty := dirty } := by
    rw [State.setPc, State.setReg, State.modCpu_modCpu]
    exact State.modCpu_congr (by rw [hframe])
  refine ⟨⟨g, p, dirty, hcpu⟩, fun r hr => ?_⟩
  have hreg := Cpu.reg_setReg (s.cpu n) d r v
  rw [if_neg fun h => hr h.1] at hreg
  simpa [State.reg, State.setPc, State.setReg, Cpu.reg] using hreg

/-! Branches. -/

theorem exec_beq (a b : BitVec 5) (o : BitVec 16) (s : State) :
    exec (.beq a b o) s = branchTo a b o (fun x y => x == y) s := rfl
theorem exec_bne (a b : BitVec 5) (o : BitVec 16) (s : State) :
    exec (.bne a b o) s = branchTo a b o (fun x y => x != y) s := rfl
theorem exec_blt (a b : BitVec 5) (o : BitVec 16) (s : State) :
    exec (.blt a b o) s = branchTo a b o (fun x y => x.slt y) s := rfl
theorem exec_bge (a b : BitVec 5) (o : BitVec 16) (s : State) :
    exec (.bge a b o) s = branchTo a b o (fun x y => !x.slt y) s := rfl
theorem exec_bltu (a b : BitVec 5) (o : BitVec 16) (s : State) :
    exec (.bltu a b o) s = branchTo a b o (fun x y => x.ult y) s := rfl
theorem exec_bgeu (a b : BitVec 5) (o : BitVec 16) (s : State) :
    exec (.bgeu a b o) s = branchTo a b o (fun x y => !x.ult y) s := rfl

/-- A branch on a condition: to its target, or to the next word. -/
theorem branchTo_eq_ite {c : DWord → DWord → Bool} {P : Prop} [Decidable P] (a b : BitVec 5) (o : BitVec 16) (s : State)
    (h : c (s.g a) (s.g b) = true ↔ P) :
    branchTo a b o c s = if P then .next (s.setPc s.focus (s.pc s.focus + BitVec.ofInt 64 (4 * o.toInt)))
      else .next (s.setPc s.focus (s.pc s.focus + 4)) := by
  rw [branchTo, relTarget_eq, State.skip_eq_setPc]
  simp only [h]

/-- A branch moves the pc and nothing else. -/
theorem branchTo_next {c : DWord → DWord → Bool} {a b : BitVec 5} {o : BitVec 16} {s t : State}
    (h : branchTo a b o c s = .next t) : t = s.setPc s.focus (t.pc s.focus) := by
  rcases branchTo_cases a b o c s with ⟨_, e⟩ | ⟨_, e⟩ <;> rw [e] at h <;> cases h
  · rw [State.setPc_pc]
  · rw [State.skip_eq_setPc, State.setPc_pc]

/-! Jumps to a register. -/

theorem bitsNat_one_zero (x : DWord) : bitsNat x 1 0 = x.toNat % 4 := by simp [bitsNat]

theorem jumpTo_aligned {t : DWord} (h : t.toNat % 4 = 0) (link : Bool) (s : State) :
    jumpTo link t s = .ok ((if link then s.setReg s.focus 31 (s.pc s.focus + 4) else s).setPc s.focus t) := by
  simp [jumpTo, bitsNat_one_zero, h]

theorem jumpTo_misaligned {t : DWord} (h : t.toNat % 4 ≠ 0) (link : Bool) (s : State) :
    jumpTo link t s = .error (.trap ⟨.misaligned, none, t⟩) := by
  simp [jumpTo, bitsNat_one_zero, h]

theorem exec_jmpr_aligned {a : BitVec 5} {s : State} (h : (s.g a).toNat % 4 = 0) :
    exec (.jmpr a) s = .next (s.setPc s.focus (s.g a)) := by
  show seqResult s (jumpTo false (s.g a) s) = _
  rw [jumpTo_aligned h]; rfl

theorem exec_callr_aligned {a : BitVec 5} {s : State} (h : (s.g a).toNat % 4 = 0) :
    exec (.callr a) s = .next ((s.setReg s.focus 31 (s.pc s.focus + 4)).setPc s.focus (s.g a)) := by
  show seqResult s (jumpTo true (s.g a) s) = _
  rw [jumpTo_aligned h]; rfl

/-! What taking a fault leaves unchanged. -/

/-- No general register of any sequencer and no memory differs. -/
def sameRegsAndMemory (s t : State) : Prop := (∀ m r, t.reg m r = s.reg m r) ∧ sameMemory s t

theorem sameRegsAndMemory.refl (s : State) : sameRegsAndMemory s s := by simp [sameRegsAndMemory, sameMemory]

theorem sameRegsAndMemory.trans {s t u : State} (h : sameRegsAndMemory s t) (k : sameRegsAndMemory t u) :
    sameRegsAndMemory s u := by
  obtain ⟨hreg, hcol, hhart, hdev, hord, hq⟩ := h
  obtain ⟨kreg, kcol, khart, kdev, kord, kq⟩ := k
  simp_all [sameRegsAndMemory, sameMemory]

/-- An update of a sequencer that keeps its registers, its near store and its queued stores. -/
theorem State.modCpu_sameRegsAndMemory (s : State) (n : Node) {f : Cpu → Cpu}
    (hf : (f (s.cpu n)).g = (s.cpu n).g ∧ (f (s.cpu n)).near = (s.cpu n).near ∧ (f (s.cpu n)).storeQ = (s.cpu n).storeQ) :
    sameRegsAndMemory s (s.modCpu n f) := by
  obtain ⟨hg, hnear, hq⟩ := hf
  have hcpu (m : Node) : ((s.modCpu n f).cpu m).g = (s.cpu m).g ∧ ((s.modCpu n f).cpu m).near = (s.cpu m).near ∧
      ((s.modCpu n f).cpu m).storeQ = (s.cpu m).storeQ := by
    by_cases h : m = n
    · subst h; rw [State.modCpu_cpu]; exact ⟨hg, hnear, hq⟩
    · rw [State.modCpu_cpu_ne s n m f h]; exact ⟨rfl, rfl, rfl⟩
  have hvert (c : ColId) : ((s.modCpu n f).col c).vert = (s.col c).vert := by
    cases n with
    | col d =>
      by_cases h : c = d
      · subst h; simp [State.modCpu]
      · simp [State.modCpu, State.modCol_col_ne s d c _ h]
    | hart k => simp [State.modCpu]
  refine ⟨fun m r => ?_, fun c a => ⟨?_, ?_⟩, fun h a => ?_, fun a => ?_, fun k => ?_, fun m => (hcpu m).2.2⟩
  · simp only [State.reg, Cpu.reg, (hcpu m).1]
  · exact congrArg (Store.byte · a) (hcpu (.col c)).2.1
  · rw [hvert]
  · exact congrArg (Store.byte · a) (hcpu (.hart h)).2.1
  · rw [State.modCpu_hub]
  · rw [State.stack, State.modCpu_stk, State.stack]

/-- An update of the hub that keeps device memory. -/
theorem State.modHub_sameRegsAndMemory (s : State) {f : Hub → Hub} (hf : (f s.hub).dev = s.hub.dev) :
    sameRegsAndMemory s (s.modHub f) := by
  simp [sameRegsAndMemory, sameMemory, State.reg, hf]

theorem State.countFault_cpu (s : State) (n m : Node) : (s.countFault n).cpu m = s.cpu m := by
  unfold State.countFault
  split
  · rfl
  · split
    · rfl
    · rw [State.modHub_cpu]

theorem State.countFault_sameRegsAndMemory (s : State) (n : Node) : sameRegsAndMemory s (s.countFault n) := by
  unfold State.countFault
  split
  · exact .refl s
  · split
    · exact .refl s
    · exact State.modHub_sameRegsAndMemory s rfl

theorem State.enterSup_sameRegsAndMemory (s : State) (n : Node) (c : Cause) : sameRegsAndMemory s (s.enterSup n c) := by
  unfold State.enterSup
  dsimp only
  split
  · exact (State.modCpu_sameRegsAndMemory s n ⟨rfl, rfl, rfl⟩).trans (State.modHub_sameRegsAndMemory _ rfl)
  · exact State.modCpu_sameRegsAndMemory s n ⟨rfl, rfl, rfl⟩

/-- Entering supervisor mode keeps what the fault has recorded. -/
theorem State.enterSup_epc_ecause (s : State) (n : Node) (c : Cause) :
    ((s.enterSup n c).cpu n).epc = (s.cpu n).epc ∧ ((s.enterSup n c).cpu n).ecause = (s.cpu n).ecause := by
  cases h : (s.cpu n).sup
  · rw [State.enterSup_user s n c h]; exact ⟨rfl, rfl⟩
  · rw [State.enterSup_halts s n c h]; exact ⟨rfl, rfl⟩

/-- The first part of taking a fault: its record, and its count. -/
def State.faultRecorded (s : State) (n : Node) (k : Trap) : State :=
  (s.modCpu n fun u => { u.recordFault u.pc k.cause 0 k.addr with clr := none }).countFault n

theorem State.faultRecorded_sameRegsAndMemory (s : State) (n : Node) (k : Trap) :
    sameRegsAndMemory s (s.faultRecorded n k) :=
  (State.modCpu_sameRegsAndMemory s n ⟨rfl, rfl, rfl⟩).trans (State.countFault_sameRegsAndMemory _ n)

theorem State.faultRecorded_epc_ecause (s : State) (n : Node) (k : Trap) :
    ((s.faultRecorded n k).cpu n).epc = s.pc n ∧ ((s.faultRecorded n k).cpu n).ecause = BitVec.ofNat 64 k.cause.code := by
  rw [State.faultRecorded, State.countFault_cpu, State.modCpu_cpu]
  exact ⟨rfl, by simp [Cpu.recordFault]⟩

/-- Taking a fault goes on from its record either into supervisor mode or to the end of the handler and a class-19 message. -/
theorem State.seqFault_cases (s : State) (n : Node) (k : Trap) :
    s.seqFault n k = (s.faultRecorded n k).enterSup n k.cause ∨
    ∃ m, s.seqFault n k = (s.faultRecorded n k).modCpu n fun u => { u with busy := false, pend := u.pend ++ [m] } := by
  unfold State.seqFault
  dsimp only
  split
  · exact .inl rfl
  · exact .inr ⟨_, State.modCpu_modCpu ..⟩

/-- Taking a fault writes epc and ecause, and leaves every general register and every memory. -/
theorem State.seqFault_recorded (s : State) (n : Node) (k : Trap) :
    ((s.seqFault n k).cpu n).epc = s.pc n ∧ ((s.seqFault n k).cpu n).ecause = BitVec.ofNat 64 k.cause.code ∧
      sameRegsAndMemory s (s.seqFault n k) := by
  obtain ⟨hepc, hecause⟩ := s.faultRecorded_epc_ecause n k
  have hsame := s.faultRecorded_sameRegsAndMemory n k
  rcases s.seqFault_cases n k with h | ⟨m, h⟩ <;> rw [h]
  · obtain ⟨kepc, kecause⟩ := (s.faultRecorded n k).enterSup_epc_ecause n k.cause
    exact ⟨kepc.trans hepc, kecause.trans hecause, hsame.trans (State.enterSup_sameRegsAndMemory _ n k.cause)⟩
  · rw [State.modCpu_cpu]
    exact ⟨hepc, hecause, hsame.trans (State.modCpu_sameRegsAndMemory _ n ⟨rfl, rfl, rfl⟩)⟩

/-- A jump to a register whose value is not word-aligned takes the fault "misaligned". -/
theorem exec_jump_misaligned {a : BitVec 5} {i : Instr} {s : State} (hi : i = .jmpr a ∨ i = .callr a)
    (h : (s.g a).toNat % 4 ≠ 0) : exec i s = .next (s.seqFault s.focus ⟨.misaligned, none, s.g a⟩) := by
  rcases hi with rfl | rfl
  · show seqResult s (jumpTo false (s.g a) s) = _
    rw [jumpTo_misaligned h]; rfl
  · show seqResult s (jumpTo true (s.g a) s) = _
    rw [jumpTo_misaligned h]; rfl

/-! What branches and jumps leave unchanged. -/

/-- A branch or direct jump leaves everything but the pc. -/
theorem exec_branch_frame {s t : State} {a b : BitVec 5} {o : BitVec 16} {j : BitVec 26} {i : Instr}
    (hi : i ∈ [.beq a b o, .bne a b o, .blt a b o, .bge a b o, .bltu a b o, .bgeu a b o, .jmp j])
    (h : exec i s = .next t) : t = s.setPc s.focus (t.pc s.focus) := by
  simp only [List.mem_cons, List.not_mem_nil, or_false] at hi
  rcases hi with rfl | rfl | rfl | rfl | rfl | rfl | rfl
  case inr.inr.inr.inr.inr.inr =>
    cases h
    rw [State.setPc_pc]
  all_goals
    simp only [exec_beq, exec_bne, exec_blt, exec_bge, exec_bltu, exec_bgeu] at h
    exact branchTo_next h

/-- A linking jump leaves everything but the pc and g31. -/
theorem exec_call_frame {s t : State} {a : BitVec 5} {j : BitVec 26} {i : Instr}
    (hi : i = .call j ∨ i = .callr a ∧ (s.g a).toNat % 4 = 0) (h : exec i s = .next t) : regsOnly s t s.focus 31 := by
  rcases hi with rfl | ⟨rfl, ha⟩
  · cases h
    exact State.setReg_setPc_regsOnly ..
  · rw [exec_callr_aligned ha] at h
    cases h
    exact State.setReg_setPc_regsOnly ..

/-- Settles O11: a branch is its condition's choice of two targets, and a jump to a register is its alignment's choice of a target or a fault. -/
theorem branchesAndJumpsGoWhereTheySay : Obligations.BranchesAndJumpsGoWhereTheySay := by
  unfold Obligations.BranchesAndJumpsGoWhereTheySay
  refine ⟨fun s a b o j => ?_, fun s a i hi ha => ?_, fun s t a b o j i => ⟨exec_branch_frame, exec_call_frame, ?_⟩⟩
  · refine ⟨(exec_beq ..).trans (branchTo_eq_ite a b o s ?_), (exec_bne ..).trans (branchTo_eq_ite a b o s ?_),
      (exec_blt ..).trans (branchTo_eq_ite a b o s ?_), (exec_bge ..).trans (branchTo_eq_ite a b o s ?_),
      (exec_bltu ..).trans (branchTo_eq_ite a b o s ?_), (exec_bgeu ..).trans (branchTo_eq_ite a b o s ?_), ?_, ?_,
      fun ha => ⟨exec_jmpr_aligned ha, exec_callr_aligned ha⟩,
      fun w => ⟨decode_beq_iff w a b o, decode_bne_iff w a b o, decode_blt_iff w a b o, decode_bge_iff w a b o,
        decode_bltu_iff w a b o, decode_bgeu_iff w a b o, decode_jmp_iff w j, decode_call_iff w j, decode_jmpr_iff w a,
        decode_callr_iff w a⟩⟩
    · exact beq_iff_eq
    · exact bne_iff_ne
    · exact BitVec.slt_iff_toInt_lt
    · simp [BitVec.slt]
    · exact BitVec.ult_iff_toNat_lt
    · simp [BitVec.ult]
    · rw [← relTarget_eq]; rfl
    · rw [← relTarget_eq]; rfl
  · obtain ⟨hepc, hecause, hreg, hmem⟩ := s.seqFault_recorded s.focus ⟨.misaligned, none, s.g a⟩
    exact ⟨_, exec_jump_misaligned hi ha, hepc, hecause, hreg, hmem⟩
  · rintro rfl ha h
    rw [exec_jmpr_aligned ha] at h
    cases h
    rw [State.setPc_pc]

end Sys2Proof.Machine
end
